-- ==== Sys2Proof/Word.lean ====
section
/-! DEFINITION. The word types of the machine and their plainest arithmetic (R4, R9, R134). -/

namespace Sys2Proof

/-- A 64-bit register or queue word (R117, R119). -/
abbrev Word := BitVec 64

/-- A byte of any memory (R4). -/
abbrev Byte := BitVec 8

/-- One 16-bit instruction word (R99). -/
abbrev Half := BitVec 16

/-- The five floating-point flags in FPFLAGS order: NV, DZ, OF, UF, NX from bit 0 (R127, R180). -/
abbrev FlagBits := BitVec 5

/-- A word of value n modulo 2^64. -/
abbrev wd (n : Nat) : Word := BitVec.ofNat 64 n

/-- A word of the integer n modulo 2^64, the w64 of R134. -/
abbrev w64 (n : Int) : Word := BitVec.ofInt 64 n

/-- The unsigned reading of a word, the ug of R134. -/
abbrev ug (w : Word) : Nat := w.toNat

/-- The signed reading of a word, the sg of R134. -/
abbrev sg (w : Word) : Int := w.toInt

end Sys2Proof
end

