-- ==== Sys2Proof/Syntax.lean ====
section
/-! DEFINITION. The messages, packets and operands that cross the machine's boundary, and Instr: one constructor for
each row of spec/opcode_table.json, the 228 encoded instructions first and the 158 steps of the other agents after. -/

namespace Sys2Proof

/-- KIND of a message (R14). -/
inductive MsgKind where
  | task | seed | landing | stream | streamend | trap | event
  | reserved (code : Nat)
  deriving DecidableEq, Repr

/-- A message of R12: the header fields and the six payload words. DEST is the 24-bit field [99:76]. -/
structure Msg where
  kind : MsgKind
  pri : Bool := false
  taddr : Bool := false
  ord : Bool := false
  flow : Nat := 0
  seq : Nat := 0
  ddev : Nat := 0
  dpart : Nat := 0
  handler : Nat := 0
  lgen : Nat := 0
  lid : Nat := 0
  dest : Nat := 0
  sdev : Nat := 0
  score : Nat := 0
  payload : List Word := []
  deriving DecidableEq, Repr

/-- A stage-2 invalidation: the partition, and the translation tag of the grant outside the device that it names, if it names one
(R243, R252). -/
structure Inval where
  part : Nat
  tag : Option Nat := none
  deriving DecidableEq, Repr

/-- What a remote atomic does at the peer (R274, R363); signal operations are forwarded as atomics too (R429). -/
inductive AmoOp where
  | add | and | or | xor | min | max | swap | cas | sigAdd | sigNeg
  deriving DecidableEq, Repr

/-- The body of a fabric packet by PTYPE (R345, R349, R350, R361 to R364, R377). -/
inductive PktBody where
  | message (m : Msg)
  | bead (rod gen dpart srod daddr : Nat) (data : List Byte)
  | beam (rod gen dpart count srod : Nat)
  | notice (rod gen : Nat) (fault : Bool) (arrived : Nat)
  | readreq (tag dpart daddr len : Nat)
  | readresp (tag : Nat) (data : List Byte)
  | atomic (tag score seq dpart daddr : Nat) (op : AmoOp) (size : Nat) (sgn : Bool) (arg cmp : Word)
  | atomicresp (tag : Nat) (old : Word)
  | store (dpart daddr : Nat) (data : List Byte)
  | flowack (score flow cls seq : Nat)
  | flowclose (score flow cls seq : Nat)
  | unknown (ptype : Nat)
  deriving DecidableEq, Repr, Inhabited

/-- A fabric packet: the envelope of R345 and its body. src is the endpoint number that the transport's source stands for, as the fabric
manager has assigned or bound it (R368, R369), and ctag the carrier tag of the writes that carry it over UALink (R368). -/
structure Pkt where
  inj : Nat := 0
  sdev : Nat := 0
  ddev : Nat := 0
  body : PktBody
  src : Nat := 0
  ctag : Nat := 0
  /-- The writes into the peer's fabric window that carry it over UALink: address and bytes (R368). -/
  writes : List (Nat × List Byte) := []
  /-- It comes out of a deferred-arrival buffer (R346). -/
  deferred : Bool := false
  /-- Of a packet that waits at its destination, the pod time in microseconds at which its lifetime ends (R346). -/
  ends : Option Nat := none
  deriving DecidableEq, Repr

/-- The name of a command or work queue: partition, job and handle (R40, R42). -/
structure QKey where
  part : Nat
  job : Nat
  handle : Nat
  deriving DecidableEq, Repr

/-- The name of a launch: partition, LID and LGEN (R30). -/
structure LKey where
  part : Nat
  lid : Nat
  lgen : Nat
  deriving DecidableEq, Repr

/-- The name of a loaded graph: partition, job and handle (R30, R383). -/
structure GKey where
  part : Nat
  job : Nat
  handle : Nat
  deriving DecidableEq, Repr

/-- A memory-order suffix: SCOPE, ORDER and HINT of a PFX.M (R107). -/
structure MemOrd where
  scope : Nat
  order : Nat
  hint : Nat
  deriving DecidableEq, Repr

/-- The fields of the job descriptor (R74). -/
structure JobDesc where
  job : Nat
  jgen : Nat
  qtlen : Nat
  floor : Nat := 0
  part : Nat
  super : Word := 0
  qtab : Nat := 0
  phsig : Nat := 0
  ovfpool : Nat := 0
  ovflen : Nat := 0
  s1root : Nat := 0
  jobsig : Nat := 0
  deriving DecidableEq, Repr

/-- An access of the host over PCI Express (R275, R334): the first five in the device-memory window of BAR2, the last two in BAR0. -/
inductive HostOp where
  | read (len : Nat)
  | write (data : List Byte)
  /-- The atomics, with log2 of their size in bytes. -/
  | fetchAdd (size : Nat) (v : Word)
  | swap (size : Nat) (v : Word)
  | cas (size : Nat) (cmp v : Word)
  | readBar0 (len : Nat)
  | writeBar0 (data : List Byte)
  deriving DecidableEq, Repr

/-- A control-space register that an access names: a write where it has no behaviour of its own beyond its RW fields, and a read (R7). -/
inductive CtlReg where
  | fwall (die : Nat)
  | peertab (i : Nat)
  | fabpol (part : Nat)
  | wdpol (part : Nat)
  | rodblk (die b : Nat)
  | kslot (n : Nat)
  | fwdrange (part i : Nat)
  | fwdtgt (part : Nat)
  | presetPart
  | preq (die : Nat)
  | clpart (cluster : Nat)
  | epdrop (die : Nat)
  | hbmref (stack layer : Nat)
  | pwrcap
  | sealcmd
  | s2root (part : Nat)
  | walkresp (die : Nat)
  | corestat (core : Nat)
  /-- The access reads the register. -/
  | read (reg : CtlReg)
  deriving DecidableEq, Repr

/-- A thermal band crossing (R457): a die, or a layer of an HBM4 stack, at a temperature in degrees C. -/
inductive ThermalPoint where
  | die (d : Nat)
  | layer (stack l : Nat)
  deriving DecidableEq, Repr

/-- The settings of a PARTCFG request (R454): CLPART values by cluster, key-slot owners, rod blocks by (die, block), and
VF assignments (vf, partition, job, job generation). -/
structure PartCfg where
  clusters : List (Nat × Nat)
  slots : List (Nat × Nat)
  blocks : List (Nat × Nat × Nat)
  vfs : List (Nat × Nat × Nat × Nat)
  deriving DecidableEq, Repr

/-- Which of the two decode causes an undecodable chain traps with (R109). -/
inductive UndefCause where
  | illegal | pfx
  deriving DecidableEq, Repr

/-- One constructor for each row of spec/opcode_table.json. Register operands are 5-bit numbers after extension by PFX.X
(R104); t, g, z, p, q, m, v are the parts of m5 (R112 to R115); k is the governing mask, 0 for none; mo is the PFX.M. -/
inductive Instr where
  /-- ADD (R136). -/
  | add (d a b : Nat)
  /-- SUB (R136). -/
  | sub (d a b : Nat)
  /-- AND (R136). -/
  | and (d a b : Nat)
  /-- OR (R136). -/
  | or (d a b : Nat)
  /-- XOR (R136). -/
  | xor (d a b : Nat)
  /-- SHL (R136). -/
  | shl (d a b : Nat)
  /-- SHR (R136). -/
  | shr (d a b : Nat)
  /-- SRA (R136). -/
  | sra (d a b : Nat)
  /-- MUL (R136). -/
  | mul (d a b : Nat)
  /-- MULH (R136). -/
  | mulh (d a b : Nat)
  /-- MULHU (R136). -/
  | mulhu (d a b : Nat)
  /-- ROL (R136). -/
  | rol (d a b : Nat)
  /-- DIV (R137). -/
  | div (d a b : Nat)
  /-- DIVU (R137). -/
  | divu (d a b : Nat)
  /-- REM (R137). -/
  | rem (d a b : Nat)
  /-- REMU (R137). -/
  | remu (d a b : Nat)
  /-- MIN (R136). -/
  | min (d a b : Nat)
  /-- MAX (R136). -/
  | max (d a b : Nat)
  /-- MINU (R136). -/
  | minu (d a b : Nat)
  /-- MAXU (R136). -/
  | maxu (d a b : Nat)
  /-- SEQ (R136). -/
  | seq (d a b : Nat)
  /-- SNE (R136). -/
  | sne (d a b : Nat)
  /-- SLT (R136). -/
  | slt (d a b : Nat)
  /-- SLTU (R136). -/
  | sltu (d a b : Nat)
  /-- SLE (R136). -/
  | sle (d a b : Nat)
  /-- SLEU (R136). -/
  | sleu (d a b : Nat)
  /-- SEL (R136). -/
  | sel (d a b : Nat)
  /-- ADDW (R136). -/
  | addw (d a b : Nat)
  /-- ADDI (R138). -/
  | addi (d a : Nat) (imm : Int)
  /-- ANDI (R138). -/
  | andi (d a : Nat) (imm : Int)
  /-- ORI (R138). -/
  | ori (d a : Nat) (imm : Int)
  /-- XORI (R138). -/
  | xori (d a : Nat) (imm : Int)
  /-- SHLI (R138). -/
  | shli (d a imm : Nat)
  /-- SHRI (R138). -/
  | shri (d a imm : Nat)
  /-- SRAI (R138). -/
  | srai (d a imm : Nat)
  /-- LI (R139). -/
  | li (d : Nat) (imm : Int)
  /-- LIH (R139). -/
  | lih (d imm : Nat)
  /-- MOV (R140). -/
  | mov (d a : Nat)
  /-- NEG (R140). -/
  | neg (d a : Nat)
  /-- NOT (R140). -/
  | not (d a : Nat)
  /-- CLZ (R140). -/
  | clz (d a : Nat)
  /-- CTZ (R140). -/
  | ctz (d a : Nat)
  /-- POPC (R140). -/
  | popc (d a : Nat)
  /-- BSWAP (R140). -/
  | bswap (d a : Nat)
  /-- SEXTB (R140). -/
  | sextb (d a : Nat)
  /-- SEXTH (R140). -/
  | sexth (d a : Nat)
  /-- SEXTW (R140). -/
  | sextw (d a : Nat)
  /-- ZEXTB (R140). -/
  | zextb (d a : Nat)
  /-- ZEXTH (R140). -/
  | zexth (d a : Nat)
  /-- ZEXTW (R140). -/
  | zextw (d a : Nat)
  /-- QCNT (R141). -/
  | qcnt (d a : Nat)
  /-- BFX (R142). -/
  | bfx (d a imm : Nat)
  /-- BFI (R142). -/
  | bfi (d a imm : Nat)
  /-- BEZ (R143). -/
  | bez (a : Nat) (imm : Int)
  /-- BNZ (R143). -/
  | bnz (a : Nat) (imm : Int)
  /-- BEQ (R143). -/
  | beq (a b : Nat) (imm : Int)
  /-- BNE (R143). -/
  | bne (a b : Nat) (imm : Int)
  /-- BLT (R143). -/
  | blt (a b : Nat) (imm : Int)
  /-- BGE (R143). -/
  | bge (a b : Nat) (imm : Int)
  /-- BLTU (R143). -/
  | bltu (a b : Nat) (imm : Int)
  /-- BGEU (R143). -/
  | bgeu (a b : Nat) (imm : Int)
  /-- B (R143). -/
  | b (imm : Int)
  /-- CALL (R143). -/
  | call (imm : Int)
  /-- LOOP (R145). -/
  | loop (d : Nat) (imm : Int)
  /-- LOOP_STEP (R145). -/
  | loopStep (m d : Nat) (imm : Int)
  /-- MOVX (R146). -/
  | movx (d a imm : Nat)
  /-- MOVXW (R146). -/
  | movxw (d a imm : Nat)
  /-- JR (R144). -/
  | jr (a : Nat)
  /-- CALLR (R144). -/
  | callr (a : Nat)
  /-- RET (R144). -/
  | ret
  /-- EXIT (R148). -/
  | exit
  /-- SEND (R152). -/
  | send (a b : Nat) (mo : Option MemOrd)
  /-- SENDL (R153). -/
  | sendl (d a b : Nat) (mo : Option MemOrd)
  /-- REPLY (R154). -/
  | reply (a : Nat) (mo : Option MemOrd)
  /-- SENDS (R155). -/
  | sends (d a b : Nat) (mo : Option MemOrd)
  /-- SRD (R147). -/
  | srd (d sr : Nat)
  /-- VADD (R200). -/
  | vadd (t d a b k : Nat)
  /-- VSUB (R200). -/
  | vsub (t d a b k : Nat)
  /-- VMUL (R200). -/
  | vmul (t d a b k : Nat)
  /-- VDIV (R201). -/
  | vdiv (t d a b k : Nat)
  /-- VFMA (R202). -/
  | vfma (t d a b k : Nat)
  /-- VFMS (R202). -/
  | vfms (t d a b k : Nat)
  /-- VFNMA (R202). -/
  | vfnma (t d a b k : Nat)
  /-- VFNMS (R202). -/
  | vfnms (t d a b k : Nat)
  /-- VMIN (R201). -/
  | vmin (t d a b k : Nat)
  /-- VMAX (R201). -/
  | vmax (t d a b k : Nat)
  /-- VABSD (R200). -/
  | vabsd (t d a b k : Nat)
  /-- VCSGN (R201). -/
  | vcsgn (t d a b k : Nat)
  /-- VAND (R200). -/
  | vand (t d a b k : Nat)
  /-- VOR (R200). -/
  | vor (t d a b k : Nat)
  /-- VXOR (R200). -/
  | vxor (t d a b k : Nat)
  /-- VANDN (R200). -/
  | vandn (t d a b k : Nat)
  /-- VSHL (R200). -/
  | vshl (t d a b k : Nat)
  /-- VSHR (R200). -/
  | vshr (t d a b k : Nat)
  /-- VSRA (R200). -/
  | vsra (t d a b k : Nat)
  /-- VMULH (R200). -/
  | vmulh (t d a b k : Nat)
  /-- VCMPEQ (R204). -/
  | vcmpeq (t d a b k : Nat)
  /-- VCMPLT (R204). -/
  | vcmplt (t d a b k : Nat)
  /-- VCMPLE (R204). -/
  | vcmple (t d a b k : Nat)
  /-- VCMPUN (R204). -/
  | vcmpun (t d a b k : Nat)
  /-- VSEL (R205). -/
  | vsel (t d a b k : Nat)
  /-- VPERM (R205). -/
  | vperm (t d a b k : Nat)
  /-- VZIP (R205). -/
  | vzip (t d a b : Nat)
  /-- VUNZIP (R205). -/
  | vunzip (t d a b : Nat)
  /-- VMOV (R203). -/
  | vmov (t d a k : Nat)
  /-- VNEG (R203). -/
  | vneg (t d a k : Nat)
  /-- VABS (R203). -/
  | vabs (t d a k : Nat)
  /-- VNOT (R203). -/
  | vnot (t d a k : Nat)
  /-- VRINT (R203). -/
  | vrint (t d a k : Nat)
  /-- VCLASS (R203). -/
  | vclass (t d a k : Nat)
  /-- VSQRT (R203). -/
  | vsqrt (t d a k : Nat)
  /-- VCVT (R209). -/
  | vcvt (t d a p k : Nat)
  /-- VWIDENL (R210). -/
  | vwidenl (t d a b k : Nat)
  /-- VWIDENH (R210). -/
  | vwidenh (t d a b k : Nat)
  /-- VPACK (R211). -/
  | vpack (t d a p : Nat)
  /-- VQUANT (R212). -/
  | vquant (t d a b k : Nat)
  /-- VDEQ (R213). -/
  | vdeq (t d a b k : Nat)
  /-- VLUT4 (R214). -/
  | vlut4 (t d a b k : Nat)
  /-- VSCALE (R214). -/
  | vscale (t d a b k : Nat)
  /-- VREDSUM (R208). -/
  | vredsum (t d a k : Nat)
  /-- VREDMAX (R208). -/
  | vredmax (t d a k : Nat)
  /-- VREDMIN (R208). -/
  | vredmin (t d a k : Nat)
  /-- VREDOR (R208). -/
  | vredor (t d a k : Nat)
  /-- VBCAST (R207). -/
  | vbcast (t d a k : Nat)
  /-- VEXT (R207). -/
  | vext (t d a b : Nat)
  /-- VINS (R207). -/
  | vins (t d a b : Nat)
  /-- VIOTA (R207). -/
  | viota (t d a k : Nat)
  /-- VSLIDEDN (R206). -/
  | vslidedn (t d a n k : Nat)
  /-- VSLIDEUP (R206). -/
  | vslideup (t d a n k : Nat)
  /-- KAND (R215). -/
  | kand (d a b : Nat)
  /-- KOR (R215). -/
  | kor (d a b : Nat)
  /-- KXOR (R215). -/
  | kxor (d a b : Nat)
  /-- KANDN (R215). -/
  | kandn (d a b : Nat)
  /-- KNOT (R215). -/
  | knot (d a : Nat)
  /-- KPOP (R215). -/
  | kpop (t d a : Nat)
  /-- KFROM (R215). -/
  | kfrom (d a q : Nat)
  /-- KTO (R215). -/
  | kto (d a q : Nat)
  /-- VROT (R206). -/
  | vrot (t d a b k : Nat)
  /-- VSETTYPE (R216). -/
  | vsettype (t a : Nat)
  /-- VSETBASE (R216). -/
  | vsetbase (a : Nat)
  /-- VGETBASE (R216). -/
  | vgetbase (d : Nat)
  /-- VCHAIN (R219). -/
  | vchain (d a n : Nat)
  /-- LD (R268). -/
  | ld (g z d a : Nat) (imm : Int) (mo : Option MemOrd)
  /-- ST (R268). -/
  | st (z d a : Nat) (imm : Int) (mo : Option MemOrd)
  /-- LDC (R269). -/
  | ldc (g z d a : Nat) (imm : Int) (mo : Option MemOrd)
  /-- VLD (R270). -/
  | vld (d a : Nat) (imm : Int) (k : Nat) (mo : Option MemOrd)
  /-- VST (R270). -/
  | vst (d a : Nat) (imm : Int) (k : Nat) (mo : Option MemOrd)
  /-- VLDS (R271). -/
  | vlds (d a b k : Nat) (mo : Option MemOrd)
  /-- VSTS (R271). -/
  | vsts (d a b k : Nat) (mo : Option MemOrd)
  /-- VGATH (R271). -/
  | vgath (p d a b k : Nat) (mo : Option MemOrd)
  /-- VSCAT (R271). -/
  | vscat (p d a b k : Nat) (mo : Option MemOrd)
  /-- AMOADD (R274). -/
  | amoadd (g z d a b : Nat) (mo : Option MemOrd)
  /-- AMOAND (R274). -/
  | amoand (g z d a b : Nat) (mo : Option MemOrd)
  /-- AMOOR (R274). -/
  | amoor (g z d a b : Nat) (mo : Option MemOrd)
  /-- AMOXOR (R274). -/
  | amoxor (g z d a b : Nat) (mo : Option MemOrd)
  /-- AMOMIN (R274). -/
  | amomin (g z d a b : Nat) (mo : Option MemOrd)
  /-- AMOMAX (R274). -/
  | amomax (g z d a b : Nat) (mo : Option MemOrd)
  /-- AMOSWAP (R274). -/
  | amoswap (g z d a b : Nat) (mo : Option MemOrd)
  /-- AMOCAS (R274). -/
  | amocas (g z d a b : Nat) (mo : Option MemOrd)
  /-- SHIP (R276). -/
  | ship (d a b : Nat) (mo : Option MemOrd)
  /-- SHIPN (R276). -/
  | shipn (d a b : Nat) (mo : Option MemOrd)
  /-- XADD (R279). -/
  | xadd (t a b : Nat) (mo : Option MemOrd)
  /-- XREAD (R279). -/
  | xread (t a : Nat) (mo : Option MemOrd)
  /-- CPY (R281). -/
  | cpy (d a b : Nat) (mo : Option MemOrd)
  /-- CPYL (R281). -/
  | cpyl (d a b : Nat) (mo : Option MemOrd)
  /-- CPYR (R281). -/
  | cpyr (d a b : Nat) (mo : Option MemOrd)
  /-- CPYG (R281). -/
  | cpyg (d a b : Nat) (mo : Option MemOrd)
  /-- SIGADD (R287). -/
  | sigadd (a b : Nat) (mo : Option MemOrd)
  /-- SIGWAIT (R288). -/
  | sigwait (d a b : Nat) (mo : Option MemOrd)
  /-- SIGABORT (R287). -/
  | sigabort (a : Nat) (mo : Option MemOrd)
  /-- SIGREAD (R287). -/
  | sigread (d a : Nat) (mo : Option MemOrd)
  /-- FENCE (R289). -/
  | fence (mo : Option MemOrd)
  /-- PREF (R290). -/
  | pref (a : Nat)
  /-- INVL (R290). -/
  | invl (a b : Nat)
  /-- WBCL (R290). -/
  | wbcl (a b : Nat)
  /-- MCTX (R297). -/
  | mctx (q imm : Nat)
  /-- MLUT (R298). -/
  | mlut (q a : Nat)
  /-- MRING (R302). -/
  | mring (a b : Nat)
  /-- MADV (R303). -/
  | madv (a b : Nat)
  /-- MMA (R310). -/
  | mma (q a : Nat)
  /-- MMAC (R312). -/
  | mmac (q a b : Nat)
  /-- MTRN (R317). -/
  | mtrn (q a : Nat)
  /-- MPERM (R317). -/
  | mperm (q a b : Nat)
  /-- MRED (R317). -/
  | mred (q a : Nat)
  /-- MZERO (R317). -/
  | mzero (q a : Nat)
  /-- MSTAT (R320). -/
  | mstat (m d : Nat)
  /-- SEXP2 (R221). -/
  | sexp2 (v t d a k : Nat)
  /-- SLOG2 (R221). -/
  | slog2 (v t d a k : Nat)
  /-- SRCP (R221). -/
  | srcp (v t d a k : Nat)
  /-- SRSQ (R221). -/
  | srsq (v t d a k : Nat)
  /-- SSIN (R221). -/
  | ssin (v t d a k : Nat)
  /-- SCOS (R221). -/
  | scos (v t d a k : Nat)
  /-- STANH (R221). -/
  | stanh (v t d a k : Nat)
  /-- SSIG (R221). -/
  | ssig (v t d a k : Nat)
  /-- LSRUN (R227). -/
  | lsrun (a : Nat)
  /-- LSSTOP (R228). -/
  | lsstop
  /-- LSSTAT (R229). -/
  | lsstat (d : Nat)
  /-- ENQ (R160). -/
  | enq (a b : Nat)
  /-- DEQ (R160). -/
  | deq (a : Nat)
  /-- DEQW (R160). -/
  | deqw (a : Nat)
  /-- WQSTAT (R160). -/
  | wqstat (a : Nat)
  /-- STBIND (R164). -/
  | stbind (d a b : Nat)
  /-- STFREE (R165). -/
  | stfree (d a : Nat)
  /-- PUTC (R372). -/
  | putc (d a b : Nat)
  /-- GETR (R377). -/
  | getr (d a b : Nat)
  /-- BEAM (R373). -/
  | beam (a : Nat)
  /-- RODGET (R371). -/
  | rodget (d a b : Nat)
  /-- RODWAIT (R374). -/
  | rodwait (d a b : Nat)
  /-- RODFREE (R375). -/
  | rodfree (a : Nat)
  /-- RODSTAT (R376). -/
  | rodstat (d a b : Nat)
  /-- FLOWOPEN (R378). -/
  | flowopen (d a b : Nat)
  /-- FLOWCLOSE (R379). -/
  | flowclose (a : Nat)
  /-- GRUN (R399). -/
  | grun (d a b : Nat)
  /-- GCANCEL (R400). -/
  | gcancel (d a : Nat)
  /-- XALL (R401). -/
  | xall (a : Nat)
  /-- CANCEL (R438). -/
  | cancel (d a b : Nat)
  /-- TRAP (R410). -/
  | trap (a : Nat)
  /-- SYSCALL (R410). -/
  | syscall (a : Nat)
  /-- BKPT (R410). -/
  | bkpt
  /-- SRET (R411). -/
  | sret (d a b : Nat)
  /-- SWR (R412). -/
  | swr (a sr : Nat)
  /-- CKPT (R424). -/
  | ckpt (a : Nat)
  /-- MASKW (R413). -/
  | maskw
  /-- UNMASKW (R413). -/
  | unmaskw
  /-- TLBI (R414). -/
  | tlbi (a b : Nat)
  /-- KEYLD (R415). -/
  | keyld (d a b : Nat)
  /-- WAITEV (R416). -/
  | waitev (d a b : Nat)
  /-- HALTC (R417). -/
  | haltc (d a : Nat)
  /-- INSTRUCTION_FETCH_FILL (R96). A fetch-buffer line fill completes from the cluster cache, or faults. -/
  | instructionFetchFill (core ctx : Nat)
  /-- NI_TAKE_SEND (R157). The NI takes one message from the head of a context's q0 and sends it. -/
  | niTakeSend (core : Nat)
  /-- MESSAGE_ARRIVAL (R18). A message arrives at the destination NI, is checked and accepted or dropped. -/
  | messageArrival (i : Nat)
  /-- STREAM_ARRIVAL (R37). A STREAM message's data passes through the bound chain into the scratchpad. -/
  | streamArrival (i : Nat)
  /-- STREAMEND_ARRIVAL (R37). A STREAMEND message's data passes through the chain and the end handler is made pending. -/
  | streamendArrival (i : Nat)
  /-- ACKNOWLEDGEMENT_ARRIVAL (R92). An acceptance acknowledgement reaches the sender, possibly freeing an EXITING context and decrementing counters. -/
  | acknowledgementArrival (i : Nat)
  /-- INBOUND_REFILL (R81). A freed inbound entry is refilled from an overflow ring. -/
  | inboundRefill (core : Nat)
  /-- DISPATCH (R84). A waiting message is dispatched into a free context of its launch. -/
  | dispatch (core : Nat)
  /-- KICK (R46). A kick write raises KMAX by the maximum rule and triggers a slot re-read. -/
  | kick (part job jgen handle size : Nat) (k : Word)
  /-- CTRL_RESUME (R65). A CTRL write with CMD RESUME leaves ABORTED or STOPPED. -/
  | ctrlResume (part job jgen handle : Nat)
  /-- CTRL_STOP (R65). A CTRL write with CMD STOP puts the queue in STOPPED. -/
  | ctrlStop (part job jgen handle : Nat)
  /-- QUEUE_SWAP_IN (R42). The scheduler makes a queue resident, evicting another if it must. -/
  | queueSwapIn (key : QKey) (evict : Option QKey)
  /-- QUEUE_SWAP_OUT (R41). A resident queue is swapped out, writing back KMAX and QSTATE. -/
  | queueSwapOut (key : QKey)
  /-- PACKET_READ (R44). The front end reads the packet at RIDX while RIDX < KMAX and clears its slots. -/
  | packetRead (key : QKey)
  /-- SLOT_REREAD_POLL (R44). An unpublished slot is re-read every 4 µs. -/
  | slotRereadPoll (key : QKey)
  /-- PACKET_START (R51). The front end chooses and starts the next startable packet when its conditions clear. -/
  | packetStart (die : Nat)
  /-- LAUNCH_PACKET (R76). A LAUNCH packet is checked and placed on cores, waiting for resources if short. -/
  | launchPacket (key : QKey) (clusters : List Nat)
  /-- SEED_PACKET (R56). A SEED packet sends SEED messages to a range of tiles and may release HOLD. -/
  | seedPacket (rid : Nat)
  /-- COPY_PACKET (R62). A COPY packet moves a two-dimensional block between global addresses. -/
  | copyPacket (rid : Nat)
  /-- BARRIER_PACKET (R59). A BARRIER is evaluated against up to four signals, completing or aborting. -/
  | barrierPacket (rid : Nat)
  /-- BARRIER_POLL (R59). Unwatched barrier signals are re-evaluated every 4 µs. -/
  | barrierPoll (rid : Nat)
  /-- SIGNAL_PACKET (R60). A SIGNAL packet adds to or sets negative one signal. -/
  | signalPacket (rid : Nat)
  /-- FENCE_PACKET (R61). A FENCE packet makes effects visible and writes a fence record. -/
  | fencePacket (rid : Nat)
  /-- GRAPH_PACKET (R63). A GRAPH packet starts one instance of a loaded collective graph. -/
  | graphPacket (rid : Nat)
  /-- XALL_PACKET (R63). An XALL packet starts one transposing all-to-all. -/
  | xallPacket (rid : Nat)
  /-- CANCEL_PACKET (R64). A CANCEL packet cancels a launch, graph, phase or the queue's job. -/
  | cancelPacket (rid : Nat)
  /-- NOP_PACKET (R64). A NOP completes when it starts. -/
  | nopPacket (rid : Nat)
  /-- WQ_ENQ (R161). The work-queue unit serves an ENQ command, possibly matching a waiting DEQW. -/
  | wqEnq (core ctx : Nat)
  /-- WQ_DEQ (R161). The work-queue unit serves a DEQ command. -/
  | wqDeq (core ctx : Nat)
  /-- WQ_DEQW (R161). The work-queue unit serves a DEQW command, waiting while the queue is empty. -/
  | wqDeqw (core ctx : Nat)
  /-- WQ_WQSTAT (R161). The work-queue unit returns a queue's count and size. -/
  | wqWqstat (core ctx : Nat)
  /-- SFU_RESULT (R223). The special-function unit writes a request's result into its q7 place. -/
  | sfuResult (cluster : Nat)
  /-- LS_RUN_START (R227). A queued loop-sequencer run starts when a run place is free. -/
  | lsRunStart (core ctx : Nat)
  /-- LS_EMIT (R226). The sequencer emits an iteration's copy or matrix command when permits allow. -/
  | lsEmit (core run : Nat) (isCopy : Bool)
  /-- LS_COMPLETION (R226). A sequencer command's completion retires iterations or marks the run failed. -/
  | lsCompletion (core run j : Nat) (isCopy : Bool)
  /-- LS_RUN_END (R226). A run ends and acts on ENDSIG with its end status. -/
  | lsRunEnd (core run : Nat)
  /-- TRANSLATION_WALK (R243). A walker finishes a translation walk or raises a walk event. -/
  | translationWalk (tag : Nat)
  /-- WALKBUSY (R245). After 64 µs with MIG still set the walker raises WALKBUSY. -/
  | walkbusy (tag : Nat)
  /-- WALKRESP_RETRY (R245). The memory master answers a walk with RETRY, walking again from the root. -/
  | walkrespRetry (tag : Nat)
  /-- WALKRESP_REFUSE_PAGE (R245). The memory master refuses a walk as PAGE. -/
  | walkrespRefusePage (tag : Nat)
  /-- WALKRESP_REFUSE_PERM (R245). The memory master refuses a walk as PERM. -/
  | walkrespRefusePerm (tag : Nat)
  /-- STAGE2_INVALIDATION (R243, R252). The memory master's stage-2 invalidation completes on the clusters; it may name the tag of a
  translation that the host or a peer holds. -/
  | stage2Invalidation (v : Inval)
  /-- SIDELOG_DISCARD (R250). A SIDELOG write with DISCARD discards a context's entries. -/
  | sidelogDiscard (core dctx : Nat)
  /-- S2ROOT_WRITE (R240). A write of a partition's stage-2 root is made to all four dies. -/
  | s2rootWrite (part : Nat) (v : Word)
  /-- TRANSLATE (R251). A translation-mailbox request for a unified range is answered; acc is its ACC. -/
  | translate (part job jgen va len acc : Nat) (tag : Nat) (reply : Word) (holder : Option Nat)
  /-- ACKNOWLEDGE_INVALIDATION (R252). A holder acknowledges a translation invalidation. -/
  | acknowledgeInvalidation (tag : Nat)
  /-- INVALIDATION_TIMEOUT (R252). An invalidation unacknowledged for 10 ms isolates the holder. -/
  | invalidationTimeout (tag : Nat)
  /-- SEAL_FILL (R257). A seal engine serves a fill from its buffer or by reading and checking a tile. -/
  | sealFill (cluster line : Nat)
  /-- FULL_TILE_WRITE (R257). A whole aligned tile is replaced without a read. -/
  | fullTileWrite (i : Nat)
  /-- PARTIAL_WRITE (R257). A write of fewer bytes is merged into the buffered tile. -/
  | partialWrite (i : Nat)
  /-- TILE_WRITE_BACK (R257). A changed buffered tile is written back under version + 1. -/
  | tileWriteBack (tile : Nat)
  /-- VERSION_TREE_INCREMENT (R256). A home engine applies a counter increment and retags its node. -/
  | versionTreeIncrement (i : Nat)
  /-- EXHAUSTION_TIMEOUT (R259). A tile exhausted for 10 ms raises a partition fault. -/
  | exhaustionTimeout (tile : Nat)
  /-- REKEY (R260). SEALCMD REKEY re-seals a tile under a new key slot at version 1. -/
  | rekey (pa slot : Nat)
  /-- TREEINIT (R263). SEALCMD TREEINIT zeroes the version tree of a GiB. -/
  | treeinit (pa : Nat)
  /-- HBM_REFRESH (R238). A stack refreshes a DRAM layer at its temperature-set interval. -/
  | hbmRefresh (stack l temp : Nat)
  /-- CLUSTER_CACHE_WRITE_BACK (R340). A dirty cluster-cache line is written back, only its written bytes. -/
  | clusterCacheWriteBack (cluster line : Nat) (evict : Bool)
  /-- ATOMIC_AT_POINT_OF_COHERENCE (R275). A seal engine performs an atomic indivisibly on its tile. -/
  | atomicAtPointOfCoherence (i : Nat)
  /-- SHIP_ROUTINE (R277). A stack processor runs a ship routine and returns its result. -/
  | shipRoutine (i : Nat)
  /-- ROUTINE_LOAD (R278). The memory master loads a signed routine image into the routine table. -/
  | routineLoad (index align : Nat) (image sig : List Byte)
  /-- EXACT_CELL_ADD (R190). A stack processor applies an XADD to an exact accumulation cell. -/
  | exactCellAdd (i : Nat)
  /-- EXACT_CELL_READ (R191). A stack processor reads an exact cell rounded once. -/
  | exactCellRead (i : Nat)
  /-- SIGNAL_OPERATION (R57). An add or set_negative is performed on a signal at its home quadrant. -/
  | signalOperation (i : Nat)
  /-- SIGWAIT_POLL (R288). A blocked SIGWAIT is re-evaluated every 4 µs. -/
  | sigwaitPoll (core ctx : Nat)
  /-- COPY_OP_CPY (R282). A copy engine takes and performs a CPY command. -/
  | copyOpCpy (core ctx : Nat)
  /-- COPY_OP_CPYL (R283). A copy engine performs a CPYL command ending in a LANDING message. -/
  | copyOpCpyl (core ctx : Nat)
  /-- COPY_OP_CPYR (R284). A copy engine fills successive ring slots, advancing the tail. -/
  | copyOpCpyr (core ctx : Nat)
  /-- COPY_OP_CPYG (R285). A copy engine performs a gather copy from a gather list. -/
  | copyOpCpyg (core ctx : Nat)
  /-- COPY_COMPLETION (R286). A finished command pushes its completion word to q5. -/
  | copyCompletion (cluster run : Nat)
  /-- MCMD_MMA (R311). The matrix unit takes an MMA command under a format-context snapshot. -/
  | mcmdMma (core strm : Nat)
  /-- MCMD_MMAC (R313). An MMAC joins or opens a cooperation in a forming place. -/
  | mcmdMmac (core strm : Nat)
  /-- MCMD_MTRN (R317). The matrix unit takes a transpose command. -/
  | mcmdMtrn (core strm : Nat)
  /-- MCMD_MPERM (R319). The matrix unit takes a permutation command and reads its table. -/
  | mcmdMperm (core strm : Nat)
  /-- MCMD_MRED (R317). The matrix unit takes a row-sum command. -/
  | mcmdMred (core strm : Nat)
  /-- MCMD_MZERO (R317). The matrix unit zeroes result rows. -/
  | mcmdMzero (core strm : Nat)
  /-- MCMD_MCTX (R295). The matrix unit sets the core's format context. -/
  | mcmdMctx (core strm : Nat)
  /-- MCMD_MLUT (R298). The matrix unit loads the core's 4-bit table. -/
  | mcmdMlut (core strm : Nat)
  /-- MCMD_MALFORMED (R306). A command header with an invalid OP completes MALFORMED. -/
  | mcmdMalformed (core strm : Nat)
  /-- MATRIX_STEP (R293). The matrix unit runs one ready K-group step, advancing rings and completing commands. -/
  | matrixStep (cluster : Nat)
  /-- COOPTIMEOUT (R316). A cooperation not started 1 ms after opening completes its members with COOPTIMEOUT. -/
  | cooptimeout (cluster place : Nat)
  /-- MESSAGE_PACKET (R345). A fabric MESSAGE packet arrives at an endpoint and is forwarded or dropped. -/
  | messagePacket (port : Nat) (pkt : Pkt)
  /-- BEAD (R355). A bead arrives, is translated, written and counted on its receive rod. -/
  | bead (port : Nat) (pkt : Pkt)
  /-- BEAM_ARRIVAL (R355). A beam arrives and sets EXPECT on its receive rod. -/
  | beamArrival (port : Nat) (pkt : Pkt)
  /-- SHORT_NOTICE (R357). A SHORT notice moves a send rod to a new generation and replays. -/
  | shortNotice (port : Nat) (pkt : Pkt)
  /-- FAULT_NOTICE (R357). A FAULT notice puts a send rod in FAULT and raises EVENT ROD. -/
  | faultNotice (port : Nat) (pkt : Pkt)
  /-- ROD_TIMER_EXPIRY (R355). A BEAMED rod's timer expires, sending a SHORT or FAULT notice. -/
  | rodTimerExpiry (rod : Nat)
  /-- BEAM_REPEAT (R357). A send rod repeats its beam T and 2T after sending it. -/
  | beamRepeat (rod : Nat)
  /-- RETRANSMIT_WINDOW_DEADLINE (R357). A send rod's deadline passes and it returns to OPEN. -/
  | retransmitWindowDeadline (rod : Nat)
  /-- ROD_REARM (R353). A re-arm waiting for 16 µs since the previous generation takes effect. -/
  | rodRearm (rod : Nat)
  /-- QUARANTINE_END (R354). A rod leaves quarantine after 2 ms and becomes FREE. -/
  | quarantineEnd (rod : Nat)
  /-- BEAD_INJECTION (R372). The die endpoint reads the source and injects a PUTC's beads. -/
  | beadInjection (die : Nat)
  /-- READREQ (R377). A remote read request arrives and is answered. -/
  | readreq (port : Nat) (pkt : Pkt)
  /-- READRESP (R377). A remote read response writes destination bytes. -/
  | readresp (port : Nat) (pkt : Pkt)
  /-- READ_TIMEOUT (R364). A peer request unanswered for READTMO times out. -/
  | readTimeout (tag : Nat)
  /-- ATOMIC (R363). A remote atomic arrives on the atomic flow and is performed once. -/
  | atomic (port : Nat) (pkt : Pkt)
  /-- ATOMICRESP (R363). A remote atomic's old value returns to the requester. -/
  | atomicresp (port : Nat) (pkt : Pkt)
  /-- STORE (R364). An unacknowledged store to peer memory arrives and is performed. -/
  | store (port : Nat) (pkt : Pkt)
  /-- FLOWACK (R362). A flow acknowledgement advances the sender's unacknowledged count. -/
  | flowack (port : Nat) (pkt : Pkt)
  /-- FLOWACK_TIMER (R362). The destination sends a FLOWACK 10 µs after an unacknowledged delivery. -/
  | flowackTimer (i : Nat)
  /-- FLOW_RETRANSMIT (R362). Unacknowledged flow packets are retransmitted after 50 µs, breaking the flow after 8 rounds. -/
  | flowRetransmit (core i : Nat)
  /-- ISOL_CLEAR (R366). The fabric manager ends a peer's isolation by writing 1 to ISOL. -/
  | isolClear (peer : Nat)
  /-- GRAPHLOAD (R383). A mailbox request loads a graph image under a handle. -/
  | graphload (fn seq part job jgen handle va : Nat)
  /-- GRAPHUNLOAD (R383). A mailbox request unloads a graph and quarantines its rods. -/
  | graphunload (fn seq part job jgen handle : Nat)
  /-- GRAPH_INSTANCE_START (R384). The walker starts an instance after the 64 µs spacing, applying deferred packets. -/
  | graphInstanceStart (key : GKey)
  /-- NODE_COPY (R386). A COPY node copies bytes and finishes. -/
  | nodeCopy (key : GKey) (n : Nat)
  /-- NODE_PUTC (R386). A PUTC node sends beads on a graph send rod. -/
  | nodePutc (key : GKey) (n : Nat)
  /-- NODE_BEAM (R386). A BEAM node sends a graph rod's beam. -/
  | nodeBeam (key : GKey) (n : Nat)
  /-- NODE_RODWAIT (R386). A RODWAIT node finishes when its receive rod is DONE. -/
  | nodeRodwait (key : GKey) (n : Nat)
  /-- NODE_REDUCE (R391). A REDUCE node combines inputs in the stack base dies. -/
  | nodeReduce (key : GKey) (n : Nat)
  /-- NODE_SEND (R386). A SEND node sends one SEED-kind message. -/
  | nodeSend (key : GKey) (n : Nat)
  /-- NODE_LAUNCH (R386). A LAUNCH node places a launch and finishes when it completes. -/
  | nodeLaunch (key : GKey) (n : Nat) (clusters : List Nat)
  /-- NODE_FINISH (R385). A finished node decrements its successors' counts and starts those at zero. -/
  | nodeFinish (key : GKey) (n : Nat)
  /-- REDUCE_TILE (R392). A stack's adder array reduces one destination tile. -/
  | reduceTile (key : GKey) (n tile : Nat)
  /-- INSTANCE_RETIRE (R389). A graph instance retires and adds to its completion signal. -/
  | instanceRetire (key : GKey)
  /-- INSTANCE_ABORT (R390). A graph instance aborts, writes a failure record and stops the handle. -/
  | instanceAbort (key : GKey)
  /-- GRAPH_STOPPED_END (R400). A handle reset by GCANCEL leaves STOPPED 2 ms later. -/
  | graphStoppedEnd (key : GKey)
  /-- XALL_START (R444). An XALL arms its rods then reads its source when a layout-map engine is free. -/
  | xallStart (id : Nat)
  /-- XALL_FINISH (R397). An XALL finishes on a device and adds to its completion signal. -/
  | xallFinish (id : Nat)
  /-- TCMD_READ (R408). A TCMD write with WR 0 reads a parked context's state into TDATA. -/
  | tcmdRead (core ctx : Nat)
  /-- TCMD_WRITE (R408). A TCMD write with WR 1 writes TDATA into a parked context's state. -/
  | tcmdWrite (core ctx : Nat)
  /-- WATCHDOG (R418). A context's run timer reaches its limit and it traps WATCHDOG. -/
  | watchdog (core ctx : Nat)
  /-- PARKLIM (R418). A context parked for PARKLIM raises a partition fault. -/
  | parklim (core ctx : Nat)
  /-- MASKLEN (R413). A masked window open for 64 µs traps MASKLEN at the next instruction. -/
  | masklen (core ctx : Nat)
  /-- PARTITION_RESET (R420). A PRESET request or partition fault resets the whole partition. -/
  | partitionReset (part : Nat)
  /-- PREEMPT_SAVE (R422). A PREQ SAVE swaps out a job's queues and saves its contexts and launches. -/
  | preemptSave (die : Nat)
  /-- PREEMPT_RESTORE (R422). A PREQ RESTORE reserves the same resources and restores the job. -/
  | preemptRestore (die : Nat)
  /-- FULL_SAVE (R425). A context not at a CKPT 50 µs after the request is fully saved. -/
  | fullSave (core ctx : Nat)
  /-- MIGRATE (R428). A mailbox request moves a partition to another device. -/
  | migrate (fn seq part target : Nat) (targetFree : Bool)
  /-- EVENT_TICK (R416). Every 100 µs the tick sets event latch bit 0. -/
  | eventTick (core : Nat)
  /-- LAUNCH_COMPLETE (R430). After the drain, a launch releases its reservations and acts on its signal. -/
  | launchComplete (key : LKey)
  /-- PHASE_COMPLETE (R433). A phase whose boundary is marked and count is zero signals completion. -/
  | phaseComplete (part job phase : Nat)
  /-- JOB_COMPLETE (R433). A closed job whose phase count is zero signals completion. -/
  | jobComplete (part job : Nat)
  /-- CANCEL_MARK (R435). A cancel mark arrives at an NI, dropping messages and terminating parked contexts. -/
  | cancelMark (core : Nat) (key : LKey)
  /-- CANCEL_GRACE_END (R435). 20 µs after the mark, remaining contexts are terminated. -/
  | cancelGraceEnd (core : Nat) (key : LKey)
  /-- COLD_RESET (R448). The boot ROM verifies a bank and runs self-test before firmware starts. -/
  | coldReset (selftest : Nat) (detail : Word)
  /-- GRACEFUL_WARM_RESET (R452). RESETCTL CMD 1 writes back tile buffers and resets warm. -/
  | gracefulWarmReset (selftest : Nat) (detail : Word)
  /-- FATAL_WARM_RESET (R452). A fatal warm reset from RESETCTL, bus reset, internal error or trip. -/
  | fatalWarmReset (selftest : Nat) (detail : Word)
  /-- GRACEFUL_RESET_TIMEOUT (R452). A graceful reset not written back in 1 ms continues as fatal. -/
  | gracefulResetTimeout (selftest : Nat) (detail : Word)
  /-- MAILBOX_STATUS (R454). The mailbox STATUS command returns BOOTSTAT and FAILDET. -/
  | mailboxStatus (fn seq : Nat)
  /-- FLASHWRITE (R454). The mailbox writes the inactive flash bank. -/
  | flashwrite (fn seq off : Nat) (data : List Byte)
  /-- REBOOT (R454). The mailbox starts a cold reset of the module. -/
  | reboot (fn seq : Nat)
  /-- PARTCFG (R454). The mailbox configures clusters, key slots, rod blocks and VFs. -/
  | partcfg (fn seq : Nat) (cfg : PartCfg)
  /-- JOBCREATE (R74). The scheduler firmware creates a job and writes its descriptor. -/
  | jobcreate (fn seq addr : Nat) (desc : JobDesc)
  /-- JOBCLOSE (R433). The host closes a job through the mailbox. -/
  | jobclose (fn seq part job jgen : Nat)
  /-- ATTEST (R459). The mailbox returns signed evidence for a nonce. -/
  | attest (fn seq : Nat) (nonce : List Byte)
  /-- VF_FUNCTION_LEVEL_RESET (R455). A function-level reset of a VF unmaps its pages and fails its mailbox request. -/
  | vfFunctionLevelReset (vf : Nat)
  /-- HOST_ACCESS (R334). A host PCI Express access to device memory is performed at the point of coherence. -/
  | hostAccess (fn off : Nat) (op : HostOp)
  /-- POWER_WINDOW (R456). Each 1 µs window's energy is compared with CAP and throttling set. -/
  | powerWindow (energy mean : Nat)
  /-- PWRCAP_WRITE (R456). A PWRCAP write sets a clamped cap and signals the change. -/
  | pwrcapWrite (v : Word)
  /-- THERMAL_BAND_CROSSING (R457). A die or HBM layer crosses a thermal band, halving clocks, limiting or resetting. -/
  | thermalBandCrossing (pt : ThermalPoint) (temp : Nat)
  /-- SVNBURN (R448). Firmware raises SVNFUSE up to the accepted table's SVN. -/
  | svnburn (n : Nat)
  /-- CLPART_WRITE (R72). A CLPART write sets a cluster's partition, refused while reserved. -/
  | clpartWrite (cluster : Nat) (v : Word)
  /-- REGISTER_WRITE (R7). A write to a register with no behaviour of its own sets its RW fields. -/
  | registerWrite (reg : CtlReg) (v : Word)
  /-- UNDEF (R111). A word or prefix chain that names no instruction traps ILLEGAL or PREFIX at decode. This covers 0xFFFF, op5 0b11110, a reserved page, an unlisted opcode or selector, a non-zero unused field, and a fifth or repeated prefix. -/
  | undef (cause : UndefCause)
  /-- WAITEV_TIMEOUT (R416). A blocked WAITEV whose x[b] microseconds have passed returns 0 in x[d] and becomes RUNNING. -/
  | waitevTimeout (core ctx : Nat)
  /-- MODULE_POWER_REMOVAL (R457). Module power is removed, so nothing runs and only the fuses and the flash keep their contents. -/
  | modulePowerRemoval
  /-- UNPAIRED_HALF_EXPIRY (R368). A fabric-window write half whose partner with the same carrier tag has not arrived within the packet lifetime is discarded and counted as EXPIRED. -/
  | unpairedHalfExpiry (i : Nat)
  /-- BADTYPE_PACKET (R345). A fabric packet whose PTYPE is none of the defined types arrives at an endpoint and is dropped as BADTYPE. -/
  | badtypePacket (port : Nat) (pkt : Pkt)
  deriving DecidableEq, Repr

end Sys2Proof
end

