-- ==== Sys2Proof/WellFormed.lean ====
section
/-! DEFINITION. The encoding layout of each instruction (R99 to R116), shared by the well-formedness check, the encoder and
the decoder's acceptance checks, and the check itself: every operand in the range its encoding admits, and no more prefixes
than the four a chain may hold (R109). -/

namespace Sys2Proof

/-- The base formats of R100; P, the format of the prefix words, is no base format. -/
inductive Fmt where
  | a | b | c | d | f
  deriving DecidableEq, Repr

/-- The rule an instruction's modifier m5 must meet (R112 to R115 and the descriptions). An explicit type code outside the class that an
instruction accepts is an m5 not defined for it, so it is refused as R109 decodes; a type taken from VTYPE is checked when the
instruction issues. VCVT's types are checked as it issues (R209). Mark: DEDUCED (log entry 89). -/
inductive M5Rule where
  | zero | any | type | typeNZ | typeFP | typeInt | typeFPInt | typeWiden | typePack | typeQuant | typeDeq | ld | st | kind | amo | xadd | xread | quiet | mstat | sfu
  deriving DecidableEq, Repr

/-- Whether m5 is defined for an instruction of the rule (R109, R113 to R115). -/
def M5Rule.admits (r : M5Rule) (m : Nat) : Bool :=
  match r with
  | .zero => m == 0
  | .any => m < 32
  | .type => m ≤ 0x11
  | .typeNZ => m ≤ 0x11 && m != 0
  | .typeFP => m ≤ 3
  | .typeInt => m == 0 || (4 ≤ m && m ≤ 9)
  | .typeFPInt => m ≤ 9
  | .typeWiden => m == 0 || m == 2 || m == 3 || (6 ≤ m && m ≤ 9)
  | .typePack => m == 0 || (0xC ≤ m && m ≤ 0x11 && m != 0xF)
  | .typeQuant => m == 0 || m == 8 || (0xA ≤ m && m ≤ 0xE)
  | .typeDeq => m == 0 || m == 8 || (0xA ≤ m && m ≤ 0x11 && m != 0xF)
  | .ld => m ≤ 6
  | .st => m ≤ 3
  | .kind => m % 8 == 0 && m < 32
  | .amo => m == 2 || m == 3 || m == 6
  | .xadd => m == 0b00010 || m == 0b01001 || m == 0b10001
  | .xread => m == 0b00010 || m == 0b01001
  | .quiet => m ≤ 1
  | .mstat => m ≤ 1 || (16 ≤ m && m ≤ 23)
  | .sfu => m < 8 && m % 4 != 3

/-- How an instruction is laid out in words: page, m5, op5, format; the numbers in the positions [10:8], [7:5] and [4:2] and
whether each is a register operand that PFX.X extends; the constant or plain low bits; the governing mask; the PFX.M and the
ORDERs accepted; the immediate, true for sign-extended; and whether PFX.I is accepted (R100 to R108). -/
structure Layout where
  page : Nat
  op5 : Nat
  fmt : Fmt
  m5 : Nat := 0
  rule : M5Rule := .zero
  d : Nat := 0
  a : Nat := 0
  b : Nat := 0
  xd : Bool := false
  xa : Bool := false
  xb : Bool := false
  low : Nat := 0
  lowMax : Nat := 32
  k : Nat := 0
  maskable : Bool := false
  orders : List Nat := []
  mo : Option MemOrd := none
  imm : Option (Bool × Int) := none
  acceptsI : Bool := false
  showP : Bool := false
  deriving DecidableEq, Repr

/-- The width bw of the base immediate of a format (R100, R105). -/
def Fmt.bw : Fmt → Nat
  | .a => 0
  | .b => 5
  | .c => 8
  | .d => 11
  | .f => 2

/-- Whether v is held by a field of width w with the given extension (R105). -/
def fits (signed : Bool) (w : Nat) (v : Int) : Bool :=
  if signed then decide (-(2 ^ (w - 1) : Int) ≤ v) && decide (v < (2 ^ (w - 1) : Int))
  else decide (0 ≤ v) && decide (v < (2 ^ w : Int))

/-- The fewest PFX.I words that hold the immediate, 4 if three do not (R105, R132). -/
def immWords (signed : Bool) (bw : Nat) (v : Int) : Nat :=
  if fits signed bw v then 0
  else if fits signed (bw + 9) v then 1
  else if fits signed (bw + 18) v then 2
  else if fits signed (bw + 27) v then 3
  else 4

/-- The number of PFX.I words of a layout. -/
def Layout.nI (l : Layout) : Nat :=
  match l.imm with
  | none => 0
  | some (s, v) => immWords s l.fmt.bw v

/-- Whether the chain holds a PFX.P, PFX.X and PFX.M (R132). -/
def Layout.hasP (l : Layout) : Bool := l.showP || l.page != 0 || l.m5 != 0

@[inherit_doc Layout.hasP]
def Layout.hasX (l : Layout) : Bool := 8 ≤ l.d || 8 ≤ l.a || 8 ≤ l.b || l.k != 0

/-- The number of prefix words of a layout. -/
def Layout.chain (l : Layout) : Nat :=
  (if l.hasP then 1 else 0) + (if l.hasX then 1 else 0) + (if l.mo.isSome then 1 else 0) + l.nI

/-- A number in a position: up to 31 for an extended register operand, up to 7 otherwise (R104, R108). -/
def posOk (x : Bool) (n : Nat) : Bool := decide (n < if x then 32 else 8)

/-- A PFX.M the instruction accepts (R107, R108). -/
def moOk (orders : List Nat) : Option MemOrd → Bool
  | none => true
  | some m => decide (m.scope < 6) && orders.contains m.order && decide (m.hint < 16)

/-- The layout can be encoded: each part in range and the chain within four prefixes and three PFX.I. -/
def Layout.ok (l : Layout) : Bool :=
  l.rule.admits l.m5 && posOk l.xd l.d && posOk l.xa l.a && posOk l.xb l.b && decide (l.low < l.lowMax)
    && decide (l.k < if l.maskable then 8 else 1) && moOk l.orders l.mo && decide (l.nI ≤ 3) && decide (l.chain ≤ 4)

/-- The layout of an encoded instruction; a step of another agent and an undecodable chain have none. -/
def layout : Instr → Option Layout
  | .add d a b => some { page := 0, op5 := 0x00, fmt := .a, d := d, xd := true, a := a, xa := true, b := b, xb := true }
  | .sub d a b => some { page := 0, op5 := 0x00, fmt := .a, d := d, xd := true, a := a, xa := true, b := b, xb := true, low := 1 }
  | .and d a b => some { page := 0, op5 := 0x00, fmt := .a, d := d, xd := true, a := a, xa := true, b := b, xb := true, low := 2 }
  | .or d a b => some { page := 0, op5 := 0x00, fmt := .a, d := d, xd := true, a := a, xa := true, b := b, xb := true, low := 3 }
  | .xor d a b => some { page := 0, op5 := 0x01, fmt := .a, d := d, xd := true, a := a, xa := true, b := b, xb := true }
  | .shl d a b => some { page := 0, op5 := 0x01, fmt := .a, d := d, xd := true, a := a, xa := true, b := b, xb := true, low := 1 }
  | .shr d a b => some { page := 0, op5 := 0x01, fmt := .a, d := d, xd := true, a := a, xa := true, b := b, xb := true, low := 2 }
  | .sra d a b => some { page := 0, op5 := 0x01, fmt := .a, d := d, xd := true, a := a, xa := true, b := b, xb := true, low := 3 }
  | .mul d a b => some { page := 0, op5 := 0x02, fmt := .a, d := d, xd := true, a := a, xa := true, b := b, xb := true }
  | .mulh d a b => some { page := 0, op5 := 0x02, fmt := .a, d := d, xd := true, a := a, xa := true, b := b, xb := true, low := 1 }
  | .mulhu d a b => some { page := 0, op5 := 0x02, fmt := .a, d := d, xd := true, a := a, xa := true, b := b, xb := true, low := 2 }
  | .rol d a b => some { page := 0, op5 := 0x02, fmt := .a, d := d, xd := true, a := a, xa := true, b := b, xb := true, low := 3 }
  | .div d a b => some { page := 0, op5 := 0x03, fmt := .a, d := d, xd := true, a := a, xa := true, b := b, xb := true }
  | .divu d a b => some { page := 0, op5 := 0x03, fmt := .a, d := d, xd := true, a := a, xa := true, b := b, xb := true, low := 1 }
  | .rem d a b => some { page := 0, op5 := 0x03, fmt := .a, d := d, xd := true, a := a, xa := true, b := b, xb := true, low := 2 }
  | .remu d a b => some { page := 0, op5 := 0x03, fmt := .a, d := d, xd := true, a := a, xa := true, b := b, xb := true, low := 3 }
  | .min d a b => some { page := 0, op5 := 0x04, fmt := .a, d := d, xd := true, a := a, xa := true, b := b, xb := true }
  | .max d a b => some { page := 0, op5 := 0x04, fmt := .a, d := d, xd := true, a := a, xa := true, b := b, xb := true, low := 1 }
  | .minu d a b => some { page := 0, op5 := 0x04, fmt := .a, d := d, xd := true, a := a, xa := true, b := b, xb := true, low := 2 }
  | .maxu d a b => some { page := 0, op5 := 0x04, fmt := .a, d := d, xd := true, a := a, xa := true, b := b, xb := true, low := 3 }
  | .seq d a b => some { page := 0, op5 := 0x05, fmt := .a, d := d, xd := true, a := a, xa := true, b := b, xb := true }
  | .sne d a b => some { page := 0, op5 := 0x05, fmt := .a, d := d, xd := true, a := a, xa := true, b := b, xb := true, low := 1 }
  | .slt d a b => some { page := 0, op5 := 0x05, fmt := .a, d := d, xd := true, a := a, xa := true, b := b, xb := true, low := 2 }
  | .sltu d a b => some { page := 0, op5 := 0x05, fmt := .a, d := d, xd := true, a := a, xa := true, b := b, xb := true, low := 3 }
  | .sle d a b => some { page := 0, op5 := 0x06, fmt := .a, d := d, xd := true, a := a, xa := true, b := b, xb := true }
  | .sleu d a b => some { page := 0, op5 := 0x06, fmt := .a, d := d, xd := true, a := a, xa := true, b := b, xb := true, low := 1 }
  | .sel d a b => some { page := 0, op5 := 0x06, fmt := .a, d := d, xd := true, a := a, xa := true, b := b, xb := true, low := 2 }
  | .addw d a b => some { page := 0, op5 := 0x06, fmt := .a, d := d, xd := true, a := a, xa := true, b := b, xb := true, low := 3 }
  | .addi d a imm => some { page := 0, op5 := 0x07, fmt := .b, d := d, xd := true, a := a, xa := true, imm := some (true, imm), acceptsI := true }
  | .andi d a imm => some { page := 0, op5 := 0x08, fmt := .b, d := d, xd := true, a := a, xa := true, imm := some (true, imm), acceptsI := true }
  | .ori d a imm => some { page := 0, op5 := 0x09, fmt := .b, d := d, xd := true, a := a, xa := true, imm := some (true, imm), acceptsI := true }
  | .xori d a imm => some { page := 0, op5 := 0x0A, fmt := .b, d := d, xd := true, a := a, xa := true, imm := some (true, imm), acceptsI := true }
  | .shli d a imm => some { page := 0, op5 := 0x0B, fmt := .b, d := d, xd := true, a := a, xa := true, imm := some (false, imm), acceptsI := true }
  | .shri d a imm => some { page := 0, op5 := 0x0C, fmt := .b, d := d, xd := true, a := a, xa := true, imm := some (false, imm), acceptsI := true }
  | .srai d a imm => some { page := 0, op5 := 0x0D, fmt := .b, d := d, xd := true, a := a, xa := true, imm := some (false, imm), acceptsI := true }
  | .li d imm => some { page := 0, op5 := 0x0E, fmt := .c, d := d, xd := true, imm := some (true, imm), acceptsI := true }
  | .lih d imm => some { page := 0, op5 := 0x0F, fmt := .c, d := d, xd := true, imm := some (false, imm), acceptsI := true }
  | .mov d a => some { page := 0, op5 := 0x10, fmt := .a, d := d, xd := true, a := a, xa := true }
  | .neg d a => some { page := 0, op5 := 0x10, fmt := .a, d := d, xd := true, a := a, xa := true, low := 1 }
  | .not d a => some { page := 0, op5 := 0x10, fmt := .a, d := d, xd := true, a := a, xa := true, low := 2 }
  | .clz d a => some { page := 0, op5 := 0x10, fmt := .a, d := d, xd := true, a := a, xa := true, low := 3 }
  | .ctz d a => some { page := 0, op5 := 0x10, fmt := .a, d := d, xd := true, a := a, xa := true, low := 4 }
  | .popc d a => some { page := 0, op5 := 0x10, fmt := .a, d := d, xd := true, a := a, xa := true, low := 5 }
  | .bswap d a => some { page := 0, op5 := 0x10, fmt := .a, d := d, xd := true, a := a, xa := true, low := 6 }
  | .sextb d a => some { page := 0, op5 := 0x10, fmt := .a, d := d, xd := true, a := a, xa := true, low := 7 }
  | .sexth d a => some { page := 0, op5 := 0x10, fmt := .a, d := d, xd := true, a := a, xa := true, low := 8 }
  | .sextw d a => some { page := 0, op5 := 0x10, fmt := .a, d := d, xd := true, a := a, xa := true, low := 9 }
  | .zextb d a => some { page := 0, op5 := 0x10, fmt := .a, d := d, xd := true, a := a, xa := true, low := 10 }
  | .zexth d a => some { page := 0, op5 := 0x10, fmt := .a, d := d, xd := true, a := a, xa := true, low := 11 }
  | .zextw d a => some { page := 0, op5 := 0x10, fmt := .a, d := d, xd := true, a := a, xa := true, low := 12 }
  | .qcnt d a => some { page := 0, op5 := 0x10, fmt := .a, d := d, xd := true, a := a, xa := true, low := 13 }
  | .bfx d a imm => some { page := 0, op5 := 0x11, fmt := .b, d := d, xd := true, a := a, xa := true, imm := some (false, imm), acceptsI := true }
  | .bfi d a imm => some { page := 0, op5 := 0x12, fmt := .b, d := d, xd := true, a := a, xa := true, imm := some (false, imm), acceptsI := true }
  | .bez a imm => some { page := 0, op5 := 0x13, fmt := .c, d := a, xd := true, imm := some (true, imm), acceptsI := true }
  | .bnz a imm => some { page := 0, op5 := 0x14, fmt := .c, d := a, xd := true, imm := some (true, imm), acceptsI := true }
  | .beq a b imm => some { page := 0, op5 := 0x15, fmt := .f, d := a, xd := true, a := b, xa := true, imm := some (true, imm), acceptsI := true }
  | .bne a b imm => some { page := 0, op5 := 0x15, fmt := .f, d := a, xd := true, a := b, xa := true, low := 4, imm := some (true, imm), acceptsI := true }
  | .blt a b imm => some { page := 0, op5 := 0x15, fmt := .f, d := a, xd := true, a := b, xa := true, low := 8, imm := some (true, imm), acceptsI := true }
  | .bge a b imm => some { page := 0, op5 := 0x15, fmt := .f, d := a, xd := true, a := b, xa := true, low := 12, imm := some (true, imm), acceptsI := true }
  | .bltu a b imm => some { page := 0, op5 := 0x15, fmt := .f, d := a, xd := true, a := b, xa := true, low := 16, imm := some (true, imm), acceptsI := true }
  | .bgeu a b imm => some { page := 0, op5 := 0x15, fmt := .f, d := a, xd := true, a := b, xa := true, low := 20, imm := some (true, imm), acceptsI := true }
  | .b imm => some { page := 0, op5 := 0x16, fmt := .d, imm := some (true, imm), acceptsI := true }
  | .call imm => some { page := 0, op5 := 0x17, fmt := .d, imm := some (true, imm), acceptsI := true }
  | .loop d imm => some { page := 0, op5 := 0x18, fmt := .c, d := d, xd := true, imm := some (true, imm), acceptsI := true }
  | .loopStep m d imm => some { page := 0, op5 := 0x18, fmt := .c, d := d, xd := true, m5 := m, rule := .any, imm := some (true, imm), acceptsI := true, showP := true }
  | .movx d a imm => some { page := 0, op5 := 0x19, fmt := .b, d := d, xd := true, a := a, xa := true, imm := some (false, imm), acceptsI := true }
  | .movxw d a imm => some { page := 0, op5 := 0x1A, fmt := .b, d := d, xd := true, a := a, xa := true, imm := some (false, imm), acceptsI := true }
  | .jr a => some { page := 0, op5 := 0x1B, fmt := .a, a := a, xa := true }
  | .callr a => some { page := 0, op5 := 0x1B, fmt := .a, a := a, xa := true, low := 1 }
  | .ret => some { page := 0, op5 := 0x1B, fmt := .a, low := 2 }
  | .exit => some { page := 0, op5 := 0x1B, fmt := .a, low := 3 }
  | .send a b mo => some { page := 0, op5 := 0x1C, fmt := .a, a := a, xa := true, b := b, xb := true, orders := [0, 2], mo := mo }
  | .sendl d a b mo => some { page := 0, op5 := 0x1C, fmt := .a, d := d, xd := true, a := a, xa := true, b := b, xb := true, low := 1, orders := [0, 2], mo := mo }
  | .reply a mo => some { page := 0, op5 := 0x1C, fmt := .a, a := a, xa := true, low := 2, orders := [0, 2], mo := mo }
  | .sends d a b mo => some { page := 0, op5 := 0x1C, fmt := .a, d := d, xd := true, a := a, xa := true, b := b, xb := true, low := 3, orders := [0, 2], mo := mo }
  | .srd d sr => some { page := 0, op5 := 0x1D, fmt := .b, d := d, xd := true, imm := some (false, sr), acceptsI := true }
  | .vadd t d a b k => some { page := 1, op5 := 0x00, fmt := .a, d := d, xd := true, a := a, xa := true, b := b, xb := true, m5 := t, rule := .typeFPInt, k := k, maskable := true }
  | .vsub t d a b k => some { page := 1, op5 := 0x00, fmt := .a, d := d, xd := true, a := a, xa := true, b := b, xb := true, low := 1, m5 := t, rule := .typeFPInt, k := k, maskable := true }
  | .vmul t d a b k => some { page := 1, op5 := 0x00, fmt := .a, d := d, xd := true, a := a, xa := true, b := b, xb := true, low := 2, m5 := t, rule := .typeFPInt, k := k, maskable := true }
  | .vdiv t d a b k => some { page := 1, op5 := 0x00, fmt := .a, d := d, xd := true, a := a, xa := true, b := b, xb := true, low := 3, m5 := t, rule := .typeFPInt, k := k, maskable := true }
  | .vfma t d a b k => some { page := 1, op5 := 0x01, fmt := .a, d := d, xd := true, a := a, xa := true, b := b, xb := true, m5 := t, rule := .typeFPInt, k := k, maskable := true }
  | .vfms t d a b k => some { page := 1, op5 := 0x01, fmt := .a, d := d, xd := true, a := a, xa := true, b := b, xb := true, low := 1, m5 := t, rule := .typeFPInt, k := k, maskable := true }
  | .vfnma t d a b k => some { page := 1, op5 := 0x01, fmt := .a, d := d, xd := true, a := a, xa := true, b := b, xb := true, low := 2, m5 := t, rule := .typeFPInt, k := k, maskable := true }
  | .vfnms t d a b k => some { page := 1, op5 := 0x01, fmt := .a, d := d, xd := true, a := a, xa := true, b := b, xb := true, low := 3, m5 := t, rule := .typeFPInt, k := k, maskable := true }
  | .vmin t d a b k => some { page := 1, op5 := 0x02, fmt := .a, d := d, xd := true, a := a, xa := true, b := b, xb := true, m5 := t, rule := .typeFPInt, k := k, maskable := true }
  | .vmax t d a b k => some { page := 1, op5 := 0x02, fmt := .a, d := d, xd := true, a := a, xa := true, b := b, xb := true, low := 1, m5 := t, rule := .typeFPInt, k := k, maskable := true }
  | .vabsd t d a b k => some { page := 1, op5 := 0x02, fmt := .a, d := d, xd := true, a := a, xa := true, b := b, xb := true, low := 2, m5 := t, rule := .typeFPInt, k := k, maskable := true }
  | .vcsgn t d a b k => some { page := 1, op5 := 0x02, fmt := .a, d := d, xd := true, a := a, xa := true, b := b, xb := true, low := 3, m5 := t, rule := .typeFP, k := k, maskable := true }
  | .vand t d a b k => some { page := 1, op5 := 0x03, fmt := .a, d := d, xd := true, a := a, xa := true, b := b, xb := true, m5 := t, rule := .type, k := k, maskable := true }
  | .vor t d a b k => some { page := 1, op5 := 0x03, fmt := .a, d := d, xd := true, a := a, xa := true, b := b, xb := true, low := 1, m5 := t, rule := .type, k := k, maskable := true }
  | .vxor t d a b k => some { page := 1, op5 := 0x03, fmt := .a, d := d, xd := true, a := a, xa := true, b := b, xb := true, low := 2, m5 := t, rule := .type, k := k, maskable := true }
  | .vandn t d a b k => some { page := 1, op5 := 0x03, fmt := .a, d := d, xd := true, a := a, xa := true, b := b, xb := true, low := 3, m5 := t, rule := .type, k := k, maskable := true }
  | .vshl t d a b k => some { page := 1, op5 := 0x04, fmt := .a, d := d, xd := true, a := a, xa := true, b := b, xb := true, m5 := t, rule := .typeInt, k := k, maskable := true }
  | .vshr t d a b k => some { page := 1, op5 := 0x04, fmt := .a, d := d, xd := true, a := a, xa := true, b := b, xb := true, low := 1, m5 := t, rule := .typeInt, k := k, maskable := true }
  | .vsra t d a b k => some { page := 1, op5 := 0x04, fmt := .a, d := d, xd := true, a := a, xa := true, b := b, xb := true, low := 2, m5 := t, rule := .typeInt, k := k, maskable := true }
  | .vmulh t d a b k => some { page := 1, op5 := 0x04, fmt := .a, d := d, xd := true, a := a, xa := true, b := b, xb := true, low := 3, m5 := t, rule := .typeInt, k := k, maskable := true }
  | .vcmpeq t d a b k => some { page := 1, op5 := 0x05, fmt := .a, d := d, a := a, xa := true, b := b, xb := true, m5 := t, rule := .typeFPInt, k := k, maskable := true }
  | .vcmplt t d a b k => some { page := 1, op5 := 0x05, fmt := .a, d := d, a := a, xa := true, b := b, xb := true, low := 1, m5 := t, rule := .typeFPInt, k := k, maskable := true }
  | .vcmple t d a b k => some { page := 1, op5 := 0x05, fmt := .a, d := d, a := a, xa := true, b := b, xb := true, low := 2, m5 := t, rule := .typeFPInt, k := k, maskable := true }
  | .vcmpun t d a b k => some { page := 1, op5 := 0x05, fmt := .a, d := d, a := a, xa := true, b := b, xb := true, low := 3, m5 := t, rule := .typeFPInt, k := k, maskable := true }
  | .vsel t d a b k => some { page := 1, op5 := 0x06, fmt := .a, d := d, xd := true, a := a, xa := true, b := b, xb := true, m5 := t, rule := .type, k := k, maskable := true }
  | .vperm t d a b k => some { page := 1, op5 := 0x06, fmt := .a, d := d, xd := true, a := a, xa := true, b := b, xb := true, low := 1, m5 := t, rule := .type, k := k, maskable := true }
  | .vzip t d a b => some { page := 1, op5 := 0x06, fmt := .a, d := d, xd := true, a := a, xa := true, b := b, xb := true, low := 2, m5 := t, rule := .type }
  | .vunzip t d a b => some { page := 1, op5 := 0x06, fmt := .a, d := d, xd := true, a := a, xa := true, b := b, xb := true, low := 3, m5 := t, rule := .type }
  | .vmov t d a k => some { page := 1, op5 := 0x07, fmt := .a, d := d, xd := true, a := a, xa := true, m5 := t, rule := .type, k := k, maskable := true }
  | .vneg t d a k => some { page := 1, op5 := 0x07, fmt := .a, d := d, xd := true, a := a, xa := true, low := 1, m5 := t, rule := .typeFPInt, k := k, maskable := true }
  | .vabs t d a k => some { page := 1, op5 := 0x07, fmt := .a, d := d, xd := true, a := a, xa := true, low := 2, m5 := t, rule := .typeFPInt, k := k, maskable := true }
  | .vnot t d a k => some { page := 1, op5 := 0x07, fmt := .a, d := d, xd := true, a := a, xa := true, low := 3, m5 := t, rule := .type, k := k, maskable := true }
  | .vrint t d a k => some { page := 1, op5 := 0x07, fmt := .a, d := d, xd := true, a := a, xa := true, low := 4, m5 := t, rule := .typeFP, k := k, maskable := true }
  | .vclass t d a k => some { page := 1, op5 := 0x07, fmt := .a, d := d, xd := true, a := a, xa := true, low := 5, m5 := t, rule := .typeFP, k := k, maskable := true }
  | .vsqrt t d a k => some { page := 1, op5 := 0x07, fmt := .a, d := d, xd := true, a := a, xa := true, low := 6, m5 := t, rule := .typeFP, k := k, maskable := true }
  | .vcvt t d a p k => some { page := 1, op5 := 0x08, fmt := .a, d := d, xd := true, a := a, xa := true, b := p, m5 := t, rule := .typeNZ, k := k, maskable := true }
  | .vwidenl t d a b k => some { page := 1, op5 := 0x08, fmt := .a, d := d, xd := true, a := a, xa := true, b := b, xb := true, low := 1, m5 := t, rule := .typeWiden, k := k, maskable := true }
  | .vwidenh t d a b k => some { page := 1, op5 := 0x08, fmt := .a, d := d, xd := true, a := a, xa := true, b := b, xb := true, low := 2, m5 := t, rule := .typeWiden, k := k, maskable := true }
  | .vpack t d a p => some { page := 1, op5 := 0x08, fmt := .a, d := d, xd := true, a := a, xa := true, b := p, low := 3, m5 := t, rule := .typePack }
  | .vquant t d a b k => some { page := 1, op5 := 0x09, fmt := .a, d := d, xd := true, a := a, xa := true, b := b, xb := true, m5 := t, rule := .typeQuant, k := k, maskable := true }
  | .vdeq t d a b k => some { page := 1, op5 := 0x09, fmt := .a, d := d, xd := true, a := a, xa := true, b := b, xb := true, low := 1, m5 := t, rule := .typeDeq, k := k, maskable := true }
  | .vlut4 t d a b k => some { page := 1, op5 := 0x09, fmt := .a, d := d, xd := true, a := a, xa := true, b := b, xb := true, low := 2, m5 := t, rule := .type, k := k, maskable := true }
  | .vscale t d a b k => some { page := 1, op5 := 0x09, fmt := .a, d := d, xd := true, a := a, xa := true, b := b, xb := true, low := 3, m5 := t, rule := .typeFP, k := k, maskable := true }
  | .vredsum t d a k => some { page := 1, op5 := 0x0A, fmt := .a, d := d, xd := true, a := a, xa := true, m5 := t, rule := .typeFPInt, k := k, maskable := true }
  | .vredmax t d a k => some { page := 1, op5 := 0x0A, fmt := .a, d := d, xd := true, a := a, xa := true, low := 1, m5 := t, rule := .typeFPInt, k := k, maskable := true }
  | .vredmin t d a k => some { page := 1, op5 := 0x0A, fmt := .a, d := d, xd := true, a := a, xa := true, low := 2, m5 := t, rule := .typeFPInt, k := k, maskable := true }
  | .vredor t d a k => some { page := 1, op5 := 0x0A, fmt := .a, d := d, xd := true, a := a, xa := true, low := 3, m5 := t, rule := .typeInt, k := k, maskable := true }
  | .vbcast t d a k => some { page := 1, op5 := 0x0B, fmt := .a, d := d, xd := true, a := a, xa := true, m5 := t, rule := .type, k := k, maskable := true }
  | .vext t d a b => some { page := 1, op5 := 0x0B, fmt := .a, d := d, xd := true, a := a, xa := true, b := b, xb := true, low := 1, m5 := t, rule := .type }
  | .vins t d a b => some { page := 1, op5 := 0x0B, fmt := .a, d := d, xd := true, a := a, xa := true, b := b, xb := true, low := 2, m5 := t, rule := .type }
  | .viota t d a k => some { page := 1, op5 := 0x0B, fmt := .a, d := d, xd := true, a := a, xa := true, low := 3, m5 := t, rule := .typeInt, k := k, maskable := true }
  | .vslidedn t d a n k => some { page := 1, op5 := 0x0C, fmt := .b, d := d, xd := true, a := a, xa := true, m5 := t, rule := .type, k := k, maskable := true, imm := some (false, n), acceptsI := true }
  | .vslideup t d a n k => some { page := 1, op5 := 0x0D, fmt := .b, d := d, xd := true, a := a, xa := true, m5 := t, rule := .type, k := k, maskable := true, imm := some (false, n), acceptsI := true }
  | .kand d a b => some { page := 1, op5 := 0x0E, fmt := .a, d := d, a := a, b := b }
  | .kor d a b => some { page := 1, op5 := 0x0E, fmt := .a, d := d, a := a, b := b, low := 1 }
  | .kxor d a b => some { page := 1, op5 := 0x0E, fmt := .a, d := d, a := a, b := b, low := 2 }
  | .kandn d a b => some { page := 1, op5 := 0x0E, fmt := .a, d := d, a := a, b := b, low := 3 }
  | .knot d a => some { page := 1, op5 := 0x0F, fmt := .a, d := d, a := a }
  | .kpop t d a => some { page := 1, op5 := 0x0F, fmt := .a, d := d, xd := true, a := a, low := 1, m5 := t, rule := .type }
  | .kfrom d a q => some { page := 1, op5 := 0x0F, fmt := .a, d := d, a := a, xa := true, b := q, low := 2 }
  | .kto d a q => some { page := 1, op5 := 0x0F, fmt := .a, d := d, xd := true, a := a, b := q, low := 3 }
  | .vrot t d a b k => some { page := 1, op5 := 0x10, fmt := .a, d := d, xd := true, a := a, xa := true, b := b, xb := true, m5 := t, rule := .type, k := k, maskable := true }
  | .vsettype t a => some { page := 1, op5 := 0x10, fmt := .a, a := a, xa := decide (t = 0), low := 1, m5 := t, rule := .type }
  | .vsetbase a => some { page := 1, op5 := 0x10, fmt := .a, a := a, xa := true, low := 2 }
  | .vgetbase d => some { page := 1, op5 := 0x10, fmt := .a, d := d, xd := true, low := 3 }
  | .vchain d a n => some { page := 1, op5 := 0x11, fmt := .b, d := d, xd := true, a := a, xa := true, low := n, lowMax := 32 }
  | .ld g z d a imm mo => some { page := 2, op5 := 0x00, fmt := .b, d := d, xd := true, a := a, xa := true, m5 := z + 4 * g, rule := .ld, orders := [0, 1], mo := mo, imm := some (true, imm), acceptsI := true }
  | .st z d a imm mo => some { page := 2, op5 := 0x01, fmt := .b, d := d, xd := true, a := a, xa := true, m5 := z, rule := .st, orders := [0, 2], mo := mo, imm := some (true, imm), acceptsI := true }
  | .ldc g z d a imm mo => some { page := 2, op5 := 0x02, fmt := .b, d := d, xd := true, a := a, xa := true, m5 := z + 4 * g, rule := .ld, orders := [0], mo := mo, imm := some (true, imm), acceptsI := true }
  | .vld d a imm k mo => some { page := 2, op5 := 0x03, fmt := .b, d := d, xd := true, a := a, xa := true, k := k, maskable := true, orders := [0, 1], mo := mo, imm := some (true, imm), acceptsI := true }
  | .vst d a imm k mo => some { page := 2, op5 := 0x04, fmt := .b, d := d, xd := true, a := a, xa := true, k := k, maskable := true, orders := [0, 2], mo := mo, imm := some (true, imm), acceptsI := true }
  | .vlds d a b k mo => some { page := 2, op5 := 0x05, fmt := .a, d := d, xd := true, a := a, xa := true, b := b, xb := true, k := k, maskable := true, orders := [0, 1], mo := mo }
  | .vsts d a b k mo => some { page := 2, op5 := 0x05, fmt := .a, d := d, xd := true, a := a, xa := true, b := b, xb := true, low := 1, k := k, maskable := true, orders := [0, 2], mo := mo }
  | .vgath p d a b k mo => some { page := 2, op5 := 0x05, fmt := .a, d := d, xd := true, a := a, xa := true, b := b, xb := true, low := 2, m5 := 8 * p, rule := .kind, k := k, maskable := true, orders := [0, 1], mo := mo }
  | .vscat p d a b k mo => some { page := 2, op5 := 0x05, fmt := .a, d := d, xd := true, a := a, xa := true, b := b, xb := true, low := 3, m5 := 8 * p, rule := .kind, k := k, maskable := true, orders := [0, 2], mo := mo }
  | .amoadd g z d a b mo => some { page := 2, op5 := 0x06, fmt := .a, d := d, xd := true, a := a, xa := true, b := b, xb := true, m5 := z + 4 * g, rule := .amo, orders := [0, 1, 2, 3], mo := mo }
  | .amoand g z d a b mo => some { page := 2, op5 := 0x06, fmt := .a, d := d, xd := true, a := a, xa := true, b := b, xb := true, low := 1, m5 := z + 4 * g, rule := .amo, orders := [0, 1, 2, 3], mo := mo }
  | .amoor g z d a b mo => some { page := 2, op5 := 0x06, fmt := .a, d := d, xd := true, a := a, xa := true, b := b, xb := true, low := 2, m5 := z + 4 * g, rule := .amo, orders := [0, 1, 2, 3], mo := mo }
  | .amoxor g z d a b mo => some { page := 2, op5 := 0x06, fmt := .a, d := d, xd := true, a := a, xa := true, b := b, xb := true, low := 3, m5 := z + 4 * g, rule := .amo, orders := [0, 1, 2, 3], mo := mo }
  | .amomin g z d a b mo => some { page := 2, op5 := 0x07, fmt := .a, d := d, xd := true, a := a, xa := true, b := b, xb := true, m5 := z + 4 * g, rule := .amo, orders := [0, 1, 2, 3], mo := mo }
  | .amomax g z d a b mo => some { page := 2, op5 := 0x07, fmt := .a, d := d, xd := true, a := a, xa := true, b := b, xb := true, low := 1, m5 := z + 4 * g, rule := .amo, orders := [0, 1, 2, 3], mo := mo }
  | .amoswap g z d a b mo => some { page := 2, op5 := 0x07, fmt := .a, d := d, xd := true, a := a, xa := true, b := b, xb := true, low := 2, m5 := z + 4 * g, rule := .amo, orders := [0, 1, 2, 3], mo := mo }
  | .amocas g z d a b mo => some { page := 2, op5 := 0x07, fmt := .a, d := d, xd := true, a := a, xa := true, b := b, xb := true, low := 3, m5 := z + 4 * g, rule := .amo, orders := [0, 1, 2, 3], mo := mo }
  | .ship d a b mo => some { page := 2, op5 := 0x08, fmt := .a, d := d, xd := true, a := a, xa := true, b := b, xb := true, orders := [0, 1, 2, 3], mo := mo }
  | .shipn d a b mo => some { page := 2, op5 := 0x08, fmt := .a, d := d, xd := true, a := a, xa := true, b := b, xb := true, low := 1, orders := [0, 1, 2, 3], mo := mo }
  | .xadd t a b mo => some { page := 2, op5 := 0x08, fmt := .a, a := a, xa := true, b := b, xb := true, low := 2, m5 := t, rule := .xadd, orders := [0, 1, 2, 3], mo := mo }
  | .xread t a mo => some { page := 2, op5 := 0x08, fmt := .a, a := a, xa := true, low := 3, m5 := t, rule := .xread, orders := [0, 1, 2, 3], mo := mo }
  | .cpy d a b mo => some { page := 2, op5 := 0x09, fmt := .a, d := d, xd := true, a := a, xa := true, b := b, xb := true, orders := [0, 2], mo := mo }
  | .cpyl d a b mo => some { page := 2, op5 := 0x09, fmt := .a, d := d, xd := true, a := a, xa := true, b := b, xb := true, low := 1, orders := [0, 2], mo := mo }
  | .cpyr d a b mo => some { page := 2, op5 := 0x09, fmt := .a, d := d, xd := true, a := a, xa := true, b := b, xb := true, low := 2, orders := [0, 2], mo := mo }
  | .cpyg d a b mo => some { page := 2, op5 := 0x09, fmt := .a, d := d, xd := true, a := a, xa := true, b := b, xb := true, low := 3, orders := [0, 2], mo := mo }
  | .sigadd a b mo => some { page := 2, op5 := 0x0A, fmt := .a, a := a, xa := true, b := b, xb := true, orders := [0, 2], mo := mo }
  | .sigwait d a b mo => some { page := 2, op5 := 0x0A, fmt := .a, d := d, xd := true, a := a, xa := true, b := b, xb := true, low := 1, orders := [0, 1], mo := mo }
  | .sigabort a mo => some { page := 2, op5 := 0x0A, fmt := .a, a := a, xa := true, low := 2, orders := [0, 2], mo := mo }
  | .sigread d a mo => some { page := 2, op5 := 0x0A, fmt := .a, d := d, xd := true, a := a, xa := true, low := 3, orders := [0, 1], mo := mo }
  | .fence mo => some { page := 2, op5 := 0x0B, fmt := .a, orders := [0, 1, 2, 3], mo := mo }
  | .pref a => some { page := 2, op5 := 0x0B, fmt := .a, a := a, xa := true, low := 1 }
  | .invl a b => some { page := 2, op5 := 0x0B, fmt := .a, a := a, xa := true, b := b, xb := true, low := 2 }
  | .wbcl a b => some { page := 2, op5 := 0x0B, fmt := .a, a := a, xa := true, b := b, xb := true, low := 3 }
  | .mctx q imm => some { page := 3, op5 := 0x00, fmt := .b, m5 := q, rule := .quiet, imm := some (false, imm), acceptsI := true }
  | .mlut q a => some { page := 3, op5 := 0x01, fmt := .a, a := a, xa := true, m5 := q, rule := .quiet }
  | .mring a b => some { page := 3, op5 := 0x02, fmt := .a, a := a, xa := true, b := b, xb := true }
  | .madv a b => some { page := 3, op5 := 0x03, fmt := .a, a := a, xa := true, b := b, xb := true }
  | .mma q a => some { page := 3, op5 := 0x04, fmt := .a, a := a, xa := true, m5 := q, rule := .quiet }
  | .mmac q a b => some { page := 3, op5 := 0x05, fmt := .a, a := a, xa := true, b := b, xb := true, m5 := q, rule := .quiet }
  | .mtrn q a => some { page := 3, op5 := 0x06, fmt := .a, a := a, xa := true, m5 := q, rule := .quiet }
  | .mperm q a b => some { page := 3, op5 := 0x06, fmt := .a, a := a, xa := true, b := b, xb := true, low := 1, m5 := q, rule := .quiet }
  | .mred q a => some { page := 3, op5 := 0x06, fmt := .a, a := a, xa := true, low := 2, m5 := q, rule := .quiet }
  | .mzero q a => some { page := 3, op5 := 0x06, fmt := .a, a := a, xa := true, low := 3, m5 := q, rule := .quiet }
  | .mstat m d => some { page := 3, op5 := 0x07, fmt := .a, d := d, xd := true, m5 := m, rule := .mstat }
  | .sexp2 v t d a k => some { page := 3, op5 := 0x08, fmt := .a, d := d, xd := decide (v = 1), a := a, xa := true, m5 := t + 4 * v, rule := .sfu, k := k, maskable := decide (v = 1) }
  | .slog2 v t d a k => some { page := 3, op5 := 0x08, fmt := .a, d := d, xd := decide (v = 1), a := a, xa := true, low := 1, m5 := t + 4 * v, rule := .sfu, k := k, maskable := decide (v = 1) }
  | .srcp v t d a k => some { page := 3, op5 := 0x08, fmt := .a, d := d, xd := decide (v = 1), a := a, xa := true, low := 2, m5 := t + 4 * v, rule := .sfu, k := k, maskable := decide (v = 1) }
  | .srsq v t d a k => some { page := 3, op5 := 0x08, fmt := .a, d := d, xd := decide (v = 1), a := a, xa := true, low := 3, m5 := t + 4 * v, rule := .sfu, k := k, maskable := decide (v = 1) }
  | .ssin v t d a k => some { page := 3, op5 := 0x09, fmt := .a, d := d, xd := decide (v = 1), a := a, xa := true, m5 := t + 4 * v, rule := .sfu, k := k, maskable := decide (v = 1) }
  | .scos v t d a k => some { page := 3, op5 := 0x09, fmt := .a, d := d, xd := decide (v = 1), a := a, xa := true, low := 1, m5 := t + 4 * v, rule := .sfu, k := k, maskable := decide (v = 1) }
  | .stanh v t d a k => some { page := 3, op5 := 0x09, fmt := .a, d := d, xd := decide (v = 1), a := a, xa := true, low := 2, m5 := t + 4 * v, rule := .sfu, k := k, maskable := decide (v = 1) }
  | .ssig v t d a k => some { page := 3, op5 := 0x09, fmt := .a, d := d, xd := decide (v = 1), a := a, xa := true, low := 3, m5 := t + 4 * v, rule := .sfu, k := k, maskable := decide (v = 1) }
  | .lsrun a => some { page := 3, op5 := 0x0A, fmt := .a, a := a, xa := true }
  | .lsstop => some { page := 3, op5 := 0x0A, fmt := .a, low := 1 }
  | .lsstat d => some { page := 3, op5 := 0x0A, fmt := .a, d := d, xd := true, low := 2 }
  | .enq a b => some { page := 4, op5 := 0x00, fmt := .a, a := a, xa := true, b := b, xb := true }
  | .deq a => some { page := 4, op5 := 0x00, fmt := .a, a := a, xa := true, low := 1 }
  | .deqw a => some { page := 4, op5 := 0x00, fmt := .a, a := a, xa := true, low := 2 }
  | .wqstat a => some { page := 4, op5 := 0x00, fmt := .a, a := a, xa := true, low := 3 }
  | .stbind d a b => some { page := 4, op5 := 0x01, fmt := .a, d := d, xd := true, a := a, xa := true, b := b, xb := true }
  | .stfree d a => some { page := 4, op5 := 0x01, fmt := .a, d := d, xd := true, a := a, xa := true, low := 1 }
  | .putc d a b => some { page := 4, op5 := 0x02, fmt := .a, d := d, xd := true, a := a, xa := true, b := b, xb := true }
  | .getr d a b => some { page := 4, op5 := 0x02, fmt := .a, d := d, xd := true, a := a, xa := true, b := b, xb := true, low := 1 }
  | .beam a => some { page := 4, op5 := 0x03, fmt := .a, a := a, xa := true }
  | .rodget d a b => some { page := 4, op5 := 0x04, fmt := .a, d := d, xd := true, a := a, xa := true, b := b, xb := true }
  | .rodwait d a b => some { page := 4, op5 := 0x04, fmt := .a, d := d, xd := true, a := a, xa := true, b := b, xb := true, low := 1 }
  | .rodfree a => some { page := 4, op5 := 0x04, fmt := .a, a := a, xa := true, low := 2 }
  | .rodstat d a b => some { page := 4, op5 := 0x04, fmt := .a, d := d, xd := true, a := a, xa := true, b := b, xb := true, low := 3 }
  | .flowopen d a b => some { page := 4, op5 := 0x05, fmt := .a, d := d, xd := true, a := a, xa := true, b := b, xb := true }
  | .flowclose a => some { page := 4, op5 := 0x05, fmt := .a, a := a, xa := true, low := 1 }
  | .grun d a b => some { page := 4, op5 := 0x06, fmt := .a, d := d, xd := true, a := a, xa := true, b := b, xb := true }
  | .gcancel d a => some { page := 4, op5 := 0x06, fmt := .a, d := d, xd := true, a := a, xa := true, low := 1 }
  | .xall a => some { page := 4, op5 := 0x07, fmt := .a, a := a, xa := true }
  | .cancel d a b => some { page := 4, op5 := 0x08, fmt := .a, d := d, xd := true, a := a, xa := true, b := b, xb := true }
  | .trap a => some { page := 5, op5 := 0x00, fmt := .a, a := a, xa := true }
  | .syscall a => some { page := 5, op5 := 0x00, fmt := .a, a := a, xa := true, low := 1 }
  | .bkpt => some { page := 5, op5 := 0x00, fmt := .a, low := 2 }
  | .sret d a b => some { page := 5, op5 := 0x00, fmt := .a, d := d, xd := true, a := a, xa := true, b := b, xb := true, low := 3 }
  | .swr a sr => some { page := 5, op5 := 0x01, fmt := .b, a := a, xa := true, imm := some (false, sr), acceptsI := true }
  | .ckpt a => some { page := 5, op5 := 0x02, fmt := .a, a := a, xa := true }
  | .maskw => some { page := 5, op5 := 0x03, fmt := .a }
  | .unmaskw => some { page := 5, op5 := 0x03, fmt := .a, low := 1 }
  | .tlbi a b => some { page := 5, op5 := 0x04, fmt := .a, a := a, xa := true, b := b, xb := true }
  | .keyld d a b => some { page := 5, op5 := 0x04, fmt := .a, d := d, xd := true, a := a, xa := true, b := b, xb := true, low := 1 }
  | .waitev d a b => some { page := 5, op5 := 0x04, fmt := .a, d := d, xd := true, a := a, xa := true, b := b, xb := true, low := 2 }
  | .haltc d a => some { page := 5, op5 := 0x04, fmt := .a, d := d, xd := true, a := a, xa := true, low := 3 }
  | .instructionFetchFill _ _ => none
  | .niTakeSend _ => none
  | .messageArrival _ => none
  | .streamArrival _ => none
  | .streamendArrival _ => none
  | .acknowledgementArrival _ => none
  | .inboundRefill _ => none
  | .dispatch _ => none
  | .kick _ _ _ _ _ _ => none
  | .ctrlResume _ _ _ _ => none
  | .ctrlStop _ _ _ _ => none
  | .queueSwapIn _ _ => none
  | .queueSwapOut _ => none
  | .packetRead _ => none
  | .slotRereadPoll _ => none
  | .packetStart _ => none
  | .launchPacket _ _ => none
  | .seedPacket _ => none
  | .copyPacket _ => none
  | .barrierPacket _ => none
  | .barrierPoll _ => none
  | .signalPacket _ => none
  | .fencePacket _ => none
  | .graphPacket _ => none
  | .xallPacket _ => none
  | .cancelPacket _ => none
  | .nopPacket _ => none
  | .wqEnq _ _ => none
  | .wqDeq _ _ => none
  | .wqDeqw _ _ => none
  | .wqWqstat _ _ => none
  | .sfuResult _ => none
  | .lsRunStart _ _ => none
  | .lsEmit _ _ _ => none
  | .lsCompletion _ _ _ _ => none
  | .lsRunEnd _ _ => none
  | .translationWalk _ => none
  | .walkbusy _ => none
  | .walkrespRetry _ => none
  | .walkrespRefusePage _ => none
  | .walkrespRefusePerm _ => none
  | .stage2Invalidation _ => none
  | .sidelogDiscard _ _ => none
  | .s2rootWrite _ _ => none
  | .translate _ _ _ _ _ _ _ _ _ => none
  | .acknowledgeInvalidation _ => none
  | .invalidationTimeout _ => none
  | .sealFill _ _ => none
  | .fullTileWrite _ => none
  | .partialWrite _ => none
  | .tileWriteBack _ => none
  | .versionTreeIncrement _ => none
  | .exhaustionTimeout _ => none
  | .rekey _ _ => none
  | .treeinit _ => none
  | .hbmRefresh _ _ _ => none
  | .clusterCacheWriteBack _ _ _ => none
  | .atomicAtPointOfCoherence _ => none
  | .shipRoutine _ => none
  | .routineLoad _ _ _ _ => none
  | .exactCellAdd _ => none
  | .exactCellRead _ => none
  | .signalOperation _ => none
  | .sigwaitPoll _ _ => none
  | .copyOpCpy _ _ => none
  | .copyOpCpyl _ _ => none
  | .copyOpCpyr _ _ => none
  | .copyOpCpyg _ _ => none
  | .copyCompletion _ _ => none
  | .mcmdMma _ _ => none
  | .mcmdMmac _ _ => none
  | .mcmdMtrn _ _ => none
  | .mcmdMperm _ _ => none
  | .mcmdMred _ _ => none
  | .mcmdMzero _ _ => none
  | .mcmdMctx _ _ => none
  | .mcmdMlut _ _ => none
  | .mcmdMalformed _ _ => none
  | .matrixStep _ => none
  | .cooptimeout _ _ => none
  | .messagePacket _ _ => none
  | .bead _ _ => none
  | .beamArrival _ _ => none
  | .shortNotice _ _ => none
  | .faultNotice _ _ => none
  | .rodTimerExpiry _ => none
  | .beamRepeat _ => none
  | .retransmitWindowDeadline _ => none
  | .rodRearm _ => none
  | .quarantineEnd _ => none
  | .beadInjection _ => none
  | .readreq _ _ => none
  | .readresp _ _ => none
  | .readTimeout _ => none
  | .atomic _ _ => none
  | .atomicresp _ _ => none
  | .store _ _ => none
  | .flowack _ _ => none
  | .flowackTimer _ => none
  | .flowRetransmit _ _ => none
  | .isolClear _ => none
  | .graphload _ _ _ _ _ _ _ => none
  | .graphunload _ _ _ _ _ _ => none
  | .graphInstanceStart _ => none
  | .nodeCopy _ _ => none
  | .nodePutc _ _ => none
  | .nodeBeam _ _ => none
  | .nodeRodwait _ _ => none
  | .nodeReduce _ _ => none
  | .nodeSend _ _ => none
  | .nodeLaunch _ _ _ => none
  | .nodeFinish _ _ => none
  | .reduceTile _ _ _ => none
  | .instanceRetire _ => none
  | .instanceAbort _ => none
  | .graphStoppedEnd _ => none
  | .xallStart _ => none
  | .xallFinish _ => none
  | .tcmdRead _ _ => none
  | .tcmdWrite _ _ => none
  | .watchdog _ _ => none
  | .parklim _ _ => none
  | .masklen _ _ => none
  | .partitionReset _ => none
  | .preemptSave _ => none
  | .preemptRestore _ => none
  | .fullSave _ _ => none
  | .migrate _ _ _ _ _ => none
  | .eventTick _ => none
  | .launchComplete _ => none
  | .phaseComplete _ _ _ => none
  | .jobComplete _ _ => none
  | .cancelMark _ _ => none
  | .cancelGraceEnd _ _ => none
  | .coldReset _ _ => none
  | .gracefulWarmReset _ _ => none
  | .fatalWarmReset _ _ => none
  | .gracefulResetTimeout _ _ => none
  | .mailboxStatus _ _ => none
  | .flashwrite _ _ _ _ => none
  | .reboot _ _ => none
  | .partcfg _ _ _ => none
  | .jobcreate _ _ _ _ => none
  | .jobclose _ _ _ _ _ => none
  | .attest _ _ _ => none
  | .vfFunctionLevelReset _ => none
  | .hostAccess _ _ _ => none
  | .powerWindow _ _ => none
  | .pwrcapWrite _ => none
  | .thermalBandCrossing _ _ => none
  | .svnburn _ => none
  | .clpartWrite _ _ => none
  | .registerWrite _ _ => none
  | .undef _ => none
  | .waitevTimeout _ _ => none
  | .modulePowerRemoval => none
  | .unpairedHalfExpiry _ => none
  | .badtypePacket _ _ => none

/-- The parts of m5 that a constructor holds apart lie in their own ranges (R114, R211, R221). -/
def partsOk : Instr → Bool
  | .ld g z _ _ _ _ => decide (g < 2) && decide (z < 4)
  | .ldc g z _ _ _ _ => decide (g < 2) && decide (z < 4)
  | .st z _ _ _ _ => decide (z < 4)
  | .amoadd g z _ _ _ _ | .amoand g z _ _ _ _ | .amoor g z _ _ _ _ | .amoxor g z _ _ _ _
  | .amomin g z _ _ _ _ | .amomax g z _ _ _ _ | .amoswap g z _ _ _ _ | .amocas g z _ _ _ _ => decide (g < 2) && decide (z < 4)
  | .sexp2 v t d _ k | .slog2 v t d _ k | .srcp v t d _ k | .srsq v t d _ k
  | .ssin v t d _ k | .scos v t d _ k | .stanh v t d _ k | .ssig v t d _ k =>
      decide (v < 2) && decide (t < 3) && (v == 1 || (d == 0 && k == 0))
  | .vsettype t a => t == 0 || a == 0
  | .vpack _ _ _ p => decide (p < 4)
  | _ => true

/-- A well-formed instruction: its layout can be encoded and its parts are in range. A step of another agent has no
encoding, and any arguments. -/
def Instr.wf (i : Instr) : Bool :=
  match layout i with
  | none => true
  | some l => l.ok && partsOk i

end Sys2Proof
end

