-- ==== Sys2Proof/Decode.lean ====
section
/-! DEFINITION. The decoder of R109, total on any words, and the encoder that emits the shortest chain of R132. -/

namespace Sys2Proof

/-- Bits [hi:lo] of a number (R3). -/
def bitsOf (w hi lo : Nat) : Nat := w / 2 ^ lo % 2 ^ (hi + 1 - lo)

/-- The value of n low bits read as two's complement (the sext of R9). -/
def sextN (v n : Nat) : Int := if v % 2 ^ n < 2 ^ (n - 1) then (v % 2 ^ n : Nat) else (v % 2 ^ n : Nat) - (2 ^ n : Int)

/-- What the scan of a chain has seen (R109): the counts, the page and m5, the PFX.X parts, the immediate bits and the PFX.M. -/
structure Chain where
  n : Nat := 0
  nI : Nat := 0
  seenX : Bool := false
  seenP : Bool := false
  page : Nat := 0
  m5 : Nat := 0
  xd : Nat := 0
  xa : Nat := 0
  xb : Nat := 0
  k : Nat := 0
  bits : Nat := 0
  mo : Option MemOrd := none
  deriving DecidableEq, Repr

/-- The fields a row is built from: the chain and the base word (R100, R104, R105). -/
structure Fields where
  c : Chain
  w : Nat

def Fields.op5 (f : Fields) : Nat := bitsOf f.w 15 11
def Fields.dl (f : Fields) : Nat := bitsOf f.w 10 8
def Fields.al (f : Fields) : Nat := bitsOf f.w 7 5
def Fields.bl (f : Fields) : Nat := bitsOf f.w 4 2
def Fields.s (f : Fields) : Nat := bitsOf f.w 1 0
def Fields.bs (f : Fields) : Nat := bitsOf f.w 4 0
def Fields.cond (f : Fields) : Nat := bitsOf f.w 4 2
def Fields.i5 (f : Fields) : Nat := bitsOf f.w 4 0
def Fields.d (f : Fields) : Nat := f.c.xd * 8 + f.dl
def Fields.a (f : Fields) : Nat := f.c.xa * 8 + f.al
def Fields.b (f : Fields) : Nat := f.c.xb * 8 + f.bl
def Fields.k (f : Fields) : Nat := f.c.k
def Fields.m5 (f : Fields) : Nat := f.c.m5
def Fields.mo (f : Fields) : Option MemOrd := f.c.mo
def Fields.seenP (f : Fields) : Bool := f.c.seenP

/-- A field of a vector request of the special-function unit; unused in the scalar form (R221). -/
def Fields.vecOr (f : Fields) (n : Nat) : Nat := if f.m5 / 4 % 2 = 1 then n else 0

/-- The assembled immediate bits over a base immediate of width bw (R105). -/
def Fields.immBits (f : Fields) (bw : Nat) : Nat := f.c.bits * 2 ^ bw + f.w % 2 ^ bw

/-- The sign-extended immediate (R105). -/
def Fields.immS (f : Fields) (bw : Nat) : Int := sextN (f.immBits bw) (bw + 9 * f.c.nI)

/-- The zero-extended immediate (R105). -/
def Fields.immZ (f : Fields) (bw : Nat) : Nat := f.immBits bw

/-- The instruction at an op5 and selector of page 0 (R116), built from the fields of the chain. -/
def rowPage0 (f : Fields) : Option Instr :=
  match f.op5 with
  | 0x00 => match f.s with
    | 0 => some (.add f.d f.a f.b)
    | 1 => some (.sub f.d f.a f.b)
    | 2 => some (.and f.d f.a f.b)
    | 3 => some (.or f.d f.a f.b)
    | _ => none
  | 0x01 => match f.s with
    | 0 => some (.xor f.d f.a f.b)
    | 1 => some (.shl f.d f.a f.b)
    | 2 => some (.shr f.d f.a f.b)
    | 3 => some (.sra f.d f.a f.b)
    | _ => none
  | 0x02 => match f.s with
    | 0 => some (.mul f.d f.a f.b)
    | 1 => some (.mulh f.d f.a f.b)
    | 2 => some (.mulhu f.d f.a f.b)
    | 3 => some (.rol f.d f.a f.b)
    | _ => none
  | 0x03 => match f.s with
    | 0 => some (.div f.d f.a f.b)
    | 1 => some (.divu f.d f.a f.b)
    | 2 => some (.rem f.d f.a f.b)
    | 3 => some (.remu f.d f.a f.b)
    | _ => none
  | 0x04 => match f.s with
    | 0 => some (.min f.d f.a f.b)
    | 1 => some (.max f.d f.a f.b)
    | 2 => some (.minu f.d f.a f.b)
    | 3 => some (.maxu f.d f.a f.b)
    | _ => none
  | 0x05 => match f.s with
    | 0 => some (.seq f.d f.a f.b)
    | 1 => some (.sne f.d f.a f.b)
    | 2 => some (.slt f.d f.a f.b)
    | 3 => some (.sltu f.d f.a f.b)
    | _ => none
  | 0x06 => match f.s with
    | 0 => some (.sle f.d f.a f.b)
    | 1 => some (.sleu f.d f.a f.b)
    | 2 => some (.sel f.d f.a f.b)
    | 3 => some (.addw f.d f.a f.b)
    | _ => none
  | 0x07 => some (.addi f.d f.a (f.immS 5))
  | 0x08 => some (.andi f.d f.a (f.immS 5))
  | 0x09 => some (.ori f.d f.a (f.immS 5))
  | 0x0A => some (.xori f.d f.a (f.immS 5))
  | 0x0B => some (.shli f.d f.a (f.immZ 5))
  | 0x0C => some (.shri f.d f.a (f.immZ 5))
  | 0x0D => some (.srai f.d f.a (f.immZ 5))
  | 0x0E => some (.li f.d (f.immS 8))
  | 0x0F => some (.lih f.d (f.immZ 8))
  | 0x10 => match f.bs with
    | 0 => some (.mov f.d f.a)
    | 1 => some (.neg f.d f.a)
    | 2 => some (.not f.d f.a)
    | 3 => some (.clz f.d f.a)
    | 4 => some (.ctz f.d f.a)
    | 5 => some (.popc f.d f.a)
    | 6 => some (.bswap f.d f.a)
    | 7 => some (.sextb f.d f.a)
    | 8 => some (.sexth f.d f.a)
    | 9 => some (.sextw f.d f.a)
    | 10 => some (.zextb f.d f.a)
    | 11 => some (.zexth f.d f.a)
    | 12 => some (.zextw f.d f.a)
    | 13 => some (.qcnt f.d f.a)
    | _ => none
  | 0x11 => some (.bfx f.d f.a (f.immZ 5))
  | 0x12 => some (.bfi f.d f.a (f.immZ 5))
  | 0x13 => some (.bez f.d (f.immS 8))
  | 0x14 => some (.bnz f.d (f.immS 8))
  | 0x15 => match f.cond with
    | 0 => some (.beq f.d f.a (f.immS 2))
    | 1 => some (.bne f.d f.a (f.immS 2))
    | 2 => some (.blt f.d f.a (f.immS 2))
    | 3 => some (.bge f.d f.a (f.immS 2))
    | 4 => some (.bltu f.d f.a (f.immS 2))
    | 5 => some (.bgeu f.d f.a (f.immS 2))
    | _ => none
  | 0x16 => some (.b (f.immS 11))
  | 0x17 => some (.call (f.immS 11))
  | 0x18 => if f.seenP then some (.loopStep f.m5 f.d (f.immS 8)) else some (.loop f.d (f.immS 8))
  | 0x19 => some (.movx f.d f.a (f.immZ 5))
  | 0x1A => some (.movxw f.d f.a (f.immZ 5))
  | 0x1B => match f.s with
    | 0 => some (.jr f.a)
    | 1 => some (.callr f.a)
    | 2 => some (.ret)
    | 3 => some (.exit)
    | _ => none
  | 0x1C => match f.s with
    | 0 => some (.send f.a f.b f.mo)
    | 1 => some (.sendl f.d f.a f.b f.mo)
    | 2 => some (.reply f.a f.mo)
    | 3 => some (.sends f.d f.a f.b f.mo)
    | _ => none
  | 0x1D => some (.srd f.d (f.immZ 5))
  | _ => none

/-- The instruction at an op5 and selector of page 1 (R116), built from the fields of the chain. -/
def rowPage1 (f : Fields) : Option Instr :=
  match f.op5 with
  | 0x00 => match f.s with
    | 0 => some (.vadd f.m5 f.d f.a f.b f.k)
    | 1 => some (.vsub f.m5 f.d f.a f.b f.k)
    | 2 => some (.vmul f.m5 f.d f.a f.b f.k)
    | 3 => some (.vdiv f.m5 f.d f.a f.b f.k)
    | _ => none
  | 0x01 => match f.s with
    | 0 => some (.vfma f.m5 f.d f.a f.b f.k)
    | 1 => some (.vfms f.m5 f.d f.a f.b f.k)
    | 2 => some (.vfnma f.m5 f.d f.a f.b f.k)
    | 3 => some (.vfnms f.m5 f.d f.a f.b f.k)
    | _ => none
  | 0x02 => match f.s with
    | 0 => some (.vmin f.m5 f.d f.a f.b f.k)
    | 1 => some (.vmax f.m5 f.d f.a f.b f.k)
    | 2 => some (.vabsd f.m5 f.d f.a f.b f.k)
    | 3 => some (.vcsgn f.m5 f.d f.a f.b f.k)
    | _ => none
  | 0x03 => match f.s with
    | 0 => some (.vand f.m5 f.d f.a f.b f.k)
    | 1 => some (.vor f.m5 f.d f.a f.b f.k)
    | 2 => some (.vxor f.m5 f.d f.a f.b f.k)
    | 3 => some (.vandn f.m5 f.d f.a f.b f.k)
    | _ => none
  | 0x04 => match f.s with
    | 0 => some (.vshl f.m5 f.d f.a f.b f.k)
    | 1 => some (.vshr f.m5 f.d f.a f.b f.k)
    | 2 => some (.vsra f.m5 f.d f.a f.b f.k)
    | 3 => some (.vmulh f.m5 f.d f.a f.b f.k)
    | _ => none
  | 0x05 => match f.s with
    | 0 => some (.vcmpeq f.m5 f.dl f.a f.b f.k)
    | 1 => some (.vcmplt f.m5 f.dl f.a f.b f.k)
    | 2 => some (.vcmple f.m5 f.dl f.a f.b f.k)
    | 3 => some (.vcmpun f.m5 f.dl f.a f.b f.k)
    | _ => none
  | 0x06 => match f.s with
    | 0 => some (.vsel f.m5 f.d f.a f.b f.k)
    | 1 => some (.vperm f.m5 f.d f.a f.b f.k)
    | 2 => some (.vzip f.m5 f.d f.a f.b)
    | 3 => some (.vunzip f.m5 f.d f.a f.b)
    | _ => none
  | 0x07 => match f.bs with
    | 0 => some (.vmov f.m5 f.d f.a f.k)
    | 1 => some (.vneg f.m5 f.d f.a f.k)
    | 2 => some (.vabs f.m5 f.d f.a f.k)
    | 3 => some (.vnot f.m5 f.d f.a f.k)
    | 4 => some (.vrint f.m5 f.d f.a f.k)
    | 5 => some (.vclass f.m5 f.d f.a f.k)
    | 6 => some (.vsqrt f.m5 f.d f.a f.k)
    | _ => none
  | 0x08 => match f.s with
    | 0 => some (.vcvt f.m5 f.d f.a f.bl f.k)
    | 1 => some (.vwidenl f.m5 f.d f.a f.b f.k)
    | 2 => some (.vwidenh f.m5 f.d f.a f.b f.k)
    | 3 => if f.bl < 4 then some (.vpack f.m5 f.d f.a f.bl) else none
    | _ => none
  | 0x09 => match f.s with
    | 0 => some (.vquant f.m5 f.d f.a f.b f.k)
    | 1 => some (.vdeq f.m5 f.d f.a f.b f.k)
    | 2 => some (.vlut4 f.m5 f.d f.a f.b f.k)
    | 3 => some (.vscale f.m5 f.d f.a f.b f.k)
    | _ => none
  | 0x0A => match f.s with
    | 0 => some (.vredsum f.m5 f.d f.a f.k)
    | 1 => some (.vredmax f.m5 f.d f.a f.k)
    | 2 => some (.vredmin f.m5 f.d f.a f.k)
    | 3 => some (.vredor f.m5 f.d f.a f.k)
    | _ => none
  | 0x0B => match f.s with
    | 0 => some (.vbcast f.m5 f.d f.a f.k)
    | 1 => some (.vext f.m5 f.d f.a f.b)
    | 2 => some (.vins f.m5 f.d f.a f.b)
    | 3 => some (.viota f.m5 f.d f.a f.k)
    | _ => none
  | 0x0C => some (.vslidedn f.m5 f.d f.a (f.immZ 5) f.k)
  | 0x0D => some (.vslideup f.m5 f.d f.a (f.immZ 5) f.k)
  | 0x0E => match f.s with
    | 0 => some (.kand f.dl f.al f.bl)
    | 1 => some (.kor f.dl f.al f.bl)
    | 2 => some (.kxor f.dl f.al f.bl)
    | 3 => some (.kandn f.dl f.al f.bl)
    | _ => none
  | 0x0F => match f.s with
    | 0 => some (.knot f.dl f.al)
    | 1 => some (.kpop f.m5 f.d f.al)
    | 2 => some (.kfrom f.dl f.a f.bl)
    | 3 => some (.kto f.d f.al f.bl)
    | _ => none
  | 0x10 => match f.s with
    | 0 => some (.vrot f.m5 f.d f.a f.b f.k)
    | 1 => some (.vsettype f.m5 (if f.m5 = 0 then f.a else 0))
    | 2 => some (.vsetbase f.a)
    | 3 => some (.vgetbase f.d)
    | _ => none
  | 0x11 => some (.vchain f.d f.a f.i5)
  | _ => none

/-- The instruction at an op5 and selector of page 2 (R116), built from the fields of the chain. -/
def rowPage2 (f : Fields) : Option Instr :=
  match f.op5 with
  | 0x00 => some (.ld (f.m5 / 4 % 2) (f.m5 % 4) f.d f.a (f.immS 5) f.mo)
  | 0x01 => some (.st (f.m5 % 4) f.d f.a (f.immS 5) f.mo)
  | 0x02 => some (.ldc (f.m5 / 4 % 2) (f.m5 % 4) f.d f.a (f.immS 5) f.mo)
  | 0x03 => some (.vld f.d f.a (f.immS 5) f.k f.mo)
  | 0x04 => some (.vst f.d f.a (f.immS 5) f.k f.mo)
  | 0x05 => match f.s with
    | 0 => some (.vlds f.d f.a f.b f.k f.mo)
    | 1 => some (.vsts f.d f.a f.b f.k f.mo)
    | 2 => some (.vgath (f.m5 / 8) f.d f.a f.b f.k f.mo)
    | 3 => some (.vscat (f.m5 / 8) f.d f.a f.b f.k f.mo)
    | _ => none
  | 0x06 => match f.s with
    | 0 => some (.amoadd (f.m5 / 4 % 2) (f.m5 % 4) f.d f.a f.b f.mo)
    | 1 => some (.amoand (f.m5 / 4 % 2) (f.m5 % 4) f.d f.a f.b f.mo)
    | 2 => some (.amoor (f.m5 / 4 % 2) (f.m5 % 4) f.d f.a f.b f.mo)
    | 3 => some (.amoxor (f.m5 / 4 % 2) (f.m5 % 4) f.d f.a f.b f.mo)
    | _ => none
  | 0x07 => match f.s with
    | 0 => some (.amomin (f.m5 / 4 % 2) (f.m5 % 4) f.d f.a f.b f.mo)
    | 1 => some (.amomax (f.m5 / 4 % 2) (f.m5 % 4) f.d f.a f.b f.mo)
    | 2 => some (.amoswap (f.m5 / 4 % 2) (f.m5 % 4) f.d f.a f.b f.mo)
    | 3 => some (.amocas (f.m5 / 4 % 2) (f.m5 % 4) f.d f.a f.b f.mo)
    | _ => none
  | 0x08 => match f.s with
    | 0 => some (.ship f.d f.a f.b f.mo)
    | 1 => some (.shipn f.d f.a f.b f.mo)
    | 2 => some (.xadd f.m5 f.a f.b f.mo)
    | 3 => some (.xread f.m5 f.a f.mo)
    | _ => none
  | 0x09 => match f.s with
    | 0 => some (.cpy f.d f.a f.b f.mo)
    | 1 => some (.cpyl f.d f.a f.b f.mo)
    | 2 => some (.cpyr f.d f.a f.b f.mo)
    | 3 => some (.cpyg f.d f.a f.b f.mo)
    | _ => none
  | 0x0A => match f.s with
    | 0 => some (.sigadd f.a f.b f.mo)
    | 1 => some (.sigwait f.d f.a f.b f.mo)
    | 2 => some (.sigabort f.a f.mo)
    | 3 => some (.sigread f.d f.a f.mo)
    | _ => none
  | 0x0B => match f.s with
    | 0 => some (.fence f.mo)
    | 1 => some (.pref f.a)
    | 2 => some (.invl f.a f.b)
    | 3 => some (.wbcl f.a f.b)
    | _ => none
  | _ => none

/-- The instruction at an op5 and selector of page 3 (R116), built from the fields of the chain. -/
def rowPage3 (f : Fields) : Option Instr :=
  match f.op5 with
  | 0x00 => some (.mctx f.m5 (f.immZ 5))
  | 0x01 => match f.s with
    | 0 => some (.mlut f.m5 f.a)
    | _ => none
  | 0x02 => match f.s with
    | 0 => some (.mring f.a f.b)
    | _ => none
  | 0x03 => match f.s with
    | 0 => some (.madv f.a f.b)
    | _ => none
  | 0x04 => match f.s with
    | 0 => some (.mma f.m5 f.a)
    | _ => none
  | 0x05 => match f.s with
    | 0 => some (.mmac f.m5 f.a f.b)
    | _ => none
  | 0x06 => match f.s with
    | 0 => some (.mtrn f.m5 f.a)
    | 1 => some (.mperm f.m5 f.a f.b)
    | 2 => some (.mred f.m5 f.a)
    | 3 => some (.mzero f.m5 f.a)
    | _ => none
  | 0x07 => match f.s with
    | 0 => some (.mstat f.m5 f.d)
    | _ => none
  | 0x08 => match f.s with
    | 0 => some (.sexp2 (f.m5 / 4 % 2) (f.m5 % 4) (f.vecOr f.d) f.a (f.vecOr f.k))
    | 1 => some (.slog2 (f.m5 / 4 % 2) (f.m5 % 4) (f.vecOr f.d) f.a (f.vecOr f.k))
    | 2 => some (.srcp (f.m5 / 4 % 2) (f.m5 % 4) (f.vecOr f.d) f.a (f.vecOr f.k))
    | 3 => some (.srsq (f.m5 / 4 % 2) (f.m5 % 4) (f.vecOr f.d) f.a (f.vecOr f.k))
    | _ => none
  | 0x09 => match f.s with
    | 0 => some (.ssin (f.m5 / 4 % 2) (f.m5 % 4) (f.vecOr f.d) f.a (f.vecOr f.k))
    | 1 => some (.scos (f.m5 / 4 % 2) (f.m5 % 4) (f.vecOr f.d) f.a (f.vecOr f.k))
    | 2 => some (.stanh (f.m5 / 4 % 2) (f.m5 % 4) (f.vecOr f.d) f.a (f.vecOr f.k))
    | 3 => some (.ssig (f.m5 / 4 % 2) (f.m5 % 4) (f.vecOr f.d) f.a (f.vecOr f.k))
    | _ => none
  | 0x0A => match f.s with
    | 0 => some (.lsrun f.a)
    | 1 => some (.lsstop)
    | 2 => some (.lsstat f.d)
    | _ => none
  | _ => none

/-- The instruction at an op5 and selector of page 4 (R116), built from the fields of the chain. -/
def rowPage4 (f : Fields) : Option Instr :=
  match f.op5 with
  | 0x00 => match f.s with
    | 0 => some (.enq f.a f.b)
    | 1 => some (.deq f.a)
    | 2 => some (.deqw f.a)
    | 3 => some (.wqstat f.a)
    | _ => none
  | 0x01 => match f.s with
    | 0 => some (.stbind f.d f.a f.b)
    | 1 => some (.stfree f.d f.a)
    | _ => none
  | 0x02 => match f.s with
    | 0 => some (.putc f.d f.a f.b)
    | 1 => some (.getr f.d f.a f.b)
    | _ => none
  | 0x03 => match f.s with
    | 0 => some (.beam f.a)
    | _ => none
  | 0x04 => match f.s with
    | 0 => some (.rodget f.d f.a f.b)
    | 1 => some (.rodwait f.d f.a f.b)
    | 2 => some (.rodfree f.a)
    | 3 => some (.rodstat f.d f.a f.b)
    | _ => none
  | 0x05 => match f.s with
    | 0 => some (.flowopen f.d f.a f.b)
    | 1 => some (.flowclose f.a)
    | _ => none
  | 0x06 => match f.s with
    | 0 => some (.grun f.d f.a f.b)
    | 1 => some (.gcancel f.d f.a)
    | _ => none
  | 0x07 => match f.s with
    | 0 => some (.xall f.a)
    | _ => none
  | 0x08 => match f.s with
    | 0 => some (.cancel f.d f.a f.b)
    | _ => none
  | _ => none

/-- The instruction at an op5 and selector of page 5 (R116), built from the fields of the chain. -/
def rowPage5 (f : Fields) : Option Instr :=
  match f.op5 with
  | 0x00 => match f.s with
    | 0 => some (.trap f.a)
    | 1 => some (.syscall f.a)
    | 2 => some (.bkpt)
    | 3 => some (.sret f.d f.a f.b)
    | _ => none
  | 0x01 => some (.swr f.a (f.immZ 5))
  | 0x02 => match f.s with
    | 0 => some (.ckpt f.a)
    | _ => none
  | 0x03 => match f.s with
    | 0 => some (.maskw)
    | 1 => some (.unmaskw)
    | _ => none
  | 0x04 => match f.s with
    | 0 => some (.tlbi f.a f.b)
    | 1 => some (.keyld f.d f.a f.b)
    | 2 => some (.waitev f.d f.a f.b)
    | 3 => some (.haltc f.d f.a)
    | _ => none
  | _ => none
/-- opcode_map(page, op5, selector) of R109: none where the map lists nothing. -/
def rowOf (f : Fields) : Option Instr :=
  match f.c.page with
  | 0 => rowPage0 f
  | 1 => rowPage1 f
  | 2 => rowPage2 f
  | 3 => rowPage3 f
  | 4 => rowPage4 f
  | 5 => rowPage5 f
  | _ => none

/-- The low bits of the base word: the immediate's base field, or the constant low part (R100). -/
def Layout.lowBits (l : Layout) : Nat :=
  match l.imm with
  | none => l.low
  | some (_, v) => l.low + (v % (2 ^ l.fmt.bw : Int)).toNat

/-- The base word of a layout (R100). -/
def Layout.base (l : Layout) : Nat :=
  match l.fmt with
  | .d => l.op5 * 2048 + l.lowBits
  | .c => l.op5 * 2048 + l.d % 8 * 256 + l.lowBits
  | .b => l.op5 * 2048 + l.d % 8 * 256 + l.a % 8 * 32 + l.lowBits
  | .f => l.op5 * 2048 + l.d % 8 * 256 + l.a % 8 * 32 + l.lowBits
  | .a => l.op5 * 2048 + l.d % 8 * 256 + l.a % 8 * 32 + l.b % 8 * 4 + l.lowBits

/-- The extension bits of a position that PFX.X may carry: its own if the position is a register operand, else 0 (R104, R108). -/
def highOf (x : Bool) (n : Nat) : Nat := if x then n / 8 else 0

/-- Whether a chain's prefixes are accepted by a row (R107, R108): X not on format D, no high bits outside register operands,
a mask only where maskable, I and M only where accepted. -/
def accepts (c : Chain) (l : Layout) : Bool :=
  !(c.seenX && l.fmt == .d)
    && (l.xd || c.xd == 0) && (l.xa || c.xa == 0) && (l.xb || c.xb == 0)
    && (l.maskable || c.k == 0)
    && (l.acceptsI || c.nI == 0)
    && (match c.mo with
        | none => true
        | some m => decide (m.scope < 6) && l.orders.contains m.order)

/-- What the decoder makes of the words at the PC (R109). -/
inductive Decoded where
  /-- An instruction and its length in words. -/
  | ok (i : Instr) (n : Nat)
  /-- The chain traps ILLEGAL or PREFIX. -/
  | bad (c : UndefCause)
  /-- Word n of the chain has not been supplied: a fetch of it comes first. -/
  | need (n : Nat)
  deriving DecidableEq, Repr

/-- The checks of R109 after the chain: op5 0b11110, page, opcode map, m5, unused fields, acceptance. -/
def decodeBase (c : Chain) (w : Nat) : Decoded :=
  if bitsOf w 15 11 = 0b11110 then .bad .illegal
  else if 6 ≤ c.page then .bad .illegal
  else
    match rowOf ⟨c, w⟩ with
    | none => .bad .illegal
    | some i =>
      match layout i with
      | none => .bad .illegal
      | some l =>
        if !l.rule.admits c.m5 then .bad .illegal
        else if l.base ≠ w then .bad .illegal
        else if !accepts c l then .bad .pfx
        else .ok i (c.n + 1)

/-- One prefix word added to the chain, or the trap it raises (R103, R109). -/
def Chain.push (c : Chain) (w : Nat) : Except UndefCause Chain :=
  if w = 0xFFFF then .error .illegal
  else if c.n = 4 then .error .pfx
  else
    match bitsOf w 10 9 with
    | 0 =>
      if c.seenX then .error .pfx
      else .ok { c with n := c.n + 1, seenX := true, xd := bitsOf w 8 7, xa := bitsOf w 6 5, xb := bitsOf w 4 3, k := bitsOf w 2 0 }
    | 1 =>
      if c.nI = 3 then .error .pfx
      else .ok { c with n := c.n + 1, nI := c.nI + 1, bits := c.bits * 512 + bitsOf w 8 0 }
    | 2 =>
      if c.seenP then .error .pfx
      else .ok { c with n := c.n + 1, seenP := true, page := bitsOf w 8 5, m5 := bitsOf w 4 0 }
    | _ =>
      if c.mo.isSome then .error .pfx
      else .ok { c with n := c.n + 1, mo := some ⟨bitsOf w 8 6, bitsOf w 5 4, bitsOf w 3 0⟩ }

/-- The decoding loop of R109 over the words from the PC on. -/
def decodeFrom (c : Chain) : List Half → Decoded
  | [] => .need c.n
  | w :: rest =>
    if bitsOf w.toNat 15 11 = 0b11111 then
      match c.push w.toNat with
      | .error e => .bad e
      | .ok c' => decodeFrom c' rest
    else decodeBase c w.toNat

/-- The instruction at the head of a list of words (R109). -/
def decode (ws : List Half) : Decoded := decodeFrom {} ws

/-- The PFX.I words of an immediate: n words of nine bits, most significant first (R105). -/
def immPfx (n bw : Nat) (v : Int) : List Nat :=
  (List.range n).map fun j => 0xFA00 + (v / (2 ^ (bw + 9 * (n - 1 - j)) : Int) % 512).toNat

/-- The words of a layout, in the order of R132: PFX.P, PFX.X, PFX.M, PFX.I, base word. -/
def Layout.words (l : Layout) : List Half :=
  ((if l.hasP then [0xFC00 + l.page * 32 + l.m5] else [])
    ++ (if l.hasX then [0xF800 + highOf l.xd l.d * 128 + highOf l.xa l.a * 32 + highOf l.xb l.b * 8 + l.k] else [])
    ++ (match l.mo with
        | none => []
        | some m => [0xFE00 + m.scope * 64 + m.order * 16 + m.hint])
    ++ (match l.imm with
        | none => []
        | some (_, v) => immPfx l.nI l.fmt.bw v)
    ++ [l.base]).map (BitVec.ofNat 16)

/-- The words of an encoded instruction; none for a step of another agent. -/
def encode (i : Instr) : List Half :=
  match layout i with
  | none => []
  | some l => l.words

/-- The words that a table number stands for, in fetch order: the table writes a prefixed row as one 32-bit number with the
prefix word, which is fetched first, in bits [31:16] and the base word in bits [15:0]. -/
def tableWords (nbits w : Nat) : List Half :=
  if nbits ≤ 16 then [BitVec.ofNat 16 w] else [BitVec.ofNat 16 (w / 65536), BitVec.ofNat 16 w]

/-- The instruction that the decoder reads from a table number, none where the decoder refuses it. The bits above nbits are
zero words after it. -/
def decodeTableWord (nbits w : Nat) : Option Instr :=
  match decode (tableWords nbits w ++ [0, 0, 0, 0]) with
  | .ok i _ => some i
  | _ => none

end Sys2Proof
end

