-- ==== Sys2Proof/Config.lean ====
section
/-! DEFINITION. What the spec fixes by number, what it leaves to an implementation or to the outside, and the free values:
opaque constants without a body, of which nothing can be proved. -/

namespace Sys2Proof.Config

/-- Cycles of the core clock in a microsecond: the clock of R6 runs at 1.5 GHz. -/
def cyclesPerUs : Nat := 1500

/-- Cycles in n microseconds. -/
def us (n : Nat) : Nat := cyclesPerUs * n

/-- Cycles in n milliseconds. -/
def ms (n : Nat) : Nat := us (1000 * n)

/-- The window bases of R126. -/
def spWin : Nat := 0
@[inherit_doc spWin] def stkWin : Nat := 0x1000000
/-- The first address of the global window (R232). -/
def globalBase : Nat := 0x100000000

/-- The device's own pod endpoint number (R126, COREID). The spec leaves it to the pod: a free value. -/
opaque podEndpoint : BitVec 16

/-- The body of a fabric packet of types 5 to 0xA in its bytes behind the envelope, and the bytes of a body (R345): layouts that the spec
does not give. -/
opaque bodyOf (ptype : Nat) (b : List Byte) : PktBody
@[inherit_doc bodyOf] opaque bytesOf (body : PktBody) : List Byte

/-- Whether a carrier, UALink or Ultra Ethernet, can express an atomic of a size as a transaction of its own (R363): the carriers'
specifications decide. -/
opaque carrierAtomic (ethernet : Bool) (op : AmoOp) (size : Nat) : Bool

/-- The contents that a read beyond what any rule states returns, by a plain counter: a free value. -/
opaque freeWord : Nat → Word

/-- The status of a core as its own registers in the die control space show it (R87): a word of the states of its 16 contexts, by their codes,
in a layout that the spec does not give; and the bytes of a packet of types 5 to 0xA by its first bytes (R345, R368). -/
opaque coreStat : List Nat → Word
@[inherit_doc coreStat] opaque packetLen : List Byte → Nat

/-- The payload words of the queue-miss event (R42): the job, the handle and the kind of access that it carries, and whether its reason is
BADENTRY, in a layout that the spec does not give. -/
opaque queueMissWord : (job handle kind : Nat) → (badentry : Bool) → Nat → Word

/-- The digest, signature and sealing functions whose algorithms the spec names and does not spell out (R253, R448, R459). -/
opaque digest : List Byte → List Byte
@[inherit_doc digest] opaque signatureValid : List Byte → List Byte → Bool
@[inherit_doc digest] opaque tableSigned (key message signature : List Byte) : Bool
@[inherit_doc digest] opaque attestSign : List Byte → List Byte

/-- What a boot finds that no row names (R449, R457), by a counter: the fail code of the training after a reset that the hardware starts by
itself, none of the codes of R449 where it passes, with its FAILDET; and the repair maps of a memory BIST, whose layout the spec does not
give: the SRAM instances and rows repaired (log entry 117). -/
opaque trainingOutcome : Nat → Nat × Word
@[inherit_doc trainingOutcome] opaque repairMaps : Nat → List (Nat × Nat)

/-- The 128-bit GCM tag of a tile's bytes under a key, an IV and the authenticated data (R253). -/
opaque sealTag (key : List Byte) (iv : BitVec 96) (aad data : List Byte) : BitVec 128

/-- The tag of a node of the version tree at a level and an index over its words and its counter (R255). -/
opaque nodeTag (level index : Nat) (words : List (BitVec 64)) (counter : BitVec 64) : BitVec 128

/-- Lines of a cluster cache: 1 MiB of 64 bytes each (R1, R266), and tiles of a seal engine's buffer (R257). -/
def cacheLines : Nat := 16384
@[inherit_doc cacheLines] def bufTiles : Nat := 64

/-- The fused hash of the table's public key (R448), the identity public key and the vendor's certificate over it (R459). -/
opaque pkhash : List Byte
@[inherit_doc pkhash] opaque identityKey : List Byte
@[inherit_doc pkhash] opaque vendorCert : List Byte

/-- The handler table that the firmware image installs on a column core (R73): the image's own, so a free value. -/
opaque fwHandlers : Nat → List Nat

/-- The effect of a loaded ship routine inside the 64-byte block it may touch: the new block and the result, from the image, the
argument, the target address and the old block (R278). -/
opaque routineRun : List Byte → Word → Nat → List Byte → List Byte × Word

end Sys2Proof.Config
end

