-- ==== Sys2Proof/Machine/Num.lean ====
section
/-! DEFINITION. The number formats, exact values and rounding of R167 to R183: element formats, IEEE arithmetic with flags,
conversions with saturation and stochastic rounding, and the exact sums of R185 to R191. -/

namespace Sys2Proof.Machine

/-- The flags of R180, by bit of FPFLAGS. -/
def flagNV : FlagBits := 1#5
@[inherit_doc flagNV] def flagDZ : FlagBits := 2#5
@[inherit_doc flagNV] def flagOF : FlagBits := 4#5
@[inherit_doc flagNV] def flagUF : FlagBits := 8#5
@[inherit_doc flagNV] def flagNX : FlagBits := 16#5

/-- The flag when the condition holds, else none. -/
def flagIf (c : Bool) (f : FlagBits) : FlagBits := if c then f else 0#5

/-- The rounding modes of FPCTL.RM (R127): 0 RNE, 1 RTZ, 2 RDN, 3 RUP. -/
inductive RMode where
  | rne | rtz | rdn | rup
  deriving DecidableEq, Repr

/-- The mode of a two-bit RM field (R127). -/
def rmOf (n : Nat) : RMode :=
  match n % 4 with
  | 0 => .rne
  | 1 => .rtz
  | 2 => .rdn
  | _ => .rup

/-- A floating-point element format (R167): fraction and exponent widths, bias, the code of the largest finite magnitude,
whether it follows the IEEE rules for infinities and NaNs, whether FPCTL.FTZ applies to it (R179), and its default NaN (R169). -/
structure FFmt where
  mw : Nat
  ew : Nat
  bias : Int
  top : Nat
  ieee : Bool
  wide : Bool
  dnan : Nat
  deriving DecidableEq, Repr

def FFmt.f32 : FFmt := ⟨23, 8, 127, 0x7F7FFFFF, true, true, 0x7FC00000⟩
def FFmt.bf16 : FFmt := ⟨7, 8, 127, 0x7F7F, true, true, 0x7FC0⟩
def FFmt.f16 : FFmt := ⟨10, 5, 15, 0x7BFF, true, true, 0x7E00⟩
def FFmt.e5m2 : FFmt := ⟨2, 5, 15, 0x7B, true, false, 0x7E⟩
def FFmt.e4m3 : FFmt := ⟨3, 4, 7, 0x7E, false, false, 0x7F⟩
def FFmt.e3m2 : FFmt := ⟨2, 3, 3, 0x1F, false, false, 0⟩
def FFmt.e2m3 : FFmt := ⟨3, 2, 1, 0x1F, false, false, 0⟩
def FFmt.e2m1 : FFmt := ⟨1, 2, 1, 0x7, false, false, 0⟩

/-- The exponent of the smallest normal (R168). -/
def FFmt.emin (f : FFmt) : Int := 1 - f.bias

/-- The sign bit of a code. -/
def FFmt.signBit (f : FFmt) : Nat := 2 ^ (f.ew + f.mw)

/-- The code of a magnitude with a sign. -/
def FFmt.signed (f : FFmt) (neg : Bool) (mag : Nat) : Nat := if neg then f.signBit + mag else mag

/-- The code of an infinity of an IEEE format. -/
def FFmt.inf (f : FFmt) (neg : Bool) : Nat := f.signed neg (f.top + 1)

/-- A floating-point value: NaN (signalling or quiet), infinity, or (-1)^neg × m × 2^e. -/
inductive FV where
  | nan (sig : Bool)
  | inf (neg : Bool)
  | fin (neg : Bool) (m : Nat) (e : Int)
  deriving DecidableEq, Repr

/-- The value of a code (R167, R168). -/
def FFmt.decode (f : FFmt) (code : Nat) : FV :=
  let c := code % (2 * f.signBit)
  let neg := decide (f.signBit ≤ c)
  let mag := c % f.signBit
  if f.top < mag && (f.ieee || f.dnan != 0) then
    if f.ieee && mag == f.top + 1 then .inf neg
    else .nan (f.ieee && mag / 2 ^ (f.mw - 1) % 2 == 0)
  else
    let e := mag / 2 ^ f.mw
    let m := mag % 2 ^ f.mw
    if e = 0 then .fin neg m (f.emin - f.mw)
    else .fin neg (2 ^ f.mw + m) ((e : Int) - f.bias - f.mw)

/-- The value of a code as a vector instruction reads it: with FTZ a subnormal of FP32, FP16 or BF16 is a zero (R179). -/
def FFmt.read (f : FFmt) (ftz : Bool) (code : Nat) : FV :=
  match f.decode code with
  | .fin n m e => if ftz && f.wide && decide (m < 2 ^ f.mw) then .fin n 0 e else .fin n m e
  | v => v

/-- A positive real between m × 2^e and (m + 1) × 2^e: exactly m × 2^e when rest is false, strictly above it when true. -/
structure Mag where
  m : Nat
  e : Int
  rest : Bool := false
  deriving DecidableEq, Repr

/-- The floor of log2 of a non-zero magnitude. -/
def Mag.log (x : Mag) : Int := (Nat.log2 x.m : Int) + x.e

/-- The integer part of a magnitude over 2^q, twice the remainder compared with 2^q (0 below, 1 equal, 2 above), and whether
anything remains. -/
def Mag.cut (x : Mag) (q : Int) : Nat × Nat × Bool :=
  if q ≤ x.e then (x.m * 2 ^ (x.e - q).toNat, 0, x.rest)
  else
    let s := (q - x.e).toNat
    let n := x.m / 2 ^ s
    let r := x.m % 2 ^ s
    let cmp := if 2 * r < 2 ^ s then 0 else if 2 * r = 2 ^ s && !x.rest then 1 else 2
    (n, cmp, r != 0 || x.rest)

/-- Whether a cut is rounded away from zero (R174). -/
def roundsUp (rm : RMode) (neg : Bool) (n cmp : Nat) (rest : Bool) : Bool :=
  match rm with
  | .rne => cmp == 2 || (cmp == 1 && n % 2 == 1)
  | .rtz => false
  | .rdn => neg && rest
  | .rup => !neg && rest

/-- A magnitude rounded to a multiple of 2^q, in units of 2^q, and whether it changed. -/
def Mag.roundTo (x : Mag) (rm : RMode) (neg : Bool) (q : Int) : Nat × Bool :=
  let c := x.cut q
  (c.1 + (if roundsUp rm neg c.1 c.2.1 c.2.2 then 1 else 0), c.2.2)

/-- The code of the magnitude rounded to the format with an unbounded top, whether it is inexact, and whether it is tiny after
rounding (R174, R180). -/
def FFmt.roundMag (f : FFmt) (rm : RMode) (neg : Bool) (x : Mag) : Nat × Bool × Bool :=
  if x.m = 0 && !x.rest then (0, false, false)
  else
    let l := x.log
    let q := max l f.emin - f.mw
    let r := x.roundTo rm neg q
    let u := x.roundTo rm neg (l - f.mw)
    let tiny := decide (l < f.emin) && !(decide (l = f.emin - 1) && u.1 == 2 ^ (f.mw + 1))
    ((max l f.emin - f.emin).toNat * 2 ^ f.mw + r.1, r.2, tiny)

/-- The result of an overflow into FP32, FP16 or BF16 (R174). -/
def FFmt.overflowed (f : FFmt) (rm : RMode) (neg : Bool) : Nat :=
  match rm, neg with
  | .rne, _ => f.inf neg
  | .rtz, _ => f.signed neg f.top
  | .rdn, false => f.signed neg f.top
  | .rdn, true => f.inf neg
  | .rup, false => f.inf neg
  | .rup, true => f.signed neg f.top

/-- The overflow result of a conversion into a narrow format (R177). -/
def FFmt.narrowOverflow (f : FFmt) (sat neg : Bool) : Nat :=
  if sat then f.signed neg f.top
  else if f.ieee then f.inf neg
  else if f.dnan = 0 then f.signed neg f.top
  else f.dnan

/-- A signed real rounded to an IEEE destination under a rounding mode and FTZ (R174, R179, R180). -/
def FFmt.round (f : FFmt) (rm : RMode) (ftz neg : Bool) (x : Mag) : Nat × FlagBits :=
  let r := f.roundMag rm neg x
  if f.top < r.1 then (f.overflowed rm neg, flagOF ||| flagNX)
  else if ftz && f.wide && r.1 != 0 && decide (r.1 < 2 ^ f.mw) then (f.signed neg 0, flagUF ||| flagNX)
  else (f.signed neg r.1, flagIf (r.2.2 && r.2.1) flagUF ||| flagIf r.2.1 flagNX)

/-- A signed finite value rounded into any format by a conversion: the narrow formats overflow as R177 gives and ignore FTZ. -/
def FFmt.convRound (f : FFmt) (rm : RMode) (ftz sat neg : Bool) (x : Mag) : Nat × FlagBits :=
  if f.wide then f.round rm ftz neg x
  else
    let r := f.roundMag rm neg x
    if f.top < r.1 then (f.narrowOverflow sat neg, flagOF ||| flagNX)
    else (f.signed neg r.1, flagIf (r.2.2 && r.2.1) flagUF ||| flagIf r.2.1 flagNX)

/-- One step of the xorshift generator (R176). -/
def xsStep (x : Nat) : Nat :=
  let x1 := Nat.xor x (x * 2 ^ 13 % 2 ^ 32)
  let x2 := Nat.xor x1 (x1 / 2 ^ 17)
  Nat.xor x2 (x2 * 2 ^ 5 % 2 ^ 32)

/-- A finite value rounded stochastically with the draw rnd (R175). -/
def FFmt.stochRound (f : FFmt) (rnd : Nat) (ftz sat neg : Bool) (x : Mag) : Nat × FlagBits :=
  let ovf : Nat × FlagBits := (if f.wide then f.inf neg else f.narrowOverflow sat neg, flagOF ||| flagNX)
  if x.m = 0 then (f.signed neg 0, 0#5)
  else
    let l := x.log
    let q := max l f.emin - f.mw
    let c := x.cut q
    let code := (max l f.emin - f.emin).toNat * 2 ^ f.mw + c.1
    let fin : Nat → FlagBits → Nat × FlagBits := fun g fl =>
      if ftz && f.wide && g != 0 && decide (g < 2 ^ f.mw) then (f.signed neg 0, flagUF ||| flagNX) else (f.signed neg g, fl)
    if f.top < code then ovf
    else if !c.2.2 then fin code 0#5
    else
      let s := (q - x.e).toNat
      let frac := x.m % 2 ^ s * 2 ^ 32 / 2 ^ s
      let up : Bool := decide (rnd < frac)
      let g := if up then code + 1 else code
      if f.top < g then ovf
      else
        let s' := (l - f.mw - x.e).toNat
        let up' : Bool := decide (rnd < x.m % 2 ^ s' * 2 ^ 32 / 2 ^ s')
        let tiny := decide (l < f.emin) && !(decide (l = f.emin - 1) && up' && (x.cut (l - f.mw)).1 + 1 == 2 ^ (f.mw + 1))
        fin g (flagIf tiny flagUF ||| flagNX)

/-- A value's NaN, as signalling. -/
def FV.isNan : FV → Bool
  | .nan _ => true
  | _ => false

@[inherit_doc FV.isNan]
def FV.isSig : FV → Bool
  | .nan s => s
  | _ => false

/-- The sign of a value; a NaN's is positive. -/
def FV.neg : FV → Bool
  | .nan _ => false
  | .inf n => n
  | .fin n _ _ => n

def FV.isInf : FV → Bool
  | .inf _ => true
  | _ => false

def FV.isZero : FV → Bool
  | .fin _ m _ => m == 0
  | _ => false

/-- A value with its sign changed; a NaN stays. -/
def FV.flip : FV → FV
  | .nan s => .nan s
  | .inf n => .inf !n
  | .fin n m e => .fin (!n) m e

/-- The signed integer of a finite value in units of 2^q, for a q no larger than its exponent. -/
def FV.units (v : FV) (q : Int) : Int :=
  match v with
  | .fin n m e => (if n then -1 else 1) * ((m * 2 ^ (e - q).toNat : Nat) : Int)
  | _ => 0

/-- The exponent of a finite value. -/
def FV.exp : FV → Int
  | .fin _ _ e => e
  | _ => 0

/-- A signed integer in units of 2^q rounded to a format; an exact zero takes the sign given. -/
def FFmt.roundInt (f : FFmt) (rm : RMode) (ftz : Bool) (zneg : Bool) (n q : Int) : Nat × FlagBits :=
  if n = 0 then (f.signed zneg 0, 0#5)
  else f.round rm ftz (decide (n < 0)) ⟨n.natAbs, q, false⟩

/-- The default NaN with NV when a NaN input is signalling (R169). -/
def FFmt.nanOf (f : FFmt) (sig : Bool) : Nat × FlagBits := (f.dnan, flagIf sig flagNV)

/-- a + b rounded once (R174, R180). -/
def FFmt.add (f : FFmt) (rm : RMode) (ftz : Bool) (a b : FV) : Nat × FlagBits :=
  match a, b with
  | .nan s, y => f.nanOf (s || y.isSig)
  | x, .nan s => f.nanOf (s || x.isSig)
  | .inf m, .inf n => if m = n then (f.inf m, 0#5) else (f.dnan, flagNV)
  | .inf m, .fin .. => (f.inf m, 0#5)
  | .fin .., .inf n => (f.inf n, 0#5)
  | .fin m am ae, .fin n bm be =>
    let q := min ae be
    let zneg := if am = 0 && bm = 0 && m = n then m else rm = .rdn
    f.roundInt rm ftz zneg ((FV.fin m am ae).units q + (FV.fin n bm be).units q) q

/-- a × b + c rounded once; 0 × ∞ raises NV even when c is NaN (R202). -/
def FFmt.fma (f : FFmt) (rm : RMode) (ftz : Bool) (a b c : FV) : Nat × FlagBits :=
  let inv := (a.isZero && b.isInf) || (a.isInf && b.isZero)
  if a.isNan || b.isNan || c.isNan then f.nanOf (a.isSig || b.isSig || c.isSig || inv)
  else if inv then (f.dnan, flagNV)
  else
    let pneg := a.neg != b.neg
    if a.isInf || b.isInf then
      if c.isInf && c.neg != pneg then (f.dnan, flagNV) else (f.inf pneg, 0#5)
    else if c.isInf then (f.inf c.neg, 0#5)
    else
      let pe := a.exp + b.exp
      let p := a.units a.exp * b.units b.exp
      let q := min pe c.exp
      let zneg := if p = 0 && c.isZero && pneg = c.neg then pneg else rm = .rdn
      f.roundInt rm ftz zneg (p * 2 ^ (pe - q).toNat + c.units q) q

/-- a × b rounded once. -/
def FFmt.mul (f : FFmt) (rm : RMode) (ftz : Bool) (a b : FV) : Nat × FlagBits :=
  if a.isNan || b.isNan then f.nanOf (a.isSig || b.isSig)
  else if (a.isZero && b.isInf) || (a.isInf && b.isZero) then (f.dnan, flagNV)
  else
    let neg := a.neg != b.neg
    if a.isInf || b.isInf then (f.inf neg, 0#5)
    else f.roundInt rm ftz neg (a.units a.exp * b.units b.exp) (a.exp + b.exp)

/-- The quotient of two positive magnitudes, with 64 bits or more below its leading bit. -/
def Mag.div (am : Nat) (ae : Int) (bm : Nat) (be : Int) : Mag :=
  let s := Nat.log2 bm + 64
  ⟨am * 2 ^ s / bm, ae - be - s, am * 2 ^ s % bm != 0⟩

/-- a ÷ b rounded once; a finite non-zero value over zero raises DZ (R180). -/
def FFmt.div (f : FFmt) (rm : RMode) (ftz : Bool) (a b : FV) : Nat × FlagBits :=
  let neg := a.neg != b.neg
  match a, b with
  | .nan s, y => f.nanOf (s || y.isSig)
  | x, .nan s => f.nanOf (s || x.isSig)
  | .inf _, .inf _ => (f.dnan, flagNV)
  | .inf _, .fin .. => (f.inf neg, 0#5)
  | .fin .., .inf _ => (f.signed neg 0, 0#5)
  | .fin _ am ae, .fin _ bm be =>
    if bm = 0 then (if am = 0 then (f.dnan, flagNV) else (f.inf neg, flagDZ))
    else if am = 0 then (f.signed neg 0, 0#5)
    else f.round rm ftz neg (Mag.div am ae bm be)

/-- One bit of the integer square root at a time: r is the root of the bits consumed so far. -/
def isqrtGo : Nat → Nat → Nat → Nat
  | 0, _, r => r
  | k + 1, n, r => isqrtGo k n (if (r + 2 ^ k) * (r + 2 ^ k) ≤ n then r + 2 ^ k else r)

/-- The integer square root of n. -/
def isqrt (n : Nat) : Nat := isqrtGo (Nat.log2 n / 2 + 1) n 0

/-- The square root of a positive magnitude, with 64 bits or more below its leading bit. -/
def Mag.sqrt (m : Nat) (e : Int) : Mag :=
  let s : Nat := if e % 2 = 0 then 160 else 161
  let n := m * 2 ^ s
  let r := isqrt n
  ⟨r, (e - s) / 2, r * r != n⟩

/-- The square root (R203). -/
def FFmt.sqrt (f : FFmt) (rm : RMode) (ftz : Bool) (a : FV) : Nat × FlagBits :=
  match a with
  | .nan s => f.nanOf s
  | .inf false => (f.inf false, 0#5)
  | .inf true => (f.dnan, flagNV)
  | .fin n m e =>
    if m = 0 then (f.signed n 0, 0#5)
    else if n then (f.dnan, flagNV)
    else f.round rm ftz false (Mag.sqrt m e)

/-- An integral value under the mode; NX if the value changed (R203). -/
def FFmt.rint (f : FFmt) (rm : RMode) (ftz : Bool) (a : FV) : Nat × FlagBits :=
  match a with
  | .nan s => f.nanOf s
  | .inf n => (f.inf n, 0#5)
  | .fin n m e =>
    if m = 0 then (f.signed n 0, 0#5)
    else
      let r := (Mag.mk m e false).roundTo rm n 0
      let g := f.round rm ftz n ⟨r.1, 0, false⟩
      (g.1, flagIf r.2 flagNX)

/-- The order of two values that are not NaN; −0 = +0. -/
def FV.lt (a b : FV) : Bool :=
  match a, b with
  | .nan _, _ => false
  | _, .nan _ => false
  | .inf m, .inf n => m && !n
  | .inf m, .fin .. => m
  | .fin .., .inf n => !n
  | .fin .., .fin .. => let q := min a.exp b.exp; decide (a.units q < b.units q)

@[inherit_doc FV.lt]
def FV.eqv (a b : FV) : Bool :=
  match a, b with
  | .nan _, _ => false
  | _, .nan _ => false
  | .inf m, .inf n => m == n
  | .inf _, .fin .. => false
  | .fin .., .inf _ => false
  | .fin .., .fin .. => let q := min a.exp b.exp; a.units q == b.units q

/-- Whether a counts as less than b for VMIN and VMAX, where −0 is less than +0 (R201). -/
def FV.ltTotal (a b : FV) : Bool := a.lt b || (a.isZero && b.isZero && a.neg && !b.neg)

/-- The code of a value of the same format, a NaN's the default one. -/
def FFmt.code (f : FFmt) : FV → Nat
  | .nan _ => f.dnan
  | .inf n => f.inf n
  | .fin n m e => (f.round .rne false n ⟨m, e, false⟩).1

/-- VMIN and VMAX (R201). -/
def FFmt.minmax (f : FFmt) (wantMax : Bool) (a b : FV) : Nat × FlagBits :=
  if a.isNan || b.isNan then f.nanOf (a.isSig || b.isSig)
  else (f.code (if (a.ltTotal b) != wantMax then a else b), 0#5)

/-- The class bits of VCLASS (R203). -/
def FFmt.classOf (f : FFmt) (a : FV) : Nat :=
  match a with
  | .inf true => 1
  | .inf false => 128
  | .nan true => 256
  | .nan false => 512
  | .fin n m _ =>
    if m = 0 then (if n then 8 else 16)
    else if m < 2 ^ f.mw then (if n then 4 else 32)
    else (if n then 2 else 64)

/-- A floating-point value converted into a format (R174, R175, R177): rnd is the draw when the conversion is stochastic. -/
def FFmt.conv (g : FFmt) (rm : RMode) (rnd : Option Nat) (ftz sat : Bool) (v : FV) : Nat × FlagBits :=
  match v with
  | .nan s =>
    if g.wide || g.dnan != 0 then g.nanOf s else (0, flagNV)
  | .inf n =>
    if g.ieee then (g.inf n, 0#5)
    else if g.dnan = 0 then (g.signed n g.top, flagOF ||| flagNX)
    else if sat then (g.signed n g.top, flagOF ||| flagNX)
    else (g.dnan, flagNV)
  | .fin n m e =>
    if m = 0 then (g.signed n 0, 0#5)
    else
      match rnd with
      | some r => g.stochRound r ftz sat n ⟨m, e, false⟩
      | none => g.convRound rm ftz sat n ⟨m, e, false⟩

/-- An integer type of R113 by its lane width in bits and signedness, with the bounds of its values. -/
def intMin (signed : Bool) (w : Nat) : Int := if signed then -(2 ^ (w - 1) : Int) else 0
@[inherit_doc intMin]
def intMax (signed : Bool) (w : Nat) : Int := if signed then 2 ^ (w - 1) - 1 else 2 ^ w - 1

/-- The value of a lane pattern. -/
def intVal (signed : Bool) (w : Nat) (n : Nat) : Int :=
  if signed && decide (2 ^ (w - 1) ≤ n % 2 ^ w) then (n % 2 ^ w : Nat) - (2 ^ w : Int) else (n % 2 ^ w : Nat)

/-- The pattern of an integer, wrapped at the lane width. -/
def intPat (w : Nat) (v : Int) : Nat := (v % (2 ^ w : Int)).toNat

/-- An integer saturated to a type (R178). -/
def satTo (signed : Bool) (w : Nat) (v : Int) : Int := max (intMin signed w) (min (intMax signed w) v)

/-- A floating-point value converted to an integer (R178). -/
def convToInt (signed : Bool) (w : Nat) (rm : RMode) (v : FV) : Nat × FlagBits :=
  match v with
  | .nan _ => (0, flagNV)
  | .inf n => (intPat w (if n then intMin signed w else intMax signed w), flagNV)
  | .fin n m e =>
    let r := (Mag.mk m e false).roundTo rm n 0
    let i : Int := if n then -(r.1 : Int) else r.1
    if satTo signed w i = i then (intPat w i, flagIf r.2 flagNX) else (intPat w (satTo signed w i), flagNV)

/-- The value of an E8M0 scale as a power of two (R170): none for the NaN code. -/
def e8m0Exp (s : Nat) : Option Int := if s % 256 = 0xFF then none else some ((s % 256 : Nat) - 127)

/-- floor(v / 2^k) of a real in units of 2^-P, P being the fraction width of the fixed-point values below. -/
def fxP : Nat := 700

/-- One in fixed point. -/
def fxOne : Nat := 2 ^ fxP

/-- The product and quotient of two fixed-point values, truncated. -/
def fxMul (a b : Nat) : Nat := a * b / fxOne
@[inherit_doc fxMul]
def fxDiv (a b : Nat) : Nat := a * fxOne / b

/-- The Taylor sum of e^x for 0 ≤ x < 1: the term, the next divisor and the sum. -/
def fxExpGo : Nat → Nat → Nat → Nat → Nat → Nat
  | 0, _, _, _, acc => acc
  | k + 1, x, n, t, acc => let t' := fxMul t x / n; fxExpGo k x (n + 1) t' (acc + t')

/-- e^x for 0 ≤ x < 1 in fixed point. -/
def fxExp (x : Nat) : Nat := fxExpGo 140 x 1 fxOne fxOne

/-- The sum of z^(2n+1)/(2n+1), alternating or not: the odd power, the square and the sum. -/
def fxAtanhGo : Nat → Nat → Nat → Nat → Nat → Nat
  | 0, _, _, _, acc => acc
  | k + 1, z2, n, t, acc => fxAtanhGo k z2 (n + 2) (fxMul t z2) (acc + t / n)

/-- The natural logarithm of 2, from 2 × artanh(1/3). -/
def fxLn2 : Nat := 2 * fxAtanhGo 240 (fxOne / 9) 1 (fxOne / 3) 0

/-- The natural logarithm of y for 1 ≤ y < 2, from 2 × artanh((y − 1)/(y + 1)). -/
def fxLn (y : Nat) : Nat :=
  let z := fxDiv (y - fxOne) (y + fxOne)
  2 * fxAtanhGo 240 (fxMul z z) 1 z 0

/-- The arctangent of 1/k, by its alternating series. -/
def fxAtanInvGo : Nat → Nat → Nat → Nat → Int → Int → Int
  | 0, _, _, _, _, acc => acc
  | j + 1, k2, n, t, sg, acc => fxAtanInvGo j k2 (n + 2) (t / k2) (-sg) (acc + sg * (t / n : Nat))

@[inherit_doc fxAtanInvGo]
def fxAtanInv (k : Nat) : Int := fxAtanInvGo 180 (k * k) 1 (fxOne / k) 1 0

/-- π in fixed point, by Machin's formula. -/
def fxPi : Nat := (4 * (4 * fxAtanInv 5 - fxAtanInv 239)).toNat

/-- The alternating Taylor sum of sine (first term x, n = 1) or cosine (first term 1, n = 0). -/
def fxTrigGo : Nat → Nat → Nat → Nat → Int → Int → Int
  | 0, _, _, _, _, acc => acc
  | k + 1, x2, n, t, sg, acc => fxTrigGo k x2 (n + 2) (fxMul t x2 / ((n + 1) * (n + 2))) (-sg) (acc + sg * (t : Nat))

/-- A fixed-point value as a magnitude, known not to be exact. -/
def fxMag (n : Nat) : Mag := ⟨n, -(fxP : Int), true⟩

/-- The value m × 2^e in fixed point, truncated. -/
def fxOf (m : Nat) (e : Int) : Nat :=
  let s := e + fxP
  if 0 ≤ s then m * 2 ^ s.toNat else m / 2 ^ (-s).toNat

/-- 2^x for a finite x: exact at integers, else a 700-bit approximation from below (R222). An x outside [−1200, 1200] has the
rounding of that end. -/
def exp2Mag (neg : Bool) (m : Nat) (e : Int) : Mag :=
  let x := Mag.mk m e false
  let c := x.cut 0
  let big := decide (e + (Nat.log2 m : Int) > 10)
  if big then (if neg then ⟨1, -1300, true⟩ else ⟨1, 1300, true⟩)
  else if !c.2.2 then ⟨1, if neg then -(c.1 : Int) else c.1, false⟩
  else
    let fr := fxOf m e % fxOne
    let ip : Int := if neg then -(c.1 : Int) - 1 else c.1
    let f := if neg then fxOne - fr else fr
    ⟨fxExp (fxMul f fxLn2), ip - fxP, true⟩

/-- e^x for x ≤ 0 given as a fixed-point magnitude x below 2^11, as a fixed-point value. -/
def fxExpNeg (x : Nat) : Nat :=
  let k := x / fxLn2
  let r := x % fxLn2
  fxDiv fxOne (fxExp r) / 2 ^ k

/-- log2 of a positive finite value: its sign and magnitude; exact at powers of two. -/
def log2Mag (m : Nat) (e : Int) : Bool × Mag :=
  let l := Nat.log2 m
  let ip : Int := (l : Int) + e
  if m = 2 ^ l then (decide (ip < 0), ⟨ip.natAbs, 0, false⟩)
  else
    let y := m * 2 ^ (fxP - l)
    let fr := fxDiv (fxLn y) fxLn2
    let v : Int := ip * fxOne + fr
    if 0 ≤ v then (false, fxMag v.toNat) else (true, fxMag ((-v).toNat - 1))

/-- sin x or cos x of a non-zero finite x ≥ 0: the sign and magnitude, the argument reduced by multiples of π/2 in fixed point. -/
def trigMag (cosine : Bool) (m : Nat) (e : Int) : Bool × Mag :=
  let x := fxOf m e
  let h := fxPi / 2
  let k := x / h
  let r := x % h
  let s := (fxTrigGo 160 (fxMul r r) 1 r 1 0).toNat
  let c := (fxTrigGo 160 (fxMul r r) 0 fxOne 1 0).toNat
  let j := (k + (if cosine then 1 else 0)) % 4
  (decide (2 ≤ j), fxMag ((if j % 2 = 0 then s else c) - 1))

/-- tanh x for x > 0. -/
def tanhMag (m : Nat) (e : Int) : Mag :=
  if e + (Nat.log2 m : Int) > 8 then ⟨2 ^ 512 - 1, -512, true⟩
  else if e + (Nat.log2 m : Int) < -60 then
    -- x − x³/3 < tanh x < x, and x³/3 lies far below the last place of x
    ⟨m * 2 ^ 100 - 1, e - 100, true⟩
  else
    let t := fxExpNeg (2 * fxOf m e)
    fxMag (fxDiv (fxOne - t) (fxOne + t))

/-- 1/(1 + e^−x) for a non-zero finite x. -/
def sigMag (neg : Bool) (m : Nat) (e : Int) : Mag :=
  if e + (Nat.log2 m : Int) > 8 then (if neg then ⟨1, -700, true⟩ else ⟨2 ^ 512 - 1, -512, true⟩)
  else
    let t := fxExpNeg (fxOf m e)
    if neg then fxMag (fxDiv t (fxOne + t)) else fxMag (fxDiv fxOne (fxOne + t))

/-- The eight functions of the special-function unit (R221), and the identity of an ordinary push. -/
inductive SfuFn where
  | exp2 | log2 | rcp | rsq | sin | cos | tanh | sig | ident
  deriving DecidableEq, Repr

/-- The result of a function in a format, rounded to nearest-even, with its flags (R222). -/
def FFmt.sfu (f : FFmt) (fn : SfuFn) (ftz : Bool) (v : FV) : Nat × FlagBits :=
  match v with
  | .nan s => f.nanOf s
  | .inf n =>
    match fn with
    | .exp2 => (if n then 0 else f.inf false, 0#5)
    | .log2 => if n then (f.dnan, flagNV) else (f.inf false, 0#5)
    | .rcp => (f.signed n 0, 0#5)
    | .rsq => if n then (f.dnan, flagNV) else (0, 0#5)
    | .sin => (f.dnan, flagNV)
    | .cos => (f.dnan, flagNV)
    | .tanh => f.round .rne false n ⟨1, 0, false⟩
    | .sig => if n then (0, 0#5) else f.round .rne false false ⟨1, 0, false⟩
    | .ident => (f.inf n, 0#5)
  | .fin n m e =>
    if m = 0 then
      match fn with
      | .exp2 => f.round .rne false false ⟨1, 0, false⟩
      | .log2 => (f.inf true, flagDZ)
      | .rcp => (f.inf n, flagDZ)
      | .rsq => (f.inf n, flagDZ)
      | .sin => (f.signed n 0, 0#5)
      | .cos => f.round .rne false false ⟨1, 0, false⟩
      | .tanh => (f.signed n 0, 0#5)
      | .sig => f.round .rne false false ⟨1, -1, false⟩
      | .ident => (f.signed n 0, 0#5)
    else
      match fn with
      | .exp2 => f.round .rne ftz false (exp2Mag n m e)
      | .log2 =>
        if n then (f.dnan, flagNV)
        else let r := log2Mag m e; if r.2.m = 0 && !r.2.rest then (0, 0#5) else f.round .rne ftz r.1 r.2
      | .rcp => f.round .rne ftz n (Mag.div 1 0 m e)
      | .rsq =>
        if n then (f.dnan, flagNV)
        else
          let r := Mag.div (2 ^ 200) (-200) m e
          let q := Mag.sqrt r.m r.e
          f.round .rne ftz false ⟨q.m, q.e, q.rest || r.rest⟩
      | .sin => let r := trigMag false m e; f.round .rne ftz (n != r.1) r.2
      | .cos => let r := trigMag true m e; f.round .rne ftz r.1 r.2
      | .tanh => f.round .rne ftz n (tanhMag m e)
      | .sig => f.round .rne ftz false (sigMag n m e)
      | .ident => (f.code (.fin n m e), 0#5)

end Sys2Proof.Machine
end

