-- ==== Sys2Proof/Machine/Tab.lean ====
section
/-! DEFINITION. Sorted tables of numbered components, and byte memory in canonical form: addresses strictly rising, and no entry
equal to what an unlisted address reads as. -/

namespace Sys2Proof.Machine

/-- A table of components by number, sorted by number. -/
abbrev Tab (α : Type) := List (Nat × α)

/-- The component of a number, if the table lists it. -/
def Tab.find {α : Type} : Tab α → Nat → Option α
  | [], _ => none
  | (k, v) :: t, n => if k = n then some v else Tab.find t n

/-- The component of a number, d where the table lists none. -/
def Tab.get {α : Type} (t : Tab α) (d : α) (n : Nat) : α := (Tab.find t n).getD d

/-- The table with the component of a number replaced. -/
def Tab.set {α : Type} : Tab α → Nat → α → Tab α
  | [], n, a => [(n, a)]
  | (k, v) :: t, n, a =>
    if n < k then (n, a) :: (k, v) :: t
    else if n = k then (n, a) :: t
    else (k, v) :: Tab.set t n a

/-- The table without a number. -/
def Tab.del {α : Type} (t : Tab α) (n : Nat) : Tab α := t.filter fun p => p.1 != n

/-- The table with every component rewritten. -/
def Tab.map {α β : Type} (t : Tab α) (f : Nat → α → β) : Tab β := List.map (fun p => (p.1, f p.1 p.2)) t

/-- The numbers of the components that meet a condition. -/
def Tab.select {α : Type} (t : Tab α) (p : Nat → α → Bool) : List Nat := (t.filter fun x => p x.1 x.2).map (·.1)

/-- The first entry that meets a condition. -/
def Tab.first {α : Type} (t : Tab α) (p : Nat → α → Bool) : Option (Nat × α) := t.find? fun x => p x.1 x.2

/-- A byte memory: the listed bytes by rising address. -/
abbrev Memory := List Host.Cell

/-- What an address that the memory does not list reads as: a tile of version 0, a scratchpad byte of a fresh reservation and
a stack byte read as zero (R77, R254). -/
def Memory.absent : Byte := 0#8

/-- The byte at an address. -/
def Memory.byte : Memory → Nat → Byte
  | [], _ => Memory.absent
  | (k, v) :: t, a => if k = a then v else if a < k then Memory.absent else Memory.byte t a

/-- The memory with the byte at an address replaced; writing the absent value removes the entry. -/
def Memory.put : Memory → Nat → Byte → Memory
  | [], a, v => if v = Memory.absent then [] else [(a, v)]
  | (k, x) :: t, a, v =>
    if a < k then (if v = Memory.absent then (k, x) :: t else (a, v) :: (k, x) :: t)
    else if a = k then (if v = Memory.absent then t else (a, v) :: t)
    else (k, x) :: Memory.put t a v

/-- Every entry lies above lo and none holds the absent value. -/
def Memory.wfFrom : Nat → Memory → Bool
  | _, [] => true
  | lo, (k, v) :: t => decide (lo ≤ k) && v != Memory.absent && Memory.wfFrom (k + 1) t

/-- The canonical form: addresses strictly rising, no entry equal to the absent value. -/
def Memory.wf (m : Memory) : Bool := Memory.wfFrom 0 m

/-- n bytes from an address up. -/
def Memory.bytes (m : Memory) (a : Nat) : Nat → List Byte
  | 0 => []
  | n + 1 => m.byte a :: Memory.bytes m (a + 1) n

/-- The memory with bytes written from an address up. -/
def Memory.store (m : Memory) (a : Nat) : List Byte → Memory
  | [] => m
  | b :: bs => Memory.store (m.put a b) (a + 1) bs

/-- The memory with n bytes from an address cleared. -/
def Memory.clear (m : Memory) (a n : Nat) : Memory := m.filter fun c => !(decide (a ≤ c.1) && decide (c.1 < a + n))

/-- The little-endian number of a list of bytes (R4). -/
def leNat : List Byte → Nat
  | [] => 0
  | b :: bs => b.toNat + 256 * leNat bs

/-- n bytes of a number, little-endian (R4). -/
def leBytes : Nat → Nat → List Byte
  | 0, _ => []
  | n + 1, v => BitVec.ofNat 8 v :: leBytes n (v / 256)

/-- The little-endian number of n bytes at an address. -/
def Memory.num (m : Memory) (a n : Nat) : Nat := leNat (m.bytes a n)

/-- The byte at offset o of a list of bytes, 0 beyond it. -/
def byteAt (l : List Byte) (o : Nat) : Nat := (l.getD o 0#8).toNat

/-- The little-endian field of n bytes at offset o of a list of bytes. -/
def fieldAt (l : List Byte) (o n : Nat) : Nat := leNat ((l.drop o).take n)

/-- Bits [hi:lo] of a word. -/
def wbits (w : Word) (hi lo : Nat) : Nat := w.toNat / 2 ^ lo % 2 ^ (hi + 1 - lo)

/-- Bit i of a word. -/
def wbit (w : Word) (i : Nat) : Bool := w.getLsbD i

/-- A word of one when the condition holds, else zero. -/
def boolWord (b : Bool) : Word := if b then 1#64 else 0#64

/-- The first element that meets a condition and its place. -/
def findPos {α : Type} (p : α → Bool) : List α → Option Nat
  | [] => none
  | a :: t => if p a then some 0 else (findPos p t).map (· + 1)

/-- The list without the element at a place. -/
def dropAt {α : Type} : List α → Nat → List α
  | [], _ => []
  | _ :: t, 0 => t
  | a :: t, n + 1 => a :: dropAt t n

/-- The list with the element at a place replaced. -/
def putAt {α : Type} : List α → Nat → α → List α
  | [], _, _ => []
  | _ :: t, 0, b => b :: t
  | a :: t, n + 1, b => a :: putAt t n b

end Sys2Proof.Machine
end

