-- ==== Sys2Proof/Machine/Lanes.lean ====
section
/-! DEFINITION. Rows, masks and lanes (R113, R122, R123, R196, R197), and what each vector operation computes lane by lane
(R200 to R218). A lane result is none where the lane is inactive or keeps its value, else its pattern and flags. -/

namespace Sys2Proof.Machine

/-- An accumulator row of 256 bytes, byte i in bits [8i + 7 : 8i] (R122). -/
abbrev Row := BitVec 2048

/-- A mask register (R123). -/
abbrev Mask := BitVec 256

/-- The lane width in bits of a type code (R113). -/
def laneBits (t : Nat) : Nat :=
  match t with
  | 1 => 32
  | 4 => 32
  | 5 => 32
  | 2 => 16
  | 3 => 16
  | 6 => 16
  | 7 => 16
  | _ => 8

/-- The lanes of a row of the type (R113). -/
def laneCount (t : Nat) : Nat := 2048 / laneBits t

/-- The type classes of R196. -/
def isFP (t : Nat) : Bool := 1 ≤ t && t ≤ 3
@[inherit_doc isFP] def isInt (t : Nat) : Bool := 4 ≤ t && t ≤ 9
@[inherit_doc isFP] def isAny (t : Nat) : Bool := 1 ≤ t && t ≤ 0x11
@[inherit_doc isFP] def isFPInt (t : Nat) : Bool := 1 ≤ t && t ≤ 9

/-- Whether an integer type is signed. -/
def isSigned (t : Nat) : Bool := t == 4 || t == 6 || t == 8

/-- The narrow floating-point types a conversion takes beside FP and INT (R209). -/
def isNarrowFP (t : Nat) : Bool := 0xA ≤ t && t ≤ 0xE

/-- The floating-point format of a type code. -/
def fmtOf (t : Nat) : FFmt :=
  match t with
  | 2 => .bf16
  | 3 => .f16
  | 0xA => .e4m3
  | 0xB => .e5m2
  | 0xC => .e3m2
  | 0xD => .e2m3
  | 0xE => .e2m1
  | _ => .f32

/-- The bits of a floating-point format's codes, which decide whether a conversion is narrowing (R175). -/
def fmtBits (t : Nat) : Nat := (fmtOf t).ew + (fmtOf t).mw + 1

/-- Lane i of a row of w-bit lanes. -/
def laneAt (w : Nat) (r : Row) (i : Nat) : Nat := r.toNat / 2 ^ (w * i) % 2 ^ w

/-- The bits that a code of the type occupies in its lane: 6 or 4 for the narrow codes, all of the lane for the others (R113). -/
def codeBits (t : Nat) : Nat :=
  match t with
  | 0xC => 6
  | 0xD => 6
  | 0xE => 4
  | 0x10 => 4
  | 0x11 => 4
  | n => laneBits n

/-- Lane i of a row as an instruction of the type reads it: the unused high bits of a narrow code read as zero (R113). Mark: DEDUCED
(log entry 87). -/
def codeAt (t : Nat) (r : Row) (i : Nat) : Nat := laneAt (laneBits t) r i % 2 ^ codeBits t

/-- The results of the lanes of an operation by lane number. -/
abbrev LaneOut := List (Option (Nat × FlagBits))

/-- Whether lane i is active under a governing mask, none for unmasked (R197). -/
def activeLane (k : Option Mask) (i : Nat) : Bool :=
  match k with
  | none => true
  | some m => m.getLsbD i

/-- The results of L lanes, each active one by f. -/
def lanesOf (L : Nat) (k : Option Mask) (f : Nat → Nat × FlagBits) : LaneOut :=
  (List.range L).map fun i => if activeLane k i then some (f i) else none

/-- A result without flags. -/
def plain (n : Nat) : Nat × FlagBits := (n, 0#5)

/-- The pattern of a list of w-bit lanes from lane 0. -/
def packLanes (w : Nat) : List Nat → Nat
  | [] => 0
  | v :: t => v % 2 ^ w + 2 ^ w * packLanes w t

/-- A row with the lanes that have a result replaced (R197). -/
def putLanes (w : Nat) (old : Row) (out : LaneOut) : Row :=
  BitVec.ofNat 2048 (packLanes w ((List.range (2048 / w)).zip (out ++ List.replicate (2048 / w - out.length) none) |>.map
    fun p => match p.2 with
      | some v => v.1
      | none => laneAt w old p.1))

/-- The lanes that raised flags, with them. -/
def flagLanes (out : LaneOut) : List (Nat × FlagBits) :=
  (((List.range out.length).zip out).filterMap fun p => p.2.map fun v => (p.1, v.2)).filter fun p => p.2 != 0#5

/-- A mask with the bits listed for each active lane, zero elsewhere (R204). -/
def maskOf (out : LaneOut) : Mask :=
  BitVec.ofNat 256 (packLanes 1 (out.map fun p => match p with
    | some v => v.1
    | none => 0))

/-- How FPCTL governs the arithmetic of an instruction (R127, R174, R179). -/
structure FpEnv where
  rm : RMode
  sr : Bool
  ftz : Bool
  deriving DecidableEq, Repr

/-- The two-operand vector operations (R200, R214). -/
inductive VOp2 where
  | add | sub | mul | div | min | max | absd | csgn | and | or | xor | andn | shl | shr | sra | mulh | scale
  deriving DecidableEq, Repr

/-- The classes each two-operand vector operation accepts (R200). -/
def VOp2.accepts (o : VOp2) (t : Nat) : Bool :=
  match o with
  | .add => isFPInt t
  | .sub => isFPInt t
  | .mul => isFPInt t
  | .div => isFPInt t
  | .min => isFPInt t
  | .max => isFPInt t
  | .absd => isFPInt t
  | .csgn => isFP t
  | .and => isAny t
  | .or => isAny t
  | .xor => isAny t
  | .andn => isAny t
  | .shl => isInt t
  | .shr => isInt t
  | .sra => isInt t
  | .mulh => isInt t
  | .scale => isFP t

/-- A floating-point magnitude of a − b rounded once (R200). -/
def FFmt.absd (f : FFmt) (rm : RMode) (ftz : Bool) (a b : FV) : Nat × FlagBits :=
  match a, b with
  | .fin .., .fin .. =>
    let q := min a.exp b.exp
    f.roundInt rm ftz false ((a.units q - b.units q).natAbs : Nat) q
  | _, _ =>
    let r := f.add rm ftz a b.flip
    (if (f.decode r.1).isNan then r.1 else r.1 % f.signBit, r.2)

/-- One floating-point lane of a two-operand operation. -/
def VOp2.fp (o : VOp2) (e : FpEnv) (t x y : Nat) : Nat × FlagBits :=
  let f := fmtOf t
  let a := f.read e.ftz x
  let b := f.read e.ftz y
  match o with
  | .add => f.add e.rm e.ftz a b
  | .sub => f.add e.rm e.ftz a b.flip
  | .mul => f.mul e.rm e.ftz a b
  | .div => f.div e.rm e.ftz a b
  | .min => f.minmax false a b
  | .max => f.minmax true a b
  | .absd => f.absd e.rm e.ftz a b
  | .csgn =>
    if a.isNan || b.isNan then f.nanOf (a.isSig || b.isSig)
    else plain (f.signed b.neg (f.code a % f.signBit))
  | .and => plain (Nat.land x y)
  | .or => plain (Nat.lor x y)
  | .xor => plain (Nat.xor x y)
  | .andn => plain (Nat.land x (2 ^ laneBits t - 1 - y))
  | .shl => plain x
  | .shr => plain x
  | .sra => plain x
  | .mulh => plain x
  | .scale =>
    match a with
    | .nan s => f.nanOf s
    | .inf n => plain (f.inf n)
    | .fin n m ex =>
      if m = 0 then plain (f.signed n 0)
      else f.round e.rm e.ftz n ⟨m, ex + intVal true (laneBits t) y, false⟩

/-- One integer lane, or one lane of a bitwise operation (R200, R201). -/
def VOp2.int (o : VOp2) (t x y : Nat) : Nat :=
  let w := laneBits t
  let s := isSigned t
  let a := intVal s w x
  let b := intVal s w y
  match o with
  | .add => intPat w (a + b)
  | .sub => intPat w (a - b)
  | .mul => intPat w (a * b)
  | .div => if b = 0 then 2 ^ w - 1 else intPat w (a.tdiv b)
  | .min => if a ≤ b then x else y
  | .max => if a ≤ b then y else x
  | .absd => intPat w ((a - b).natAbs : Nat)
  | .csgn => x
  | .and => Nat.land x y
  | .or => Nat.lor x y
  | .xor => Nat.xor x y
  | .andn => Nat.land x (2 ^ w - 1 - y)
  | .shl => x * 2 ^ (y % w) % 2 ^ w
  | .shr => x / 2 ^ (y % w)
  | .sra => intPat w (intVal true w x / (2 ^ (y % w) : Int))
  | .mulh => intPat w (a * b / (2 ^ w : Int))
  | .scale => x

/-- One lane of a two-operand operation. -/
def VOp2.lane (o : VOp2) (e : FpEnv) (t x y : Nat) : Nat × FlagBits :=
  if isFP t then o.fp e t x y else plain (o.int t x y)

/-- The four fused forms (R202): whether the product and the addend are negated. -/
def fusedLane (e : FpEnv) (t : Nat) (negp negc : Bool) (x y z : Nat) : Nat × FlagBits :=
  if isFP t then
    let f := fmtOf t
    let a := f.read e.ftz x
    let c := f.read e.ftz z
    f.fma e.rm e.ftz (if negp then a.flip else a) (f.read e.ftz y) (if negc then c.flip else c)
  else
    let w := laneBits t
    let p : Int := (x * y : Nat)
    plain (intPat w ((if negp then -p else p) + (if negc then -(z : Int) else z)))

/-- The unary vector operations (R203). -/
inductive VOp1 where
  | mov | neg | abs | not | rint | class_ | sqrt
  deriving DecidableEq, Repr

def VOp1.accepts (o : VOp1) (t : Nat) : Bool :=
  match o with
  | .mov => isAny t
  | .neg => isFPInt t
  | .abs => isFPInt t
  | .not => isAny t
  | .rint => isFP t
  | .class_ => isFP t
  | .sqrt => isFP t

/-- One lane of a unary operation (R203). VNEG and VABS flush a subnormal input where FPCTL.FTZ is set, as R179 has every input flushed, though
R203 says that they change the sign alone. Mark: DESIGN CHOICE (log entry 125). -/
def VOp1.lane (o : VOp1) (e : FpEnv) (t x : Nat) : Nat × FlagBits :=
  let w := laneBits t
  let f := fmtOf t
  let a := f.read e.ftz x
  match o with
  | .mov => plain x
  | .not => plain (2 ^ w - 1 - x)
  | .neg =>
    if isFP t then (match a with
      | .nan s => f.nanOf s
      | v => plain (f.code v.flip))
    else plain (intPat w (-(x : Int)))
  | .abs =>
    if isFP t then (match a with
      | .nan s => f.nanOf s
      | v => plain (f.code v % f.signBit))
    else if isSigned t then plain (intPat w ((intVal true w x).natAbs : Nat))
    else plain x
  | .rint => f.rint e.rm e.ftz a
  | .class_ => plain (f.classOf (f.decode x))
  | .sqrt => f.sqrt e.rm e.ftz a

/-- The compares (R204). -/
inductive VCmp where
  | eq | lt | le | un
  deriving DecidableEq, Repr

/-- One lane of a compare: 1 or 0, and its flags (R204). -/
def VCmp.lane (o : VCmp) (e : FpEnv) (t x y : Nat) : Nat × FlagBits :=
  if isFP t then
    let f := fmtOf t
    let a := f.read e.ftz x
    let b := f.read e.ftz y
    let anyNan := a.isNan || b.isNan
    let anySig := a.isSig || b.isSig
    match o with
    | .eq => ((a.eqv b).toNat, flagIf anySig flagNV)
    | .lt => ((a.lt b).toNat, flagIf anyNan flagNV)
    | .le => ((a.lt b || a.eqv b).toNat, flagIf anyNan flagNV)
    | .un => (anyNan.toNat, flagIf anySig flagNV)
  else
    let a := intVal (isSigned t) (laneBits t) x
    let b := intVal (isSigned t) (laneBits t) y
    match o with
    | .eq => plain (decide (a = b)).toNat
    | .lt => plain (decide (a < b)).toNat
    | .le => plain (decide (a ≤ b)).toNat
    | .un => plain 0

/-- The reductions (R188, R208). -/
inductive VRed where
  | sum | max | min | or
  deriving DecidableEq, Repr

/-- A node of a reduction tree: its value, the flags raised under it by lane, and the lowest active lane it combines. -/
structure RedNode where
  v : Nat
  low : Option Nat
  raised : List (Nat × FlagBits)
  deriving DecidableEq, Repr

/-- One floating-point node in FP32 (R188, R208). Its own flags go to the lowest active lane it combines (R181). -/
def VRed.fpNode (o : VRed) (e : FpEnv) (a b : RedNode) : RedNode :=
  let f := FFmt.f32
  let x := f.read e.ftz a.v
  let y := f.read e.ftz b.v
  let r := match o with
    | .sum => f.add e.rm e.ftz x y
    | .max => f.minmax true x y
    | .min => f.minmax false x y
    | .or => plain 0
  let low := match a.low with
    | some l => some l
    | none => b.low
  let own := match low with
    | some l => if r.2 = 0#5 then [] else [(l, r.2)]
    | none => []
  ⟨r.1, low, a.raised ++ b.raised ++ own⟩

/-- One level of the pairwise tree (R188). -/
def pairUp {α : Type} (f : α → α → α) : List α → List α
  | a :: b :: t => f a b :: pairUp f t
  | l => l

/-- The levels of the tree until one node is left; 8 levels serve 256 lanes. -/
def treeFold {α : Type} (f : α → α → α) : Nat → List α → List α
  | 0, l => l
  | n + 1, l => treeFold f n (pairUp f l)

/-- The FP32 identity of an inactive lane (R188). -/
def VRed.ident (o : VRed) : Nat :=
  match o with
  | .sum => 0x80000000
  | .max => 0xFF800000
  | .min => 0x7F800000
  | .or => 0

/-- A reduction of floating-point lanes: the FP32 result and the flags by lane. A BF16 or FP16 lane is converted to FP32, which
raises NV at its own lane when it is signalling (R169, R188). -/
def VRed.fp (o : VRed) (e : FpEnv) (t : Nat) (k : Option Mask) (r : Row) : Nat × List (Nat × FlagBits) :=
  let leaf := fun i =>
    if activeLane k i then
      let x := laneAt (laneBits t) r i
      if t = 1 then RedNode.mk x (some i) []
      else
        let c := FFmt.f32.conv .rne none false false ((fmtOf t).read e.ftz x)
        RedNode.mk c.1 (some i) (if c.2 = 0#5 then [] else [(i, c.2)])
    else RedNode.mk o.ident none []
  match treeFold (o.fpNode e) 8 ((List.range (laneCount t)).map leaf) with
  | n :: _ => (n.v, n.raised)
  | [] => (o.ident, [])

/-- A reduction of integer lanes as the 64-bit value of x[d] (R188, R208). -/
def VRed.int (o : VRed) (t : Nat) (k : Option Mask) (r : Row) : Word :=
  let w := laneBits t
  let s := isSigned t
  let vs := ((List.range (laneCount t)).filter (activeLane k)).map fun i => intVal s w (laneAt w r i)
  match o with
  | .sum => w64 (intVal s 32 (intPat 32 (vs.foldl (· + ·) 0)))
  | .max => w64 (vs.foldl Max.max (intMin s w))
  | .min => w64 (vs.foldl Min.min (intMax s w))
  | .or => w64 (intVal s w (vs.foldl (fun a v => Nat.lor a (intPat w v)) 0))

/-- cvt of R209 between two types: rnd is the draw of a stochastic conversion, none where the conversion is not one. R178 and R209 name
saturation for narrowing and equal widths; a negative integer to a wider unsigned type becomes 0 too. Mark: DESIGN CHOICE (log entry 120). -/
def cvtLane (e : FpEnv) (rnd : Option Nat) (sat : Bool) (d s x : Nat) : Nat × FlagBits :=
  if d = s then plain x
  else if isInt s then
    let v := intVal (isSigned s) (laneBits s) x
    if isInt d then plain (intPat (laneBits d) (satTo (isSigned d) (laneBits d) v))
    else (fmtOf d).conv e.rm none (e.ftz && isFP d) sat (.fin (decide (v < 0)) v.natAbs 0)
  else
    let v := (fmtOf s).read (e.ftz && !isNarrowFP d) x
    if isInt d then convToInt (isSigned d) (laneBits d) e.rm v
    else (fmtOf d).conv e.rm rnd (e.ftz && isFP d) (sat || !(d == 0xA || d == 0xB)) v

/-- Whether a conversion draws from the generator under FPCTL.SR (R175): the destination's codes have no more bits than the source's.
E2M3 to E5M2, which gains bits and loses fraction bits, draws nothing and rounds under FPCTL.RM. Mark: DESIGN CHOICE (log entry 88). -/
def cvtDraws (e : FpEnv) (d s : Nat) : Bool :=
  e.sr && d != s && !isInt d && !isInt s && decide (fmtBits d ≤ fmtBits s)

/-- Lane results in order with the generator threaded through the active lanes (R175). -/
def drawLanes (draws : Bool) (f : Nat → Option Nat → Nat × FlagBits) : List (Nat × Bool) → Nat → LaneOut × Nat
  | [], seed => ([], seed)
  | (i, act) :: t, seed =>
    if act then
      let seed' := if draws then xsStep seed else seed
      let v := f i (if draws then some seed' else none)
      let rest := drawLanes draws f t seed'
      (some v :: rest.1, rest.2)
    else
      let rest := drawLanes draws f t seed
      (none :: rest.1, rest.2)

/-- VCVT: the lanes of the destination and the generator after it (R209). -/
def vcvtLanes (e : FpEnv) (sat : Bool) (part d s : Nat) (k : Option Mask) (a : Row) (seed : Nat) : LaneOut × Nat :=
  let wd := laneBits d
  let ws := laneBits s
  let la := laneCount s
  let ld := laneCount d
  let src := codeAt s a
  if wd ≤ ws then
    drawLanes (cvtDraws e d s) (fun i rnd => cvtLane e rnd sat d s (src (i - part * la)))
      ((List.range ld).map fun i => (i, decide (part * la ≤ i) && decide (i < (part + 1) * la) && activeLane k i)) seed
  else
    drawLanes (cvtDraws e d s) (fun i rnd => cvtLane e rnd sat d s (src (part * ld + i)))
      ((List.range ld).map fun i => (i, activeLane k i)) seed

/-- The ratio of two lane widths (R209). -/
def laneRatio (d s : Nat) : Nat := max (laneBits d) (laneBits s) / min (laneBits d) (laneBits s)

/-- The destination type of a widening multiply (R210). -/
def widenTo (t : Nat) : Option Nat :=
  match t with
  | 8 => some 6
  | 9 => some 7
  | 6 => some 4
  | 7 => some 5
  | 2 => some 1
  | 3 => some 1
  | _ => none

/-- One lane of a widening multiply (R210). -/
def widenLane (e : FpEnv) (t d x y : Nat) : Nat × FlagBits :=
  if isFP t then FFmt.f32.mul e.rm e.ftz ((fmtOf t).read e.ftz x) ((fmtOf t).read e.ftz y)
  else
    let w := laneBits t
    plain (intPat (laneBits d) (intVal (isSigned t) w x * intVal (isSigned t) w y))

/-- The code width of a packed type (R211). -/
def packWidth (t : Nat) : Option Nat :=
  match t with
  | 0xC => some 6
  | 0xD => some 6
  | 0xE => some 4
  | 0x10 => some 4
  | 0x11 => some 4
  | _ => none

/-- VPACK: the destination row (R211). -/
def vpackRow (c : Nat) (unpack : Bool) (half : Nat) (d a : Row) : Row :=
  let off := 1024 * half
  let width := 256 * c
  if unpack then
    let win := a.toNat / 2 ^ off
    BitVec.ofNat 2048 (packLanes 8 ((List.range 256).map fun i => win / 2 ^ (c * i) % 2 ^ c))
  else
    let s := packLanes c ((List.range 256).map fun i => laneAt 8 a i % 2 ^ c)
    let lo := d.toNat % 2 ^ off
    let hi := d.toNat / 2 ^ (off + width)
    BitVec.ofNat 2048 (lo + 2 ^ off * s + 2 ^ (off + width) * hi)

/-- EMAX of a target of VQUANT, none outside the list (R212). -/
def quantEmax (c : Nat) : Option Int :=
  match c with
  | 0xA => some 8
  | 0xB => some 15
  | 0xC => some 4
  | 0xD => some 2
  | 0xE => some 2
  | 8 => some 0
  | _ => none

/-- A signed magnitude rounded to an integer, stochastically with a draw or under the mode. -/
def roundInteger (rm : RMode) (rnd : Option Nat) (neg : Bool) (x : Mag) : Nat × Bool :=
  match rnd with
  | none => x.roundTo rm neg 0
  | some r =>
    let c := x.cut 0
    if !c.2.2 then (c.1, false)
    else
      let s := (-x.e).toNat
      (c.1 + (if r < x.m % 2 ^ s * 2 ^ 32 / 2 ^ s then 1 else 0), true)

/-- q of R212: the code of one element scaled by 2^sh. -/
def quantElem (rm : RMode) (rnd : Option Nat) (c : Nat) (sh : Int) (v : FV) : Nat × FlagBits :=
  match v with
  | .fin n m e =>
    if m = 0 then plain (if c = 8 then 0 else (fmtOf c).signed n 0)
    else if c = 8 then
      let r := roundInteger rm rnd n ⟨m, e + sh + 6, false⟩
      let i : Int := if n then -(r.1 : Int) else r.1
      let k := satTo true 8 i
      (intPat 8 k, flagIf (r.2 || decide (k ≠ i)) flagNX)
    else
      let r := (fmtOf c).conv rm rnd false true (.fin n m (e + sh))
      (r.1, r.2 &&& ~~~flagOF)
  | _ => plain 0

/-- floor(log2) of the largest active magnitude of a block, none when all are zero (R212). -/
def blockLog : List FV → Option Int
  | [] => none
  | v :: t =>
    let r := blockLog t
    match v with
    | .fin _ m e =>
      if m = 0 then r
      else
        let l := (Nat.log2 m : Int) + e
        match r with
        | none => some l
        | some x => some (max l x)
    | _ => r

/-- One block of VQUANT: its byte lanes, the flags by lane, its scale, and the generator after it (R212). A block with a NaN or an
infinity draws nothing. Mark: DESIGN CHOICE (log entry 125). -/
def quantBlock (e : FpEnv) (s c : Nat) (emax : Int) (k : Option Mask) (a : Row) (j seed : Nat) :
    LaneOut × Nat × Nat :=
  let idx := (List.range 32).map (· + 32 * j)
  let val := fun i => (fmtOf s).read e.ftz (laneAt (laneBits s) a i)
  let act := idx.filter (activeLane k)
  if act.any fun i => (val i).isNan || (val i).isInf then
    (idx.map fun i => some (0, if activeLane k i then flagIf ((val i).isInf || (val i).isSig) flagNV else 0#5), 0xFF, seed)
  else
    let sc : Int := match blockLog (act.map val) with
      | none => 0x7F
      | some l => max 0 (min 254 (l - emax + 127))
    let r := drawLanes e.sr (fun i rnd => quantElem e.rm rnd c (127 - sc) (val i)) (idx.map fun i => (i, activeLane k i)) seed
    (r.1.map fun o => some (o.getD (0, 0#5)), sc.toNat, r.2)

/-- VQUANT over the blocks: byte lanes, scales from block 0, and the generator (R212). -/
def quantBlocks (e : FpEnv) (s c : Nat) (emax : Int) (k : Option Mask) (a : Row) : List Nat → Nat → LaneOut × List Nat × Nat
  | [], seed => ([], [], seed)
  | j :: t, seed =>
    let b := quantBlock e s c emax k a j seed
    let r := quantBlocks e s c emax k a t b.2.2
    (b.1 ++ r.1, b.2.1 :: r.2.1, r.2.2)

/-- The value of a block element of a type (R168, R171, R173); table is the core's 4-bit table. -/
def elemValue (c : Nat) (table : List Int) (code : Nat) : FV :=
  let ofInt : Int → Int → FV := fun v e => .fin (decide (v < 0)) v.natAbs e
  match c with
  | 8 => ofInt (intVal true 8 code) (-6)
  | 0x10 => ofInt (table.getD (code % 16) 0) 0
  | 0x11 => ofInt (2 * intVal true 4 code + 1) (-1)
  | _ => (fmtOf c).decode code

/-- Whether VDEQ takes codes of a type (R213). -/
def deqTakes (c : Nat) : Bool := (quantEmax c).isSome || c == 0x10 || c == 0x11

/-- One lane of VDEQ (R213). -/
def deqLane (e : FpEnv) (d c : Nat) (table : List Int) (code scale : Nat) : Nat × FlagBits :=
  match e8m0Exp scale, elemValue c table code with
  | some x, .fin n m ex => if m = 0 then plain ((fmtOf d).signed n 0) else (fmtOf d).round e.rm e.ftz n ⟨m, ex + x, false⟩
  | some _, .inf n => plain ((fmtOf d).inf n)
  | _, _ => plain (fmtOf d).dnan

/-- Step j of a chain: the operation and its FP32 constant (R217). -/
structure ChainStep where
  op : Nat
  k : Nat
  deriving DecidableEq, Repr

/-- A chain descriptor (R217). -/
structure ChainDesc where
  ityp : Nat
  otyp : Nat
  rm : Nat
  sat : Bool
  steps : List ChainStep
  deriving DecidableEq, Repr

/-- The types a chain takes and gives (R217). -/
def chainType (t : Nat) : Bool := 1 ≤ t && t ≤ 0xB

/-- A chain descriptor from its 40 bytes, none where it is malformed (R217). -/
def ChainDesc.parse (b : List Byte) : Option ChainDesc :=
  let n := byteAt b 2
  let steps := (List.range n).map fun j => ChainStep.mk (byteAt b (8 + 8 * j)) (fieldAt b (12 + 8 * j) 4)
  if chainType (byteAt b 0) && chainType (byteAt b 1) && n ≤ 4 && steps.all fun s => 1 ≤ s.op && s.op ≤ 5 then
    some ⟨byteAt b 0, byteAt b 1, byteAt b 3 % 4, byteAt b 3 / 4 % 2 == 1, steps⟩
  else none

/-- One step of a chain on an FP32 pattern (R218). FPCTL.FTZ flushes neither its operands nor its result: R218 says so of the conversion at the
end alone. Mark: DESIGN CHOICE (log entry 120). -/
def ChainStep.run (s : ChainStep) (rm : RMode) (x : Nat × FlagBits) : Nat × FlagBits :=
  let f := FFmt.f32
  let a := f.decode x.1
  let c := f.decode s.k
  let r := match s.op with
    | 1 => f.mul rm false a c
    | 2 => f.add rm false a c
    | 3 => f.minmax true a c
    | 4 => f.minmax false a c
    | _ => match a with
      | .nan g => f.nanOf g
      | v => plain (f.code v % f.signBit)
  (r.1, r.2 ||| x.2)

/-- A chain on one element (R218). -/
def ChainDesc.elem (c : ChainDesc) (x : Nat) : Nat × FlagBits :=
  let e : FpEnv := ⟨rmOf c.rm, false, false⟩
  let v := c.steps.foldl (fun acc s => s.run e.rm acc) (cvtLane e none false 1 c.ityp x)
  let o := cvtLane e none c.sat c.otyp 1 v.1
  (o.1, o.2 ||| v.2)

/-- A chain on the whole elements of a list of bytes: outputs as bytes, with the flags by element (R218, R220). -/
def ChainDesc.run (c : ChainDesc) (data : List Byte) : List (List Byte × FlagBits) :=
  let w := laneBits c.ityp / 8
  (List.range (data.length / w)).map fun i =>
    let r := c.elem (fieldAt data (w * i) w)
    (leBytes (laneBits c.otyp / 8) r.1, r.2)

end Sys2Proof.Machine
end

