-- ==== Sys2Proof/Machine/PartsCore.lean ====
section
/-! DEFINITION. The state of a hardware context, of its queue ports, and of a core's network interface (R80 to R89, R117 to
R127, R402 to R408). -/

namespace Sys2Proof.Machine

/-- The states of a context (R87, R403). -/
inductive CtxSt where
  | free | running | blocked | parked | exiting | saved
  deriving DecidableEq, Repr

/-- The code of a state in TRAPCTX (R403). -/
def CtxSt.code : CtxSt → Nat
  | .free => 0
  | .running => 1
  | .blocked => 2
  | .parked => 3
  | .exiting => 4
  | .saved => 5

/-- Why a context is BLOCKED, and so when its cause clears (R87). -/
inductive Block where
  /-- A pop port that holds fewer than n words (R120). -/
  | pop (q n : Nat)
  /-- A push port with room for fewer than n words (R120). -/
  | room (q n : Nat)
  /-- A translation walk, by its tag (R245); a posted access waits only until the walk ends or meets a stage-2 fault (R247). -/
  | walk (tag : Nat)
  | walkPosted (tag : Nat)
  /-- A cluster-cache line being filled (R266). -/
  | fill (line : Nat)
  /-- The answer of a request sent beyond the core: an atomic, a signal read, a peer access, SRET, TCMD, TLBI. -/
  | answer
  /-- A side-log entry to free (R249). -/
  | logFull
  /-- The context's own side-log entries of a page (R248). -/
  | logPage (page : Nat)
  /-- The release condition of a fence or release (R341). -/
  | release (scope : Nat)
  /-- Own requests to the lines from lo to hi that are still on their way to a seal engine (R268). -/
  | ownReq (lo hi : Nat)
  /-- A signal, at a physical address, to be evaluated again (R288). -/
  | signal (pa : Nat)
  /-- An event latch bit of the mask, or a deadline (R416). -/
  | event (mask : Word)
  /-- The drain of the engine ports before a save by CKPT, and before a full save (R424, R425). -/
  | drain
  | saving
  /-- Back-pressure toward the destination of an L send (R82). -/
  | backPressure
  /-- An atomic flow toward a device with 64 packets outstanding (R360). -/
  | flow (ddev : Nat)
  /-- A work queue to be made resident (R162). -/
  | residency
  /-- Lines to be written back by INVL or WBCL (R290). -/
  | writeBack (lines : List Nat)
  /-- A receive rod to change state or a timeout (R374). -/
  | rod (rod : Nat)
  /-- A key slot that a running REKEY uses (R415). -/
  | rekey
  /-- A place of the context's core in its endpoint's queue (R372). -/
  | puts
  /-- A cancelled level to settle (R438): its level, partition, job, identifier and instance. -/
  | cancelled (level part job id inst : Nat)
  /-- The read of a posted acquire at a scope to be performed, by the address of the access (R341). -/
  | acquire (scope va : Nat)
  /-- An instance of a graph to start (R387). -/
  | graph (part job handle num : Nat)
  /-- A ring of the context: its fills to end, or the commands that read it (R303). -/
  | ring (n : Nat) (fill : Bool)
  deriving DecidableEq, Repr

/-- A word taken from a port, with the flags that travel with a special-function result, by lane (R121, R182, R223). -/
structure PWord where
  w : Word
  flags : List (Nat × FlagBits) := []
  deriving DecidableEq, Repr

/-- A destination of a send: DEST, TADDR, DPART and DDEV (R34, R150). -/
structure Dest where
  dest : Nat
  taddr : Bool
  dpart : Nat
  ddev : Nat
  deriving DecidableEq, Repr

/-- A send word of q0 (R149, R152). -/
structure SendWord where
  kind : MsgKind
  pri : Bool
  ord : Bool
  flow : Nat
  handler : Nat
  lid : Nat
  lgen : Nat
  len : Nat := 0
  list : Bool := false
  dests : List Dest
  /-- The scope of a release send and the time of its issue, none for a plain one (R158). -/
  rel : Option (Nat × Nat) := none
  deriving DecidableEq, Repr

/-- What q0 holds, in push order (R149). -/
inductive Q0Item where
  | data (w : Word)
  | send (s : SendWord)
  deriving DecidableEq, Repr

/-- A place of q7: a request, or its result when ready (R221, R223). mask selects the lanes of a vector request; row is the row
resolved at the push. -/
structure SfuSlot where
  fn : SfuFn
  vec : Bool := false
  typ : Nat := 1
  ftz : Bool := false
  src : Nat := 0
  mask : Option Mask := none
  dnum : Nat := 0
  drow : Nat := 0
  done : Option PWord := none
  /-- The service order among requests (R223). -/
  seq : Nat := 0
  deriving DecidableEq, Repr

/-- A word of q1 (R159), and the command the unit is serving. -/
structure WqCmd where
  word : Word
  /-- The item word of an ENQ, once pushed. -/
  item : Option Word := none
  /-- The time of the push, which releases at device scope (R163). -/
  since : Nat := 0
  /-- The miss has been reported (R162). -/
  missed : Bool := false
  /-- The DEQW waits in the unit (R161), with its arrival order. -/
  waiting : Option Nat := none
  deriving DecidableEq, Repr

/-- A run pushed to q6: the descriptor's address, and its copy when LSRUN read it (R227). -/
structure LsPush where
  addr : Word
  copy : Option (List Byte) := none
  /-- The issue time of the push, which releases at device scope (R227). -/
  since : Nat := 0
  /-- VBASE at the push (R199, R305). -/
  vbase : Nat := 0
  deriving DecidableEq, Repr

/-- The answer of a request that left the core (R275, R364, R408, R411): a word, bytes, or the fault of a data access. -/
inductive Answer where
  | word (w : Word)
  | bytes (b : List Byte)
  | fault (cause : Nat) (addr : Word)
  deriving DecidableEq, Repr

/-- A request that the instruction at issue has sent, by the address or number it is about, and its answer once it has come. -/
structure Pending where
  id : Nat
  key : Nat
  ans : Option Answer := none
  deriving DecidableEq, Repr

/-- The stage-1 fault or refusal, PAGE or PERM, that a walk found for a posted access of a context (R244, R247). -/
structure WalkAns where
  page : Nat
  cause : Nat
  deriving DecidableEq, Repr

/-- The masked window: instructions issued from MASKW on, MASKW included, and its opening time (R413). -/
structure MaskWin where
  count : Nat
  since : Nat
  deriving DecidableEq, Repr

/-- The identity word's parts captured at dispatch (R20). -/
structure Ident where
  tile : Nat := 0
  score : Nat := 0
  sdev : Nat := 0
  kind : Nat := 0
  pri : Bool := false
  taddr : Bool := false
  deriving DecidableEq, Repr

/-- A hardware context. -/
structure Ctx where
  st : CtxSt := .free
  why : Option Block := none
  pc : Word := 0#64
  rpc : Word := 0#64
  /-- General registers x1 to x23 (R117). -/
  regs : Tab Word := []
  /-- The taint bit of each general register (R117, R135). -/
  taint : BitVec 32 := 0#32
  /-- k0 to k7 (R123). -/
  masks : Tab Mask := []
  /-- The allocation A, and the accumulator rows (R54, R122). -/
  alloc : Nat := 8
  rowBase : Nat := 0
  rows : Nat := 0
  /-- The index of the context within its launch (R77). -/
  index : Nat := 0
  pri : Bool := false
  part : Nat := 0
  job : Nat := 0
  lid : Nat := 0
  lgen : Nat := 0
  phase : Nat := 0
  /-- GRAPH and INGRAPH of LAUNCH (R29). -/
  graph : Option Nat := none
  ident : Ident := {}
  /-- The special registers of R126 that an instruction or a trap can change. -/
  vbase : Nat := 0
  vtype : Nat := 0
  fpctl : BitVec 9 := 0#9
  fpflags : FlagBits := 0#5
  srseed : BitVec 32 := 1#32
  gbound : Word := 0#64
  super : Word := 0#64
  trapcause : Word := 0#64
  trappc : Word := 0#64
  trapaddr : Word := 0#64
  trapctx : Word := 0#64
  pseq : Nat := 0
  /-- TSEL, TDATA and TCMD (R407). -/
  tsel : BitVec 24 := 0#24
  tdata : Word := 0#64
  tcmd : BitVec 17 := 0#17
  /-- DPART, LID and LGEN of the message that a column core's context was dispatched for (R73). -/
  header : Option (Nat × Nat × Nat) := none
  /-- Of an EXITING context, the number under which what its task left behind goes on (R148, R321). -/
  left : Option Nat := none
  /-- H sends counted (R33), and messages sent and not acknowledged (R92). -/
  hsent : Nat := 0
  acks : Nat := 0
  /-- The queue ports (R119). -/
  q0 : List Q0Item := []
  q1 : List WqCmd := []
  q1r : List Word := []
  /-- DEQW commands withdrawn from the unit for a save, pushed again at the restore (R424). -/
  withdrawn : List WqCmd := []
  /-- Matrix command words with VBASE and the time of their push (R158, R199). -/
  q2 : List (Word × Nat × Nat) := []
  q3 : List Word := []
  /-- Copy command words with the time and the scope of their push (R280). -/
  q4 : List (Word × Nat × Nat) := []
  q5 : List Word := []
  /-- Places of q5 claimed by commands whose words have not been pushed (R276). -/
  q5claim : Nat := 0
  q6 : List LsPush := []
  q7 : List SfuSlot := []
  /-- The port latch (R121). -/
  latch : List PWord := []
  /-- The requests of the instruction at issue, and the outcome of its walks. -/
  pend : List Pending := []
  xans : List WalkAns := []
  /-- The masked window of the context, if one is open (R413). -/
  masked : Option MaskWin := none
  /-- The run timer: cycles counted up to `runAt`, the time since which it counts, none while it does not (R418). -/
  runUsed : Nat := 0
  runAt : Option Nat := none
  parkedAt : Nat := 0
  /-- The stamp of the last acquire of die scope or wider (R341), and the issue time of the release being waited for. -/
  acqStamp : Nat := 0
  /-- The stamp of the last LDC of die scope or wider (R339). -/
  ldcStamp : Nat := 0
  relAt : Option Nat := none
  /-- The issue time of a WAITEV or a RODWAIT that waits with a timeout. -/
  waitAt : Option Nat := none
  /-- Store faults found while the context is PARKED, with cause, address and PC, to be told when it goes on (R249, R406). -/
  storefs : List (Nat × Word × Word) := []
  deriving DecidableEq, Repr

/-- A binding of a stream-table entry (R88, R164). -/
inductive StreamSt where
  | free | reserved | bound | active
  deriving DecidableEq, Repr

/-- A stream-table entry (R88, R89). -/
structure StreamEnt where
  st : StreamSt := .free
  overrun : Bool := false
  part : Nat := 0
  lid : Nat := 0
  lgen : Nat := 0
  endh : Nat := 0
  bytes : Nat := 0
  /-- The bytes of streams that have ended and whose end handlers have still to be dispatched (R37, R89). -/
  due : Nat := 0
  gang : Bool := false
  chain : Option ChainDesc := none
  wbase : Nat := 0
  wlen : Nat := 0
  /-- The chain's destination pointer, as an offset from WBASE. -/
  cursor : Nat := 0
  deriving DecidableEq, Repr

/-- NIDROP (R39). -/
structure NiDrop where
  badkind : Nat := 0
  badpart : Nat := 0
  stale : Nat := 0
  badhandler : Nat := 0
  badstream : Nat := 0
  badtile : Nat := 0
  deriving DecidableEq, Repr

/-- A message waiting at an NI, with its acceptance order (R80, R84). isEnd marks a stream's end handler. -/
structure InMsg where
  msg : Msg
  seq : Nat
  /-- The data bytes of the stream, for an end handler (R37). -/
  bytes : Option Nat := none
  deriving DecidableEq, Repr

/-- A launch's reservation on a core (R76, R77, R80): registers, rows, scratchpad, its contexts' places and its ring. -/
structure Resv where
  part : Nat
  lid : Nat
  lgen : Nat
  job : Nat
  /-- The context places, by index within the launch (R78). -/
  spots : List Nat
  regs : Nat
  rowBase : Nat
  rows : Nat
  spBase : Nat
  spBytes : Nat
  stkBytes : Nat
  /-- The overflow ring: its address in the pool, its size in bytes and the messages it holds, oldest first (R80, R82). -/
  ring : Nat
  ringBytes : Nat
  ringQ : List InMsg := []
  /-- Where the next message of the ring is written, and the messages whose bytes have still to be written, by offset (R80). -/
  ringTail : Nat := 0
  unwritten : List (Nat × List Byte) := []
  /-- Back-pressure is asserted (R82). -/
  pressed : Bool := false
  /-- A cancel mark has arrived (R435), with its time. -/
  mark : Option Nat := none
  /-- The reservation is a stub of a saved launch (R423). -/
  stub : Bool := false
  /-- NIs have stopped dispatching the job's messages (R422). -/
  hold : Bool := false
  /-- The reservation has been marked valid: its launch is placed (R76). -/
  valid : Bool := true
  deriving DecidableEq, Repr

/-- What a side-log entry performs (R247). -/
inductive LogOp where
  /-- Bytes by virtual address. -/
  | store (cells : List (Nat × Byte))
  | amo (op : AmoOp) (size : Nat) (sgn : Bool) (arg cmp : Word)
  | ship (arg ctl : Word)
  /-- An add to a signal, or its setting negative. -/
  | sig (neg : Bool) (amount : Nat)
  deriving DecidableEq, Repr

/-- An entry of the side log (R247). -/
structure LogEnt where
  ctx : Nat
  part : Nat
  job : Nat
  lid : Nat
  lgen : Nat
  pc : Word
  va : Nat
  op : LogOp
  /-- The fault is reported for its page, or was not one to report (R249). -/
  told : Bool := false
  /-- When the access retired into the log. -/
  born : Nat := 0
  /-- A retry of the entry is still to be made: no walk was free for it, or an earlier atomic of its context is in the log (R248, R332). -/
  again : Bool := false
  deriving DecidableEq, Repr

/-- A line of the fetch buffer (R96). -/
structure FLine where
  part : Nat
  job : Nat
  va : Nat
  pa : Nat
  data : List Byte
  deriving DecidableEq, Repr

end Sys2Proof.Machine
end

