-- ==== Sys2Proof/Machine/PartsEngine.lean ====
section
/-! DEFINITION. The state of the engines a cluster's cores share: the cluster cache and translation cache, copy engines, loop
sequencers and the matrix unit (R225 to R230, R239 to R245, R266, R280 to R286, R292 to R321). -/

namespace Sys2Proof.Machine

/-- A line of a cluster cache: the bytes present, those dirty, the fill stamp and the time of the oldest dirtying (R340, R341). -/
structure CLine where
  data : BitVec 512 := 0#512
  have_ : BitVec 64 := 0#64
  dirty : BitVec 64 := 0#64
  stamp : Nat := 0
  since : Nat := 0
  part : Nat := 0
  deriving DecidableEq, Repr

/-- The outcome that a translation-cache entry holds: PA page, permissions RD, WR, EX and NC, its page bits (R243). -/
structure TlbEnt where
  part : Nat
  job : Nat
  va : Nat
  bits : Nat
  pa : Nat
  rd : Bool
  wr : Bool
  ex : Bool
  nc : Bool
  deriving DecidableEq, Repr

/-- Who asked for a walk: a context's access, its fetch, its PREF, or an engine or unit of the device by a name of its own. -/
inductive Asker where
  | ctx (core ctx : Nat)
  | fetch (core ctx : Nat)
  | pref (core ctx : Nat)
  | unit (name : Nat)
  deriving DecidableEq, Repr

/-- The state of a walk (R245): running, stalled on MIG until a deadline, waiting for the memory master, or refused with a cause that
a unit has still to take. -/
inductive WalkSt where
  | running
  | stalled (deadline : Nat)
  | waiting
  | refused (cause : Nat)
  deriving DecidableEq, Repr

/-- A request joined to a walk: its address, its access (0 read, 1 write, 2 fetch, 3 read and write), and whether it retires into
the side log at a fault (R247). -/
structure WalkReq where
  asker : Asker
  va : Nat
  acc : Nat
  posted : Bool
  deriving DecidableEq, Repr

/-- A walk in progress (R243, R245): its tag on its die, its page, and its requests, first asked first. -/
structure Walk where
  tag : Nat
  die : Nat
  part : Nat
  job : Nat
  page : Nat
  reqs : List WalkReq
  st : WalkSt := .running
  deriving DecidableEq, Repr

/-- A copy command taken by an engine, whose reads or writes are on their way; its completion follows them (R282 to R286). -/
structure CopyRun where
  id : Nat
  core : Nat
  ctx : Nat
  header : Word
  src : Word
  dst : Word
  part : Nat
  job : Nat
  lid : Nat
  lgen : Nat
  /-- The first failure it met (R286). -/
  status : Nat := 0
  /-- The destination as translated: virtual address, physical address and length of each piece, none in the scratchpad. -/
  dstMap : Option (List (Nat × Nat × Nat)) := none
  /-- Pieces asked of a peer and not yet answered, and the bytes by offset that wait for them, so that whole tiles of the destination
  are written as such (R282). -/
  owed : Nat := 0
  got : Tab (List Byte) := []
  /-- The bytes on their way are a gather list, whose elements have still to be read (R285). -/
  listing : Bool := false
  /-- For a CPYR: the ring's context and number, the slots filled and the slots in all (R284). -/
  ring : Option (Nat × Nat) := none
  filled : Nat := 0
  slots : Nat := 0
  /-- The sequencer run and iteration the command belongs to, none for a context's own (R226). -/
  ls : Option (Nat × Nat) := none
  deriving DecidableEq, Repr

/-- A ring of a context (R299, R300). -/
structure Ring where
  base : Nat
  slotsz : Nat
  nslot : Nat
  gps : Nat
  h : Nat := 0
  t : Nat := 0
  f : Nat := 0
  deriving DecidableEq, Repr

/-- A core's format context (R295). -/
structure FmtCtx where
  atype : Nat := 0x0A
  btype : Nat := 0x0A
  ctype : Nat := 0
  table : List Int := List.replicate 16 0
  deriving DecidableEq, Repr

/-- A command stream of the matrix unit: a context's q2 or a sequencer run of the core (R292). -/
inductive Stream where
  | ctx (c : Nat)
  | run (r : Nat)
  deriving DecidableEq, Repr

/-- A matrix command taken from a stream (R307 to R319): its words, the snapshot of the format context, VBASE at the push, the
next step, the H of its rings when it started, its permutation, its result, the flags raised and its completion once it has one. -/
structure MxCmd where
  stream : Stream
  part : Nat
  lid : Nat
  lgen : Nat
  ctx : Nat
  header : Word
  extra : List Word
  fmt : FmtCtx
  vbase : Nat
  step : Nat := 0
  ha : Nat := 0
  hb : Nat := 0
  perm : List Nat := []
  /-- The result rows so far (R311). -/
  acc : List (List Nat) := []
  flags : Nat := 0
  /-- For an MMAC: the forming place or the started cooperation it belongs to. -/
  coop : Option Nat := none
  done : Option Word := none
  ls : Option (Nat × Nat) := none
  deriving DecidableEq, Repr

/-- A cooperation in a forming place or running (R313 to R316): its key, the PARTS that opened it, its members' cores and streams
in joining order. -/
structure Coop where
  part : Nat
  lid : Nat
  lgen : Nat
  gid : Nat
  parts : Nat
  opened : Nat
  members : List (Nat × Stream) := []
  started : Bool := false
  deriving DecidableEq, Repr

/-- A loop descriptor's template record (R225). -/
structure LsRec where
  t : Nat
  i0 : Nat
  i1 : Nat
  i2 : Nat
  deriving DecidableEq, Repr

/-- A loop descriptor (R225). -/
structure LsDesc where
  n0 : Nat
  n1 : Nat
  n2 : Nat
  cw : Nat
  mw : Nat
  depth : Nat
  mwait : Bool
  tag : Nat
  endsig : Nat
  recs : List LsRec
  deriving DecidableEq, Repr

/-- An active run of a core's loop sequencer (R226): the iterations whose copy or matrix command has been emitted or completed,
and how it ends. -/
structure LsRun where
  ctx : Nat
  part : Nat
  job : Nat
  lid : Nat
  lgen : Nat
  desc : LsDesc
  vbase : Nat
  c : Nat := 0
  m : Nat := 0
  copied : List Nat := []
  multiplied : List Nat := []
  retired : Nat := 0
  /-- Emitted words not yet taken by an engine: the iteration and its words. -/
  copyQ : List (Nat × List Word) := []
  mxQ : List (Nat × List Word) := []
  /-- Completions on their way to the sequencer: the iteration, whether it is the copy's, and whether it succeeded. -/
  ended : List (Nat × Bool × Bool) := []
  stopped : Bool := false
  failed : Bool := false
  deriving DecidableEq, Repr

/-- The sequencer's record for a context: the status LSSTAT reports of its last finished run (R229). -/
structure LsLast where
  status : Nat := 0
  tag : Nat := 0
  retired : Nat := 0
  deriving DecidableEq, Repr

/-- The matrix status of a context: sticky flags, rings and the count of commands taken (R300, R320). -/
structure MxCtx where
  fl : Nat := 0
  rings : Tab Ring := []
  deriving DecidableEq, Repr

/-- A core: its contexts, scratchpad, accumulator rows and network interface, and the parts of its cluster's engines that belong to
it. -/
structure Core where
  ctxs : Tab Ctx := []
  sp : Memory := []
  rows : Tab Row := []
  resvs : List Resv := []
  /-- Inbound entries (R80). -/
  hq : List InMsg := []
  lq : List InMsg := []
  nidrop : NiDrop := {}
  /-- The message held at a full ring (R82), behind which all traffic waits. -/
  held : Option Msg := none
  /-- The launch last refilled from (R81), and the context whose q0 was last taken from (R157). -/
  refillAt : Nat := 0
  niAt : Nat := 0
  /-- The context places the next control and engine slot choice begins at (R94). -/
  ctlAt : Nat := 0
  engAt : Nat := 0
  streams : Tab StreamEnt := []
  log : List LogEnt := []
  /-- The newest acquire of the contexts that have left the core (R335). -/
  acqStamp : Nat := 0
  /-- Contexts whose entries a SIDELOG write has asked to discard (R250). -/
  discards : List Nat := []
  fetch : List FLine := []
  halted : Bool := false
  /-- The handler table that the firmware image installed on a column core (R73). -/
  fwHandlers : List Nat := []
  /-- The event latch of a firmware core, and the time of its last tick (R416). -/
  latch : Word := 0#64
  tickAt : Nat := 0
  fmt : FmtCtx := {}
  mx : Tab MxCtx := []
  runs : Tab LsRun := []
  lsLast : Tab LsLast := []
  /-- The saves that are pending on the core: partition, job and the time the request reached it (R422, R424). -/
  save : List (Nat × Nat × Nat) := []
  deriving DecidableEq, Repr

/-- A cluster: CLPART's writable fields, the caches, the copy engines' commands in progress and the matrix unit. -/
structure Cluster where
  part : Nat := 0
  valid : Bool := false
  err : Bool := false
  cache : Tab CLine := []
  /-- Lines whose fill has been asked for, and those whose fill failed its seal check (R258). -/
  fills : List Nat := []
  badLines : List Nat := []
  tlb : List TlbEnt := []
  copies : List CopyRun := []
  /-- The commands taken by the matrix unit, by core, and its cooperations by place. -/
  mx : List (Nat × MxCmd) := []
  coops : Tab Coop := []
  /-- The core and stream served last (R293), and the core whose special-function request was served last (R223). -/
  mxAt : Nat := 0
  mxStream : Tab Nat := []
  sfuAt : Nat := 0
  deriving DecidableEq, Repr

end Sys2Proof.Machine
end

