-- ==== Sys2Proof/Machine/PartsMem.lean ====
section
/-! DEFINITION. The state of the memory tiers beneath the translation: seal tiles, key slots, the version tree's root counters,
and the requests on their way to the points of coherence (R234 to R238, R253 to R263, R275 to R279). -/

namespace Sys2Proof.Machine

/-- The metadata of a seal tile (R254): version, POISON, REKEYDUE, key slot and the tag of its last write-back. -/
structure Tile where
  version : Nat := 0
  poison : Bool := false
  rekeydue : Bool := false
  slot : Nat := 0
  tag : BitVec 128 := 0#128
  /-- When the tile reached exhaustion (R259). -/
  exhausted : Option Nat := none
  deriving DecidableEq, Repr

/-- A changed tile in a seal engine's buffer (R257): whether its changes have still to be written back, and when it was last
written. A tile being written back holds its place until its path is retagged (R256). -/
structure TBuf where
  dirty : Bool := false
  lastWrite : Nat := 0
  deriving DecidableEq, Repr

/-- A key slot (R261): its partition, whether a key is loaded and the key's bytes, and the count of tiles sealed under it. -/
structure KSlot where
  part : Nat := 0
  loaded : Bool := false
  key : List Byte := []
  tiles : Nat := 0
  deriving DecidableEq, Repr

/-- A tagged node of the version tree (R255): the counter that it was last tagged with, 0 while it has never been tagged, and its tag. -/
structure TNode where
  seq : BitVec 64 := 0#64
  tag : BitVec 128 := 0#128
  deriving DecidableEq, Repr

/-- An increment on its way to a home engine (R256) of a tile's write-back: level 1 the version of a tile of a version block, 2 and 3
the counter that a level-1 and a level-2 node hold, 4 the root counter of a GiB; and the index of the block, of the counter or of the
GiB. -/
structure TreeInc where
  level : Nat
  index : Nat
  tile : Nat
  deriving DecidableEq, Repr

/-- Who made a request to a point of coherence, and so who hears of its end. -/
inductive Origin where
  | ctx (core ctx : Nat)
  | copy (cluster run : Nat)
  /-- A cluster cache that writes a line back (R340). -/
  | cache (cluster : Nat)
  /-- A packet, graph node, flag or other unit that counts the request by its name. -/
  | unit (name : Nat)
  | none_
  deriving DecidableEq, Repr

/-- What a request does at the seal engine of its tile. -/
inductive PocOp where
  /-- Bytes of one tile by physical address. -/
  | write (cells : List (Nat × Byte))
  /-- A whole tile. -/
  | full (data : List Byte)
  | amo (op : AmoOp) (size : Nat) (sgn : Bool) (arg cmp : Word)
  | ship (arg ctl : Word)
  | xadd (typ : Nat) (v : Word)
  | xread (typ : Nat)
  | sigAdd (amount : Nat)
  | sigNeg
  /-- A kick of a queue that is not resident, and a control write, at KMAX and at the flags of QSTATE of its entry (R42, R46). -/
  | kmax (k : Nat)
  | ctrl (cmd : Nat)
  deriving DecidableEq, Repr

/-- A request on its way to a seal engine (R236, R257, R275). takes: the requester takes a result, so a failed check traps SEAL
there (R258). -/
structure PocReq where
  id : Nat
  origin : Origin
  part : Nat
  job : Nat
  pa : Nat
  va : Nat
  op : PocOp
  takes : Bool := false
  /-- When its first byte was stored or it was made (R340). -/
  born : Nat := 0
  deriving DecidableEq, Repr

/-- The end of a signal operation that waited at its tile for a unit: the unit's name, the signal's address, whether it was to be
set negative, and whether the operation was performed (R257, R258). -/
structure SigEnd where
  part : Nat
  job : Nat
  name : Nat
  va : Nat
  neg : Bool
  ok : Bool
  deriving DecidableEq, Repr

/-- HBMREF of one layer (R238). -/
structure Refresh where
  ivl : Nat := 3900
  temp : Nat := 0
  count : Nat := 0
  deriving DecidableEq, Repr

/-- A routine-table entry (R277, R278). -/
structure Routine where
  align : Nat
  image : List Byte
  deriving DecidableEq, Repr

/-- The seal hardware of the device. -/
structure Seal where
  tiles : Tab Tile := []
  buf : Tab TBuf := []
  /-- The counters of the version tree: of version blocks in level-1 nodes, of level-1 nodes in level-2 nodes, and the root counters by
  GiB (R255). -/
  blocks : Tab (BitVec 64) := []
  nodes1 : Tab (BitVec 64) := []
  roots : Tab (BitVec 64) := []
  /-- The VERF words by tile as the version blocks were last tagged over them, and the tagged nodes: version blocks, level-1 and level-2
  nodes (R255). -/
  verfs : Tab Nat := []
  tags0 : Tab TNode := []
  tags1 : Tab TNode := []
  tags2 : Tab TNode := []
  /-- The partition that owns a GiB (R255). -/
  owners : Tab Nat := []
  incs : List TreeInc := []
  /-- The graph nodes, by their names among the units, of which a merge has dropped a write (R258, R385). -/
  dropped : List Nat := []
  /-- Signal operations that have been performed, or dropped, and that their units have still to hear of (R257). -/
  sigEnds : List SigEnd := []
  /-- The GiBs that are lost after a warm reset, and those whose TREELOST has been raised (R263). -/
  lost : List Nat := []
  lostTold : List Nat := []
  kslots : Tab KSlot := []
  /-- SEALCMD.BUSY is the presence of a command: REKEY of a tile to a slot (R260). -/
  cmd : Option (Nat × Nat) := none
  routines : Tab Routine := []
  /-- Ship drops counted in each stack's diagnostic status (R277). -/
  shipDrops : Tab Nat := []
  refresh : Tab Refresh := []
  deriving DecidableEq, Repr

/-- A page that a holder outside the device may use (R251, R252): its invalidation tag, the holder, and the time an invalidation
was sent, none while none is. -/
structure Grant where
  tag : Nat
  part : Nat
  job : Nat
  va : Nat
  pa : Nat
  big : Bool
  /-- The holder's endpoint; none for the host. -/
  holder : Option Nat
  invalidated : Option Nat := none
  deriving DecidableEq, Repr

end Sys2Proof.Machine
end

