-- ==== Sys2Proof/Machine/PartsWork.lean ====
section
/-! DEFINITION. The state of submitted and placed work: queues, packets, jobs, phases, launches, messages in flight and the
termination counters (R12 to R94, R430 to R445). -/

namespace Sys2Proof.Machine

/-- The states of a command queue (R65). -/
inductive QSt where
  | idle | running | blocked | aborted | stopped
  deriving DecidableEq, Repr

def QSt.code : QSt → Nat
  | .idle => 0
  | .running => 1
  | .blocked => 2
  | .aborted => 3
  | .stopped => 4

/-- The state named by a code of QSTATE or STATUS (R40, R47). -/
def QSt.decode (n : Nat) : QSt :=
  match n with
  | 1 => .running
  | 2 => .blocked
  | 3 => .aborted
  | 4 => .stopped
  | _ => .idle

/-- A packet that the front end has read and not started (R44, R51): its index and its bytes. -/
structure ReadPkt where
  idx : Nat
  bytes : List Byte
  deriving DecidableEq, Repr

/-- A queue resident in a front end's SRAM (R41, R42). -/
structure RQueue where
  key : QKey
  die : Nat
  work : Bool
  cls : Nat
  weight : Nat
  log2 : Nat
  base : Nat
  fencerec : Nat
  entry : Nat
  kmax : Nat
  ridx : Nat
  st : QSt := .idle
  reason : Nat := 0
  recorded : Bool := false
  fseq : Nat := 0
  /-- Packets read and waiting to start, oldest first; more than one while a gang is collected (R66). -/
  ready : List ReadPkt := []
  deficit : Nat := 0
  /-- The arbiter has granted the LAUNCH at its head, which waits for its placement (R69, R76). -/
  granted : Bool := false
  /-- The LAUNCH at its head has been found short of a resource, and none has been freed since (R65, R76). -/
  short : Bool := false
  /-- The time of the next slot re-read, while a slot is unpublished (R44). -/
  pollAt : Option Nat := none
  deriving DecidableEq, Repr

/-- What a write to a command queue's registers asks for (R46, R47). -/
inductive NoticeOp where
  | kick (k : Nat)
  | ctrl (cmd : Nat)
  deriving DecidableEq, Repr

/-- A kick or control write of a job's notify page, which waits for the translation of its queue's entry (R42). -/
structure Notice where
  part : Nat
  job : Nat
  jgen : Nat
  handle : Nat
  op : NoticeOp
  deriving DecidableEq, Repr

/-- Launches whose resources are reserved and whose handler tables have still to be read (R76): the name of the unit that places them, the
graph of a node's launch, and the launches with their cores. -/
structure Placing where
  name : Nat
  part : Nat
  job : Nat
  node : Option GKey
  launches : List (LKey × List Nat)
  deriving DecidableEq, Repr

/-- A packet that has started and not completed. -/
structure RunPkt where
  id : Nat
  key : QKey
  die : Nat
  idx : Nat
  bytes : List Byte
  part : Nat
  job : Nat
  /-- The work of the packet's type: a launch placed, a seeding begun, signal operations or a copy made. -/
  begun : Bool := false
  /-- When a BARRIER is next polled (R59), and the signals that a peer has answered, by entry. -/
  pollAt : Nat := 0
  vals : Tab Word := []
  /-- Pieces asked of a peer and not yet answered, and whether a part of the work has failed (R62). -/
  owed : Nat := 0
  failed : Bool := false
  /-- The REASON with which a BARRIER aborts, while its queue's entry is out of reach (R59). -/
  reason : Option Nat := none
  deriving DecidableEq, Repr

/-- A live job (R74): its descriptor and its address, the count of phases not complete, and whether the host has closed it. -/
structure Job where
  desc : JobDesc
  addr : Nat
  phases : Nat := 0
  closed : Bool := false
  /-- The job is being cancelled (R436), and a phase of it has failed (R433). -/
  cancelled : Bool := false
  failed : Bool := false
  deriving DecidableEq, Repr

/-- A phase of a job (R53, R433): members not complete and whether its boundary is marked. -/
structure Phase where
  part : Nat
  job : Nat
  phase : Nat
  members : Nat := 0
  marked : Bool := false
  /-- A member has failed, and the phase is being cancelled (R433, R436). -/
  failed : Bool := false
  cancelled : Bool := false
  deriving DecidableEq, Repr

/-- A tile-map descriptor (R21). -/
structure TileMap where
  form : Nat
  xn : Nat
  yn : Nat
  zn : Nat
  bx : Nat
  by_ : Nat
  bz : Nat
  sx : Int
  sy : Int
  sz : Int
  off : Int
  tbl : Nat
  deriving DecidableEq, Repr

/-- What a launch reports its completion to. -/
inductive LaunchOwner where
  | packet (rid : Nat)
  | node (g : GKey) (n : Nat)
  deriving DecidableEq, Repr

/-- Messages that a hardware unit has still to send: a seeding of a launch (R55, R56), by the message count left to be accepted or
dropped. making holds until the list has been made. -/
structure Seeding where
  id : Nat
  key : LKey
  die : Nat
  left : List Msg := []
  making : Bool := false
  outstanding : Nat := 0
  /-- The packet that completes when the seeding ends, and whether it releases HOLD (R56). -/
  packet : Option Nat := none
  last : Bool := false
  /-- The seeding counts on the launch's V (R90). -/
  counted : Bool := true
  deriving DecidableEq, Repr

/-- A launch that holds a reservation (R54, R76, R90). -/
structure Launch where
  key : LKey
  die : Nat
  job : Nat
  phase : Nat
  owner : LaunchOwner
  graph : Option Nat := none
  regs : Nat
  rows : Nat
  maxctx : Nat
  spBytes : Nat
  stkBytes : Nat
  fpctl : Nat
  vtype : Nat
  handlers : List Nat
  tmap : TileMap
  cores : List Nat
  hold : Bool := false
  /-- The termination counters C by cluster (R90). -/
  counts : Tab Nat := []
  gang : Nat := 0
  gangn : Nat := 0
  /-- The name of the gang's one placement, which tells it from another gang of the same number (R66, R67). -/
  gangId : Nat := 0
  queue : Option QKey := none
  pipein : Nat := 0
  pipeout : Nat := 0
  pipeste : Nat := 0
  /-- COMPSIG and COMPVAL (R430). -/
  sig : Nat := 0
  val : Nat := 0
  /-- A cancel of the launch has begun (R435), so that the launch fails its signal; the cores to which a mark is on its way. -/
  cancelled : Bool := false
  marks : List Nat := []
  /-- V has reached zero (R430), and the reservations have been released. -/
  ended : Bool := false
  released : Bool := false
  deriving DecidableEq, Repr

/-- A launch identifier that was freed, with its generation and time (R32). -/
structure FreedId where
  part : Nat
  job : Bool
  id : Nat
  gen : Nat
  time : Nat
  deriving DecidableEq, Repr

/-- Who hears of a message's acceptance or drop (R92). -/
inductive Sender where
  | ctx (core ctx : Nat)
  | seeding (id : Nat)
  | landing (core cluster part lid lgen : Nat)
  | node (g : GKey) (n : Nat)
  /-- The endpoint that holds a flow's receive record (R361). -/
  | flow (sdev score flow cls : Nat)
  | hw
  deriving DecidableEq, Repr

/-- A message on the mesh (R12), with its destination core once resolved. -/
structure Flight where
  msg : Msg
  core : Nat
  sender : Sender
  deriving DecidableEq, Repr

/-- A signal-watch entry (R59): a watched address with its evaluations. -/
structure Watch where
  die : Nat
  pa : Nat
  rid : Nat
  deriving DecidableEq, Repr

/-- A partition's registers in the die control space: WDPOL, FABPOL, S2ROOT, FWDRANGE, FWDTGT (R240, R418, R429), and its flag union
(R184). -/
structure Part where
  s2root : Word := 0#64
  wdpol : Word := 0x006403E803E8#64
  fabpol : Word := 0x80FA0C8#64
  fwdrange : Tab Word := []
  fwdtgt : Word := 0#64
  flagor : FlagBits := 0#5
  /-- The partition has been moved to another device (R428, R429). -/
  moved : Bool := false
  deriving DecidableEq, Repr

end Sys2Proof.Machine
end

