-- ==== Sys2Proof/Machine/PartsFabric.lean ====
section
/-! DEFINITION. The state of the fabric endpoints, of collective graphs and of transposing all-to-alls (R344 to R401). -/

namespace Sys2Proof.Machine

/-- The states of a rod by their codes of R376: 0 FREE, 1 ARMED, 2 BEAMED, 3 DONE, 4 OPEN, 5 SENT, 6 FAULT, 7 quarantine. -/
inductive RodSt where
  | free | armed | beamed | done | open_ | sent | fault | quarantine
  deriving DecidableEq, Repr

def RodSt.code : RodSt → Nat
  | .free => 0
  | .armed => 1
  | .beamed => 2
  | .done => 3
  | .open_ => 4
  | .sent => 5
  | .fault => 6
  | .quarantine => 7

/-- A bead to send: DADDR, and its source as addresses and lengths (R349, R396). -/
structure BeadSpec where
  daddr : Nat
  src : List (Nat × Nat)
  deriving DecidableEq, Repr

/-- A command of a send rod's replay list (R372): its beads, with sources in the scratchpad of a core or in the global window. -/
structure Replay where
  scratch : Option Nat
  beads : List BeadSpec
  deriving DecidableEq, Repr

/-- What owns a rod beside the program that allocated it: a graph in graph role, or an XALL that is active or has parked it. -/
inductive RodUse where
  | program
  | graph (key : GKey) (index : Nat)
  | xall (id : Nat) (active : Bool)
  deriving DecidableEq, Repr

/-- A rod (R352). -/
structure Rod where
  st : RodSt := .free
  send : Bool := false
  part : Nat := 0
  job : Nat := 0
  use : RodUse := .program
  gen : Nat := 0
  short : Nat := 0
  /-- ARRIVED or SENT, and EXPECT (R352). -/
  count : Nat := 0
  expect : Option Nat := none
  /-- The flag (R356). -/
  flagaddr : Nat := 0
  flagval : Word := 0#64
  flagadd : Bool := false
  /-- The flag action is due and waits for its translation (R356). -/
  flagdue : Bool := false
  /-- The sender of the epoch (R355). -/
  sender : Option (Nat × Nat) := none
  t : Nat := 200
  /-- The timer's deadline in BEAMED, or the window deadline in SENT. -/
  deadline : Nat := 0
  /-- The times at which the beam is repeated (R357). -/
  repeats : List Nat := []
  tdev : Nat := 0
  trod : Nat := 0
  tpart : Nat := 0
  replayAddr : Nat := 0
  nput : Nat := 0
  list : List Replay := []
  /-- When the generation in force began (R353), or the block of a graph or XALL rod (R387). -/
  genAt : Nat := 0
  block : Option Nat := none
  /-- A re-arm waits for the spacing of R353. -/
  rearm : Bool := false
  /-- When the quarantine ends (R354). -/
  quarUntil : Nat := 0
  deriving DecidableEq, Repr

/-- Beads that an endpoint has still to inject for a send rod (R372): a command, from its first bead not yet sent. -/
structure PutJob where
  rod : Nat
  gen : Nat
  cmd : Replay
  pos : Nat := 0
  /-- The time of the PUTC, which releases at device scope (R372). -/
  since : Nat := 0
  /-- The core whose 16-entry queue the command takes and the context that pushed it, none for a replay or a node. -/
  core : Option Nat := none
  ctx : Nat := 0
  /-- The graph node that finishes with the command. -/
  node : Option (GKey × Nat) := none
  /-- The beams that follow the last bead, in order: the die whose endpoint sends each, its generation and its count (R344, R357, R396,
  R443). -/
  beams : List (Nat × Nat × Nat) := []
  /-- Where the beads of a rod that has been freed since go: device, rod and partition (R375, R443). -/
  target : Option (Nat × Nat × Nat) := none
  deriving DecidableEq, Repr

/-- A packet of a flow that arrived ahead of its turn, in the reorder buffer of the endpoint of a die, with the port it arrived at (R361). -/
structure EarlyPkt where
  die : Nat
  port : Nat
  pkt : Pkt
  deriving DecidableEq, Repr

/-- A flow's class (R359). -/
inductive FlowClass where
  | l | h | atomic
  deriving DecidableEq, Repr

def FlowClass.code : FlowClass → Nat
  | .l => 0
  | .h => 1
  | .atomic => 2

/-- An open flow's send record (R359, R360, R362). -/
structure Flow where
  handle : Nat
  cls : FlowClass
  dest : Dest
  part : Nat
  lid : Nat
  lgen : Nat
  /-- For a pipe, the job and the gang, by the name of its placement (R67). -/
  pipe : Option (Nat × Nat) := none
  seq : Nat := 0
  /-- Packets sent and not acknowledged, oldest first. -/
  unacked : List Pkt := []
  /-- Packets numbered while 64 are unacknowledged, oldest first, that leave as acknowledgements come (R360). -/
  waiting : List Pkt := []
  rounds : Nat := 0
  /-- The time of the last send or progress. -/
  since : Nat := 0
  broken : Bool := false
  closing : Bool := false
  closeSent : Bool := false
  deriving DecidableEq, Repr

/-- A destination's receive record of a flow (R361). -/
structure RecvRec where
  die : Nat
  sdev : Nat
  score : Nat
  flow : Nat
  cls : FlowClass
  core : Nat
  /-- The partition whose packet opened the record (R420). -/
  part : Nat := 0
  next : Nat := 0
  /-- Packets accepted, in order, and the close packet's arrival. -/
  done : Nat := 0
  closed : Bool := false
  /-- Deliveries since the last FLOWACK, and the time at which one is due (R362). -/
  unsent : Nat := 0
  ackAt : Option Nat := none
  deriving DecidableEq, Repr

/-- A request to a peer that waits for data (R363, R364, R377). -/
inductive PeerReq where
  | load (core ctx va len : Nat)
  | atomic (core ctx va : Nat) (size : Nat) (sgn : Bool)
  | getr (id : Nat) (off len : Nat)
  /-- A piece of a copy's source, by its offset in the destination (R282). -/
  | copy (cluster run off len : Nat)
  /-- A piece of a COPY packet's source, or of a COPY node's, by its destination (R62, R386). -/
  | packet (rid va len : Nat)
  | node (g : GKey) (n va len : Nat)
  /-- A signal that a BARRIER waits on (R59). -/
  | barrier (rid k : Nat)
  /-- A fetch-buffer line (R96): its virtual and physical address. -/
  | fetch (core ctx va pa : Nat)
  /-- A piece of a unit's read, by the read's name, address and length and by its physical address (R267). -/
  | read (name part die va len pa : Nat)
  /-- A peer's atomic forwarded for a partition that has moved: where its answer goes (R429). -/
  | relay (part die ep tag : Nat)
  /-- A host's atomic forwarded so: its partition, the die whose endpoint sent it, and log2 of its size. -/
  | host (part die size : Nat)
  deriving DecidableEq, Repr

/-- A unit's read of a range that reaches a peer (R267, R364): the pieces not yet answered, those that are by physical address, and the
status of a failure. -/
structure UnitRead where
  name : Nat
  va : Nat
  len : Nat
  owed : Nat
  got : Tab (List Byte) := []
  status : Nat := 0
  deriving DecidableEq, Repr

structure PeerWait where
  tag : Nat
  peer : Nat
  req : PeerReq
  deadline : Nat
  deriving DecidableEq, Repr

/-- A GETR in progress (R377). -/
structure Getr where
  id : Nat
  core : Nat
  ctx : Nat
  tag : Nat
  dst : Nat
  /-- The destination as translated at issue, none in the scratchpad. -/
  dstMap : Option (List (Nat × Nat × Nat))
  part : Nat
  job : Nat
  lid : Nat
  lgen : Nat
  pieces : Nat
  written : Nat := 0
  status : Nat := 0
  deriving DecidableEq, Repr

/-- An entry of PEERTAB (R347). -/
structure Peer where
  ep : Nat := 0
  valid : Bool := false
  carrier : Bool := false
  feotte : Bool := false
  isol : Bool := false
  tocnt : Nat := 0
  deriving DecidableEq, Repr

/-- EPDROP (R351). -/
structure EpDrop where
  badtile : Nat := 0
  expired : Nat := 0
  gen : Nat := 0
  badrod : Nat := 0
  xlate : Nat := 0
  isolated : Nat := 0
  robfull : Nat := 0
  badtype : Nat := 0
  deriving DecidableEq, Repr

/-- A held half of a two-write packet (R368): its carrier tag, its source and the time its lifetime ends. -/
structure HeldHalf where
  die : Nat
  src : Nat
  tag : Nat
  upper : Bool
  data : List Byte
  deadline : Nat
  deriving DecidableEq, Repr

/-- A packet held in a deferred-arrival buffer (R388). -/
structure Deferred where
  die : Nat
  rod : Nat
  pkt : Pkt
  /-- The packet lies in the deferral area of its graph. -/
  spilled : Bool := false
  /-- The entry of the deferral area at which the packet has still to be written, while its translation or its tile waits (R244, R388). -/
  unwritten : Option Nat := none
  deriving DecidableEq, Repr

/-- A node record of a loaded graph (R381). -/
structure GNode where
  ntype : Nat
  rankord : Bool
  npred : Nat
  succ : List Nat
  addr0 : Nat
  addr1 : Nat
  len : Nat
  rod0 : Nat
  rodn : Nat
  arg0 : Word
  arg1 : Word
  deriving DecidableEq, Repr

/-- A graph rod of a loaded graph (R382). -/
structure GRod where
  rod : Nat
  send : Bool
  rank : Nat
  tdev : Nat
  trod : Nat
  tpart : Nat
  deriving DecidableEq, Repr

/-- The state of a node in the active instance; ended until its successors have been told. -/
inductive NodeSt where
  | waiting | ready | running | ended | finished | failed
  deriving DecidableEq, Repr

/-- What a graph instance reports to: a GRAPH packet, or the COMPSIG of a GRUN. -/
inductive GOwner where
  | packet (rid : Nat)
  | run (sig val : Nat)
  deriving DecidableEq, Repr

/-- The active instance of a graph (R384 to R391). -/
structure GInst where
  num : Nat
  die : Nat
  owner : GOwner
  phase : Nat
  base : List Nat := []
  /-- The earliest time at which it may start (R387), none once it has started. -/
  startAt : Option Nat := none
  counts : List Nat := []
  nodes : List NodeSt := []
  begun : List Bool := []
  /-- Input rods of REDUCE nodes in the order they reached DONE (R392). -/
  doneRods : List Nat := []
  /-- The destination tiles already reduced, by node (R391). -/
  tiles : List (Nat × Nat) := []
  /-- The failing node and the status of an abort in progress (R390). -/
  aborted : Option (Nat × Nat) := none
  /-- Pieces that a COPY node has asked of a peer and that are not yet answered, by node. -/
  owed : Tab Nat := []
  /-- The templates that LAUNCH nodes have read, by node. -/
  templates : Tab (List Byte) := []
  deriving DecidableEq, Repr

/-- A loaded graph (R380 to R384). -/
structure Graph where
  key : GKey
  rank : Nat
  nranks : Nat
  defaddr : Nat
  deflen : Nat
  failrec : Nat
  nodes : List GNode
  rods : List GRod
  next : Nat := 0
  stopped : Bool := false
  /-- The status in the record of the abort that stopped the handle (R390). -/
  status : Nat := 0
  /-- When STOPPED ends after a reset, and the next instance then (R400). -/
  stopEnd : Option (Nat × Nat) := none
  inst : Option GInst := none
  deriving DecidableEq, Repr

/-- A layout map (R393). -/
structure LMap where
  esz : Nat
  ndim : Nat
  nranks : Nat
  order : List Nat
  ext : List Nat
  parts : List Nat
  deriving DecidableEq, Repr

/-- A transposing all-to-all (R395 to R397, R401). -/
structure Xall where
  id : Nat
  part : Nat
  job : Nat
  phase : Nat
  die : Nat
  owner : GOwner
  src : LMap
  dst : LMap
  srcBase : Nat
  dstBase : Nat
  peers : List (Nat × Nat)
  me : Nat
  rodBase : Nat
  started : Bool := false
  localDone : Bool := false
  failed : Bool := false
  /-- The beads and beams have been handed to the endpoint. -/
  sent : Bool := false
  deriving DecidableEq, Repr

end Sys2Proof.Machine
end

