-- ==== Sys2Proof/Machine/PartsBoard.lean ====
section
/-! DEFINITION. The state of a die's control space, of boot, host attachment, power and saved jobs (R72, R422 to R428, R446 to
R459). -/

namespace Sys2Proof.Machine

/-- An accepted Thoelle table (R446): the bank it came from and its fields. -/
structure Thoelle where
  bank : Nat
  svn : Nat
  width : Nat
  roles : List Byte
  capdef : Nat
  hbmtrip : Nat
  wddef : Word
  fabdef : Word
  fwdigest : List Byte
  /-- Bytes 0x000 to 0x3FF, which the attestation digests (R459). -/
  signed : List Byte
  deriving DecidableEq, Repr

/-- PREQ of a die (R422). -/
structure Preq where
  job : Nat := 0
  part : Nat := 0
  /-- The operation that runs: 1 SAVE, not yet begun, 2 RESTORE, 3 SAVE begun. -/
  op : Nat := 0
  busy : Bool := false
  fail : Bool := false
  void : Bool := false
  area : Nat := 0
  /-- The time of the request. -/
  since : Nat := 0
  deriving DecidableEq, Repr

/-- A die: its control-space registers and the work-queue unit's arrival counter. -/
structure Die where
  fwall : Word := 1#64
  epdrop : EpDrop := {}
  /-- The endpoint's counter of carrier tags (R368). -/
  ctag : Nat := 0
  preq : Preq := {}
  /-- The class and queue served last by the arbiter (R69). -/
  drrAt : Nat := 0
  wqSeq : Nat := 0
  deriving DecidableEq, Repr

/-- What a save kept of one launch on one core (R426): the reservation, the contexts by place, the scratchpad and stack bytes, and the
rows by their index from the row base. -/
structure SavedCore where
  core : Nat
  resv : Resv
  ctxs : Tab Ctx := []
  mx : Tab MxCtx := []
  sp : List Byte := []
  rows : Tab Row := []
  hq : List InMsg := []
  lq : List InMsg := []
  streams : Tab StreamEnt := []
  log : List LogEnt := []
  lsLast : Tab LsLast := []
  /-- The state that each context had, and has again after the restore. -/
  was : Tab CtxSt := []
  /-- The live ranges of each context saved by CKPT with a table; a context without one was saved in full. -/
  live : Tab (List (Nat × Nat × Nat)) := []
  /-- The reservation has been released, and the region and the inbound entries have been saved. -/
  done : Bool := false
  deriving DecidableEq, Repr

/-- A saved job (R422): its area, and whether a partition reset has voided it. -/
structure SavedJob where
  die : Nat
  part : Nat
  job : Nat
  area : Nat
  cores : List SavedCore
  void : Bool := false
  deriving DecidableEq, Repr

/-- A mailbox (R454): the last request served and its response. -/
structure MBox where
  seq : Nat := 0
  cmd : Nat := 0
  status : Nat := 0
  body : List Byte := []
  /-- MSI-X vector 0 messages sent. -/
  irqs : Nat := 0
  /-- The request that is not answered yet: SEQ and CMD, and what its body asks for, once the firmware has taken it up. -/
  pend : Option (Nat × Nat × Option (List Nat)) := none
  /-- The request area, as the host wrote it. -/
  req : Memory := []
  deriving DecidableEq, Repr

/-- A virtual function (R47, R455), 1 + n as a function number of the mailboxes: its partition and the job its notify pages are mapped for. -/
structure Vf where
  part : Nat := 0
  job : Nat := 0
  jgen : Nat := 0
  mapped : Bool := false
  deriving DecidableEq, Repr

/-- Pages of a device-memory window (R454): the function, the first page of the BAR, the PA, the count of 64 KiB pages, and the tag of
the translation that mapped them. -/
structure BarMap where
  fn : Nat
  page : Nat
  pa : Nat
  pages : Nat
  tag : Nat
  deriving DecidableEq, Repr

/-- The module beneath the work. -/
structure Board where
  powered : Bool := true
  flash : Tab Memory := []
  svnfuse : Nat := 0
  /-- The repair maps (R449, R453). -/
  repair : List (Nat × Nat) := []
  table : Option Thoelle := none
  /-- BOOTSTAT and FAILDET (R451). -/
  stage : Nat := 0
  fail : Nat := 0
  bank : Nat := 0
  safe : Bool := false
  svn : Nat := 0
  warmcnt : Nat := 0
  lastrst : Nat := 0
  faildet : Word := 0#64
  /-- The first failure of each bank at the last boot, 0 for none (R448). -/
  bankFail : Nat × Nat := (0, 0)
  /-- The time of a graceful warm reset in progress (R452). -/
  graceful : Option Nat := none
  /-- PWRCAP (R456), and the cap in force in the window that runs. -/
  cap : Nat := 0
  capOn : Nat := 0
  now : Nat := 0
  throt : Bool := false
  throtcnt : Nat := 0
  /-- Layers limited to one request per 8 cycles, as 16 × stack + layer, and dies whose clock is halved (R457). -/
  limited : List Nat := []
  halved : List Nat := []
  mbox : Tab MBox := []
  vfs : Tab Vf := []
  /-- A window of 1 µs has used more energy than the cap allows, so that the next is throttled (R456). -/
  delaying : Bool := false
  bar2 : List BarMap := []
  /-- Answers to translation requests, newest last, with the peer that asked (R251). -/
  answers : List (Option Nat × List Byte) := []
  grants : List Grant := []
  /-- The last answer to a host read or atomic (R334). -/
  hostResp : List Byte := []
  /-- The value of the last control-space register read (R7). -/
  ctlResp : Word := 0#64
  /-- Pod time less the device's own microseconds, which the fabric manager keeps in step (R346). -/
  podOff : Nat := 0
  deriving DecidableEq, Repr

end Sys2Proof.Machine
end

