-- ==== Sys2Proof/Machine/State.lean ====
section
/-! DEFINITION. The state of the machine as plain data, the reasons a step can stop, and the machine right after cold reset. -/

namespace Sys2Proof.Machine

/-- Why the machine stops with a fault. -/
inductive Fault where
  /-- Raised by step alone, when module power is removed and no cold reset is due: nothing runs (R457).
  Safe: no claim about a later state can be proved. -/
  | unpowered
  deriving DecidableEq, Repr

/-- Why an instruction has no meaning. -/
inductive Refusal where
  /-- Raised by an arm of exec for an instruction that has not been modelled. Safe: nothing can be proved of its effect. -/
  | notModelled (mnemonic : String)
  deriving DecidableEq, Repr

/-- What the agenda says moves next (the model's own: the spec leaves the order of the agents open). -/
inductive Act where
  /-- A step of an agent, or an instruction given at the boundary. -/
  | event (i : Instr)
  /-- The issue of a core's control slot, or engine slot when the flag is true. -/
  | issue (core : Nat) (engine : Bool)
  /-- Time passes. -/
  | elapse (cycles : Nat)
  deriving DecidableEq, Repr

/-- The instruction at issue: its core and context, its length in words, and the PC after it. -/
structure Cur where
  core : Nat := 0
  ctx : Nat := 0
  len : Nat := 1
  /-- The instruction issues in the engine slot (R93). -/
  engine : Bool := false
  npc : Word := 0#64
  /-- The flags the instruction has raised so far, by lane (R180, R182). -/
  flags : List (Nat × FlagBits) := []
  deriving DecidableEq, Repr

/-- A partition reset in progress (R421): its cause, and the command queues whose RIDX has still to go back. -/
structure PartReset where
  part : Nat
  cause : Nat
  left : List QKey
  deriving DecidableEq, Repr

/-- The machine. -/
structure State where
  clock : Nat := 0
  cur : Cur := {}
  agenda : List Act := []
  /-- Names given to requests, packets in progress and transfers, never reused. -/
  serial : Nat := 0
  /-- The counter that free values are drawn by (the model's own). -/
  draws : Nat := 0
  cores : Tab Core := []
  clusters : Tab Cluster := []
  dies : Tab Die := []
  parts : Tab Part := []
  jobs : List Job := []
  phases : List Phase := []
  freed : List FreedId := []
  launches : List Launch := []
  seedings : List Seeding := []
  mesh : List Flight := []
  acks : List Sender := []
  /-- Fabric packets sent, by endpoint, newest last, and those of a device's own ports are the outside's to deliver. -/
  egress : List (Nat × Pkt) := []
  queues : List RQueue := []
  /-- Kicks and control writes that wait for the entry of a queue that is not resident (R42). -/
  notices : List Notice := []
  /-- Launches being placed (R76). -/
  placing : List Placing := []
  /-- Packets read and not started of queues that have been swapped out. -/
  readAhead : List (QKey × List ReadPkt) := []
  running : List RunPkt := []
  watches : List Watch := []
  mem : Memory := []
  seals : Seal := {}
  poc : List PocReq := []
  walks : List Walk := []
  rods : Tab Rod := []
  rodblk : Tab (Nat × Bool) := []
  puts : List (Nat × PutJob) := []
  flows : Tab (List Flow) := []
  recvs : List RecvRec := []
  reorder : List EarlyPkt := []
  waits : List PeerWait := []
  getrs : List Getr := []
  ureads : List UnitRead := []
  peers : Tab Peer := []
  halves : List HeldHalf := []
  /-- Packets taken at a port whose effect waits there, in the order of arrival, each with its port. -/
  held : List (Nat × Pkt) := []
  deferred : List Deferred := []
  graphs : List Graph := []
  xalls : List Xall := []
  saves : List SavedJob := []
  /-- PRESET (R419): the partition and cause of the last reset. -/
  presetPart : Nat := 0
  presetBusy : Bool := false
  presetCause : Nat := 0
  /-- Resets of partitions that wait for a queue's entry (R245, R421). -/
  resets : List PartReset := []
  /-- Partition faults that wait for their reset: partition and cause (R419). -/
  pfaults : List (Nat × Nat) := []
  board : Board := {}
  deriving DecidableEq, Repr

/-- The machine right after cold reset: every field at its reset value, memory with nothing listed, nothing running. -/
def State.reset : State := {}

end Sys2Proof.Machine
end

