-- ==== Sys2Proof/Machine/Ops.lean ====
section
/-! DEFINITION. The named operations over the state: reading and replacing a core, a context, a cluster or a die, the levels and
roles of cores, taking a trap and returning from one, the messages that the hardware sends, and the effect type of an
instruction. -/

namespace Sys2Proof.Machine

/-- The cluster, die and partition coordinates of a core number (R13). -/
def clusterOf (core : Nat) : Nat := core / 16
@[inherit_doc clusterOf] def dieOf (core : Nat) : Nat := core / 1024

/-- A core's column within its die (R70). -/
def coreCol (core : Nat) : Nat := core / 16 % 8 * 4 + core % 4

/-- The device's pod endpoint number. -/
def selfEp : Nat := Config.podEndpoint.toNat

def State.core (s : State) (c : Nat) : Core := s.cores.get {} c
def State.setCore (s : State) (c : Nat) (k : Core) : State := { s with cores := s.cores.set c k }
def State.modCore (s : State) (c : Nat) (f : Core → Core) : State := s.setCore c (f (s.core c))

def Core.ctx (k : Core) (n : Nat) : Ctx := k.ctxs.get {} n
def Core.setCtx (k : Core) (n : Nat) (x : Ctx) : Core := { k with ctxs := k.ctxs.set n x }

def State.ctx (s : State) (c n : Nat) : Ctx := (s.core c).ctx n
def State.setCtx (s : State) (c n : Nat) (x : Ctx) : State := s.modCore c fun k => k.setCtx n x
def State.modCtx (s : State) (c n : Nat) (f : Ctx → Ctx) : State := s.setCtx c n (f (s.ctx c n))

def State.cluster (s : State) (c : Nat) : Cluster := s.clusters.get {} c
def State.setCluster (s : State) (c : Nat) (k : Cluster) : State := { s with clusters := s.clusters.set c k }
def State.modCluster (s : State) (c : Nat) (f : Cluster → Cluster) : State := s.setCluster c (f (s.cluster c))

def State.die (s : State) (d : Nat) : Die := s.dies.get {} d
def State.modDie (s : State) (d : Nat) (f : Die → Die) : State := { s with dies := s.dies.set d (f (s.die d)) }

def State.part (s : State) (p : Nat) : Part := s.parts.get {} p
def State.modPart (s : State) (p : Nat) (f : Part → Part) : State := { s with parts := s.parts.set p (f (s.part p)) }

def State.rod (s : State) (r : Nat) : Rod := s.rods.get {} r
def State.modRod (s : State) (r : Nat) (f : Rod → Rod) : State := { s with rods := s.rods.set r (f (s.rod r)) }

/-- The context of the instruction at issue. -/
def State.me (s : State) : Ctx := s.ctx s.cur.core s.cur.ctx
def State.setMe (s : State) (x : Ctx) : State := s.setCtx s.cur.core s.cur.ctx x
def State.myCore (s : State) : Core := s.core s.cur.core
def State.modMyCore (s : State) (f : Core → Core) : State := s.modCore s.cur.core f

/-- Microseconds and nanoseconds of device time, and pod time (R6, R346, R451). -/
def State.usNow (s : State) : Nat := s.clock / Config.cyclesPerUs
@[inherit_doc State.usNow] def State.nsNow (s : State) : Nat := s.clock * 1000 / Config.cyclesPerUs
@[inherit_doc State.usNow] def State.podNow (s : State) : Nat := s.usNow + s.board.podOff

/-- The Abacist column width W, 0 before a table has been accepted (R70, R446). -/
def State.width (s : State) : Nat :=
  match s.board.table with
  | some t => t.width
  | none => 0

/-- Whether a core is an Abacist column core (R70). -/
def State.isFw (s : State) (core : Nat) : Bool := decide (32 - s.width ≤ coreCol core)

/-- Whether the matrix unit, copy engines, special-function unit and cluster cache of a core's cluster serve it: those of a reduced
cluster serve only the cores that are not the column's (R71). -/
def State.served (s : State) (core : Nat) : Bool := !(s.isFw core && !s.isFw (clusterOf core * 16))

/-- The role byte of a column core (R447): row i of column 32 − W + j of die d. -/
def State.roleOf (s : State) (core : Nat) : Nat :=
  match s.board.table with
  | none => 0
  | some t =>
    let row := core / 128 % 8 * 4 + core / 4 % 4
    byteAt t.roles (dieOf core * 128 + 32 * (coreCol core - (32 - t.width)) + row)

/-- The lowest-numbered column core of a role, on a die or on the whole device (R447). -/
def State.roleCore (s : State) (role : Nat) (die : Option Nat) : Option Nat :=
  (List.range 4096).find? fun c =>
    s.isFw c && s.roleOf c == role && (match die with
      | none => true
      | some d => dieOf c == d)

/-- The partition that owns a core's cluster, none when its CLPART is not valid or the core is the column's (R72, R73). -/
def State.partOf (s : State) (core : Nat) : Option Nat :=
  let k := s.cluster (clusterOf core)
  if k.valid && !s.isFw core then some k.part else none

/-- The levels of R124. -/
inductive Level where
  | user | supervisor | firmware
  deriving DecidableEq, Repr

def Level.rank : Level → Nat
  | .user => 0
  | .supervisor => 1
  | .firmware => 2

/-- The fields of SUPER (R405). -/
def superCore (w : Word) : Nat := wbits w 11 0
@[inherit_doc superCore] def superLid (w : Word) : Nat := wbits w 23 12
@[inherit_doc superCore] def superLgen (w : Word) : Nat := wbits w 27 24
@[inherit_doc superCore] def superHandler (w : Word) : Nat := wbits w 33 28

/-- A context's level (R124). -/
def State.levelOf (s : State) (core : Nat) (x : Ctx) : Level :=
  if s.isFw core then .firmware
  else if x.lid = superLid x.super && x.lgen = superLgen x.super then .supervisor
  else .user

/-- The launch of a key, if it holds a reservation. -/
def State.launch (s : State) (k : LKey) : Option Launch := s.launches.find? fun l => l.key == k
def State.modLaunch (s : State) (k : LKey) (f : Launch → Launch) : State :=
  { s with launches := s.launches.map fun l => if l.key == k then f l else l }

def Ctx.lkey (x : Ctx) : LKey := ⟨x.part, x.lid, x.lgen⟩

/-- The device counter V of a launch (R90): dies whose D is not zero, HOLD, and the seedings that count. -/
def State.deviceCount (s : State) (l : Launch) : Nat :=
  ((List.range 4).filter fun d => l.counts.any fun p => decide (p.1 / 64 = d) && decide (p.2 ≠ 0)).length
    + (if l.hold then 1 else 0)
    + (s.seedings.filter fun z => z.key == l.key && z.counted && (z.making || !z.left.isEmpty || decide (z.outstanding ≠ 0))).length

/-- A launch whose V has reached zero is complete from then on (R430). -/
def State.noteEnd (s : State) (l : LKey) : State :=
  match s.launch l with
  | none => s
  | some x => if s.deviceCount x = 0 then s.modLaunch l fun x => { x with ended := true } else s

/-- The termination counter C of a launch on a cluster changes (R90, R92). -/
def State.count (s : State) (l : LKey) (core : Nat) (f : Nat → Nat) : State :=
  (s.modLaunch l fun x =>
    { x with counts := x.counts.set (clusterOf core) (f (x.counts.get 0 (clusterOf core))) }).noteEnd l

/-- The valid reservation of a launch on a core (R76). -/
def Core.resv (k : Core) (l : LKey) : Option Resv :=
  k.resvs.find? fun r => r.valid && r.part == l.part && r.lid == l.lid && r.lgen == l.lgen
def Core.modResv (k : Core) (l : LKey) (f : Resv → Resv) : Core :=
  { k with resvs := k.resvs.map fun r => if r.part == l.part && r.lid == l.lid && r.lgen == l.lgen then f r else r }

/-- A resource that placement reserves has been freed: queues that lacked one try again (R65, R76). -/
def State.unshort (s : State) : State := { s with queues := s.queues.map fun q => { q with short := false } }

/-- Launches being placed are given up: their resources are released, and no reservation becomes valid (R76). -/
def State.unplace (s : State) (p : Placing → Bool) : State :=
  let gone := s.placing.filter p
  if gone = [] then s
  else
    let mine := fun (r : Resv) => !r.valid && gone.any fun e => e.launches.any fun l => l.1 == ⟨r.part, r.lid, r.lgen⟩
    let pipe := fun (e : StreamEnt) => gone.any fun g => g.launches.any fun l => l.1 == ⟨e.part, e.lid, e.lgen⟩
    { s with placing := s.placing.filter fun e => !p e,
             cores := s.cores.map fun _ k =>
               { k with resvs := k.resvs.filter (fun r => !mine r), streams := k.streams.filter fun q => !pipe q.2 } }.unshort

/-- A context's reservation; a blank one when none is held. -/
def State.resvOf (s : State) (core : Nat) (x : Ctx) : Resv :=
  ((s.core core).resv x.lkey).getD ⟨x.part, x.lid, x.lgen, x.job, [], 0, 0, 0, 0, 0, 0, 0, 0, [], 0, [], false, none, false, false, true⟩

/-- The live job of a partition and number (R74). -/
def State.job (s : State) (p j : Nat) : Option Job := s.jobs.find? fun x => x.desc.part == p && x.desc.job == j

/-- The codes of R402. -/
def tIllegal : Nat := 0x01
@[inherit_doc tIllegal] def tPrefix : Nat := 0x02
@[inherit_doc tIllegal] def tPriv : Nat := 0x03
@[inherit_doc tIllegal] def tRegbound : Nat := 0x04
@[inherit_doc tIllegal] def tRowbound : Nat := 0x05
@[inherit_doc tIllegal] def tAlign : Nat := 0x06
@[inherit_doc tIllegal] def tAperture : Nat := 0x07
@[inherit_doc tIllegal] def tPage : Nat := 0x08
@[inherit_doc tIllegal] def tPerm : Nat := 0x09
@[inherit_doc tIllegal] def tSeal : Nat := 0x0A
@[inherit_doc tIllegal] def tFpe : Nat := 0x0B
@[inherit_doc tIllegal] def tMasklen : Nat := 0x0C
@[inherit_doc tIllegal] def tSigabort : Nat := 0x0E
@[inherit_doc tIllegal] def tQueue : Nat := 0x0F
@[inherit_doc tIllegal] def tRing : Nat := 0x10
@[inherit_doc tIllegal] def tFmt : Nat := 0x11
@[inherit_doc tIllegal] def tRod : Nat := 0x12
@[inherit_doc tIllegal] def tFlow : Nat := 0x13
@[inherit_doc tIllegal] def tGraph : Nat := 0x14
@[inherit_doc tIllegal] def tBkpt : Nat := 0x15
@[inherit_doc tIllegal] def tTrap : Nat := 0x16
@[inherit_doc tIllegal] def tSyscall : Nat := 0x17
@[inherit_doc tIllegal] def tWatchdog : Nat := 0x18
@[inherit_doc tIllegal] def tCancelled : Nat := 0x19
@[inherit_doc tIllegal] def tOverflowring : Nat := 0x1A
@[inherit_doc tIllegal] def tGather : Nat := 0x1B
@[inherit_doc tIllegal] def tLoopseq : Nat := 0x1C

/-- TRAPCTX (R403). A number of 16 or more names what is left of an ended task of the place that it is congruent to. -/
def trapCtxWord (core ctx : Nat) (x : Ctx) (pseq : Nat) (st : CtxSt) (storef : Bool) : Word :=
  wd (core + ctx % 16 * 2 ^ 12 + pseq * 2 ^ 16 + st.code * 2 ^ 24 + (if storef then 2 ^ 27 else 0) + (if x.pri then 2 ^ 28 else 0)
    + x.lid * 2 ^ 32 + x.lgen * 2 ^ 44)

/-- A message added to the mesh on its way to a core (R92). -/
def State.toMesh (s : State) (m : Msg) (core : Nat) (who : Sender) : State :=
  { s with mesh := s.mesh ++ [⟨m, core, who⟩] }

/-- The EVENT message of a hardware unit of a die to a role (R14, R73, R447). It is sent to nobody while no column core holds the
role. -/
def State.event (s : State) (role : Nat) (die : Option Nat) (part : Nat) (unitDie : Nat) (payload : List Word) : State :=
  match s.roleCore role die with
  | none => s
  | some c =>
    s.toMesh { kind := .event, ddev := selfEp, dpart := part, dest := c, sdev := selfEp, score := unitDie * 1024,
               payload := payload } c .hw

/-- The fault and reset handler, the memory master, the scheduler of a die, the fabric manager and the key service (R447). -/
def roleMemory : Nat := 1
@[inherit_doc roleMemory] def roleSched : Nat := 2
@[inherit_doc roleMemory] def roleFault : Nat := 3
@[inherit_doc roleMemory] def roleFabric : Nat := 4
@[inherit_doc roleMemory] def roleKey : Nat := 5

/-- The payload of a TRAP message (R15). -/
def trapPayload (x : Ctx) : List Word := [x.trapcause, x.trappc, x.trapaddr, x.trapctx, 0#64, 0#64]

/-- EVENT TRAPLOST of a die's unit, and the partition fault unless a firmware context trapped (R406, R419): words 0 to 3 as the TRAP message has them, and its code 0x40 in word 4, where the rule names no place for it.
Mark: DESIGN CHOICE (log entry 102). -/
def State.trapLost (s : State) (die : Nat) (fw : Bool) (part : Nat) (payload : List Word) : State :=
  { s.event roleFault (some die) part die (payload.take 4 ++ [wd 0x40, 0#64]) with
    pfaults := s.pfaults ++ (if fw then [] else [(part, 0x40)]) }

/-- The TRAP message of a context's recorded trap (R15, R406). A supervisor or firmware context's parking trap is reported as
TRAPLOST instead; its store fault is sent as a user's is, but for a firmware context. -/
def State.reportTrap (s : State) (core ctx : Nat) (storef : Bool) : State :=
  let x := s.ctx core ctx
  let lvl := s.levelOf core x
  if lvl = .firmware || (lvl = .supervisor && !storef) then s.trapLost (dieOf core) (s.isFw core) x.part (trapPayload x)
  else
    let d := superCore x.super
    s.toMesh { kind := .trap, pri := true, ddev := selfEp, dpart := x.part, handler := superHandler x.super,
               lgen := superLgen x.super, lid := superLid x.super, dest := d, sdev := selfEp, score := core,
               payload := trapPayload x } d .hw

/-- The run timer stopped, with the time counted (R418). -/
def Ctx.stopTimer (x : Ctx) (now : Nat) : Ctx :=
  match x.runAt with
  | none => x
  | some t => { x with runUsed := x.runUsed + (now - t), runAt := none }

/-- Causes after which a context resumes at the following instruction (R404). -/
def resumesAfter (cause : Nat) : Bool := cause == tTrap || cause == tSyscall || cause == tBkpt

/-- A context takes a parking trap at its PC (R402 to R406): the trap registers are recorded, RPC is set, a masked window closes, the
context parks and the trap is reported. npc is the address of the following instruction. -/
def State.trapAt (s : State) (core ctx : Nat) (cause : Nat) (addr npc : Word) : State :=
  let x := s.ctx core ctx
  let pseq := (x.pseq + 1) % 256
  let y := { x.stopTimer s.clock with
    st := .parked, why := none, pseq := pseq, rpc := if resumesAfter cause then npc else x.pc,
    trapcause := wd cause, trappc := x.pc, trapaddr := addr, trapctx := trapCtxWord core ctx x pseq .parked false,
    masked := none, pend := [], xans := [], relAt := none, waitAt := none, parkedAt := s.clock }
  (s.setCtx core ctx y).reportTrap core ctx false

/-- The instruction at issue traps. -/
def State.takeTrap (s : State) (cause : Nat) (addr : Word) : State :=
  s.trapAt s.cur.core s.cur.ctx cause addr s.cur.npc

/-- A side-log store fault is recorded and reported; the context is not parked (R249, R403). A PARKED context never traps, and is told
when it goes on (R406). -/
def State.storeFault (s : State) (core ctx : Nat) (cause : Nat) (va pc : Word) : State :=
  let x := s.ctx core ctx
  if x.st = .parked then s.setCtx core ctx { x with storefs := x.storefs ++ [(cause, va, pc)] }
  else
  let y := { x with trapcause := wd cause, trappc := pc, trapaddr := va, trapctx := trapCtxWord core ctx x x.pseq x.st true }
  (s.setCtx core ctx y).reportTrap core ctx true

/-- A BLOCKED context runs again; one that has a work command to a queue that is not resident stays BLOCKED until that is over (R87,
R162). -/
def Ctx.goOn (x : Ctx) : Ctx :=
  if x.q1.any fun c => c.missed then { x with why := some .residency } else { x with st := .running, why := none }

/-- A parked context goes on at a PC (R87, R411): its run timer starts again (R418). One that has a work command to a queue that is not
resident is BLOCKED until that is over (R162). -/
def State.resumeAt (s : State) (core ctx : Nat) (pc : Word) (keepLatch : Bool) : State :=
  let due := (s.ctx core ctx).storefs
  let t := s.modCtx core ctx fun x =>
    let missed := x.q1.any fun c => c.missed
    { x with st := if missed then .blocked else .running, why := if missed then some .residency else none, pc := pc, runUsed := 0,
             runAt := if (s.core core).halted then none else some s.clock,
             latch := if keepLatch then x.latch else [],
             pend := [], storefs := [] }
  due.foldl (fun s d => s.storeFault core ctx d.1 d.2.1 d.2.2) t

/-- The context of the instruction at issue is BLOCKED for a cause (R87). -/
def State.blockMe (s : State) (why : Block) : State :=
  s.setMe { s.me with st := .blocked, why := some why }

/-- What stops an instruction before it completes. -/
inductive Stop where
  | trap (cause : Nat) (addr : Word)
  | block (why : Block)
  /-- The instruction has ended its task (R148). -/
  | ended
  deriving DecidableEq, Repr

/-- The effect of an instruction: a new state with a value, or a stop with the state that the stop leaves. -/
abbrev M (α : Type) := EStateM Stop State α

def trapM {α : Type} (cause : Nat) (addr : Word := 0#64) : M α := throw (.trap cause addr)
def blockM {α : Type} (why : Block) : M α := throw (.block why)
def getMe : M Ctx := do return (← get).me
def setMe (x : Ctx) : M Unit := modify fun s => s.setMe x
def modMe (f : Ctx → Ctx) : M Unit := modify fun s => s.setMe (f s.me)
def guardM (bad : Bool) (cause : Nat) (addr : Word := 0#64) : M Unit := if bad then trapM cause addr else pure ()

/-- The outcome of a step of another agent: its effect where it is enabled, else the state as it was. -/
def stepIf (enabled : Bool) (f : State → State) (s : State) : Host.Outcome State Fault Refusal :=
  .next (if enabled then f s else s)

/-- The instruction at issue goes on at another address (R143). -/
def jumpTo (t : Word) : M Unit := modify fun s => { s with cur := { s.cur with npc := t } }

/-- A fresh name. -/
def State.fresh (s : State) : Nat × State := (s.serial, { s with serial := s.serial + 1 })

/-- A free value: the next draw of the model's counter. -/
def State.draw (s : State) : Word × State := (Config.freeWord s.draws, { s with draws := s.draws + 1 })

end Sys2Proof.Machine
end

