-- ==== Sys2Proof/Machine/Flags.lean ====
section
/-! DEFINITION. The floating-point flags of a context: the environment that FPCTL gives, raising flags, the FPE trap and the flag
union (R127, R174 to R184). -/

namespace Sys2Proof.Machine

/-- FPCTL as the arithmetic reads it (R127). -/
def Ctx.fpEnv (x : Ctx) : FpEnv := ⟨rmOf (x.fpctl.toNat % 4), x.fpctl.getLsbD 2, x.fpctl.getLsbD 3⟩

/-- FPCTL.EN laid out as FPFLAGS (R127). -/
def Ctx.fpEnables (x : Ctx) : FlagBits := BitVec.ofNat 5 (x.fpctl.toNat / 16)

/-- The flags of all lanes together (R180). -/
def allFlags : List (Nat × FlagBits) → FlagBits
  | [] => 0#5
  | p :: t => p.2 ||| allFlags t

/-- The lowest lane that raised one of the flags of a set (R181). -/
def lowLane (en : FlagBits) : List (Nat × FlagBits) → Option Nat
  | [] => none
  | p :: t =>
    if p.2 &&& en = 0#5 then lowLane en t
    else match lowLane en t with
      | none => some p.1
      | some l => some (min p.1 l)

/-- FPFLAGS of a context receives flags, and a bit that changes from 0 to 1 enters the union of its partition; a context of a column
core is in no partition (R73, R180, R184). -/
def State.noteFlags (s : State) (core ctx : Nat) (f : FlagBits) : State :=
  let x := s.ctx core ctx
  let t := s.setCtx core ctx { x with fpflags := x.fpflags ||| f }
  if f &&& ~~~x.fpflags = 0#5 ∨ s.isFw core = true then t
  else t.modPart x.part fun p => { p with flagor := p.flagor ||| (f &&& ~~~x.fpflags) }

/-- TRAPADDR of an FPE: the enabled flags that were raised and the lowest lane that raised one (R181). -/
def fpeAddr (en : FlagBits) (raised : List (Nat × FlagBits)) : Word :=
  wd ((allFlags raised &&& en).toNat + (lowLane en raised).getD 0 % 256 * 256)

/-- The instruction at issue raises flags in lanes. An enabled one traps FPE after FPFLAGS has received all of them; otherwise they
enter FPFLAGS when the instruction completes (R181). -/
def raiseFlags (lanes : List (Nat × FlagBits)) : M Unit := do
  let s ← get
  let raised := s.cur.flags ++ lanes
  let en := s.me.fpEnables
  if allFlags raised &&& en = 0#5 then set { s with cur := { s.cur with flags := raised } }
  else
    set (s.noteFlags s.cur.core s.cur.ctx (allFlags raised))
    trapM tFpe (fpeAddr en raised)

end Sys2Proof.Machine
end

