-- ==== Sys2Proof/Machine/Operands.lean ====
section
/-! DEFINITION. How an instruction begins, takes its operands and completes: the operand checks of R109, the registers, queue
ports, rows and masks (R117 to R123), taint (R135), and the outcome of an instruction. -/

namespace Sys2Proof.Machine

/-- An instruction begins: the address after it is formed and no flag has been raised yet. -/
def State.begin (s : State) : State :=
  { s with cur := { s.cur with npc := s.me.pc + wd (2 * s.cur.len), flags := [] } }

/-- An instruction completes: the PC moves on, the port latch is empty and a masked window has counted it (R121, R413). -/
def Ctx.retire (x : Ctx) (npc : Word) : Ctx :=
  { x with pc := npc, latch := [], pend := [], xans := [], relAt := none, waitAt := none,
           masked := x.masked.map fun w => { w with count := w.count + 1 } }

/-- The flags the instruction raised enter FPFLAGS as it completes (R180). -/
def State.retire (s : State) : State :=
  let t := if s.cur.flags = [] then s else s.noteFlags s.cur.core s.cur.ctx (allFlags s.cur.flags)
  t.setMe (t.me.retire t.cur.npc)

/-- The rotation pointer of the slot moves to the CTXID after the one that issued (R94). -/
def State.rotate (s : State) : State :=
  s.modMyCore fun k =>
    if s.cur.engine then { k with engAt := (s.cur.ctx + 1) % 16 } else { k with ctlAt := (s.cur.ctx + 1) % 16 }

/-- Whether a cause of waiting keeps an instruction from issuing: a port without the words or the room it needs (R120). -/
def Block.beforeIssue : Block → Bool
  | .pop _ _ => true
  | .room _ _ => true
  | _ => false

/-- The context at issue is BLOCKED. An instruction that waits for its ports has not issued and takes no slot (R93, R120); one that has
issued has taken its slot, whose pointer moves on (R94). -/
def State.stall (s : State) (why : Block) : State :=
  if why.beforeIssue then s.blockMe why else (s.blockMe why).rotate

/-- The outcome of an instruction's effect: it completes, its context parks with a trap or is BLOCKED, or its task has ended. -/
def finish (m : M Unit) (s : State) : Host.Outcome State Fault Refusal :=
  match m s.begin with
  | .ok _ t => .next t.retire.rotate
  | .error (.trap cause addr) t => .next (t.takeTrap cause addr).rotate
  | .error (.block why) t => .next (t.stall why)
  | .error .ended t => .next t.rotate

/-- What a field of an instruction is (R109, R117, R119, R122, R141, R145). -/
inductive Opnd where
  | none
  /-- A register that is read; a register that is written; a register that is read and written. -/
  | src (n : Nat)
  | dst (n : Nat)
  | both (n : Nat)
  /-- A vector operand. -/
  | row (n : Nat)
  /-- The port of QCNT and the counter of LOOP, which have checks of their own. -/
  | port (n : Nat)
  | ctr (n : Nat)
  deriving DecidableEq, Repr

/-- The number of a register that a field reads, or writes. -/
def Opnd.reads : Opnd → Option Nat
  | .src n => some n
  | .both n => some n
  | .ctr n => some n
  | _ => Option.none

@[inherit_doc Opnd.reads]
def Opnd.writes : Opnd → Option Nat
  | .dst n => some n
  | .both n => some n
  | .ctr n => some n
  | _ => Option.none

/-- A number outside x0 to x(A − 1) and the ports (R117). -/
def outside (alloc n : Nat) : Bool := decide (alloc ≤ n) && decide (n < 24)

/-- The REGBOUND check of a field, or the check that replaces it: the cause of its trap, if it fails (R117, R141, R145). -/
def Opnd.regCheck (alloc : Nat) : Opnd → Option Nat
  | .src n => if outside alloc n then some tRegbound else Option.none
  | .dst n => if outside alloc n then some tRegbound else Option.none
  | .both n => if outside alloc n then some tRegbound else Option.none
  | .port n => if n < 24 then some tIllegal else Option.none
  | .ctr n => if n = 0 ∨ 24 ≤ n then some tIllegal else if alloc ≤ n then some tRegbound else Option.none
  | _ => Option.none

/-- The ROWBOUND check of a field (R122). -/
def Opnd.rowCheck (rows : Nat) : Opnd → Option Nat
  | .row n => if rows ≤ n then some tRowbound else Option.none
  | _ => Option.none

/-- Ports that cannot be read, and ports that cannot be written (R119). -/
def pushOnly (n : Nat) : Bool := n == 24 || n == 26 || n == 28 || n == 30
@[inherit_doc pushOnly] def popOnly (n : Nat) : Bool := n == 27 || n == 29

/-- The direction check of a field (R119). -/
def Opnd.portCheck (o : Opnd) : Option Nat :=
  if (o.reads.any pushOnly) || (o.writes.any popOnly) then some tQueue else Option.none

/-- The first failure among fields taken in order. -/
def firstOf (f : Opnd → Option Nat) : List Opnd → Option Nat
  | [] => Option.none
  | o :: t => match f o with
    | some c => some c
    | Option.none => firstOf f t

/-- The operand checks of R109, one kind at a time over d, a, b: the cause of the trap, if one fails. -/
def operandCheck (x : Ctx) (fields : List Opnd) : Option Nat :=
  match firstOf (Opnd.regCheck x.alloc) fields with
  | some c => some c
  | Option.none => match firstOf (Opnd.rowCheck x.rows) fields with
    | some c => some c
    | Option.none => firstOf Opnd.portCheck fields

/-- The depth of a port in words (R119). -/
def portDepth (q : Nat) : Nat := if q == 0 || q == 2 || q == 4 || q == 5 then 16 else 8

/-- The words q1 holds toward the unit; a DEQW that waits in the unit has left it (R159, R161). -/
def wqWords : List WqCmd → Nat
  | [] => 0
  | c :: t => (if c.waiting.isSome then 0 else if c.item.isSome then 2 else 1) + wqWords t

/-- Results of q7 that are ready in request order (R223). -/
def readySlots : List SfuSlot → Nat
  | [] => 0
  | c :: t => if c.done.isSome then readySlots t + 1 else 0

/-- Words a read of port q would find ready (R120, R141). -/
def Ctx.avail (x : Ctx) (q : Nat) : Nat :=
  match q with
  | 1 => min 8 x.q1r.length
  | 3 => x.q3.length
  | 5 => x.q5.length
  | 7 => readySlots x.q7
  | _ => 0

/-- Free places of port q: its depth less the words it holds, and less the places of q5 that are claimed (R141, R276). Of q1 only the command
words count: its 8 places toward the unit and 8 toward the context are apart. Mark: DESIGN CHOICE (log entry 112). -/
def Ctx.room (x : Ctx) (q : Nat) : Nat :=
  match q with
  | 0 => 16 - x.q0.length
  | 1 => 8 - wqWords x.q1
  | 2 => 16 - x.q2.length
  | 4 => 16 - x.q4.length
  | 5 => 16 - x.q5.length - x.q5claim
  | 6 => 8 - x.q6.length
  | 7 => 8 - x.q7.length
  | _ => 0

/-- The staged data words of q0, in push order (R149). -/
def stagedOf : List Q0Item → List Word
  | [] => []
  | .data w :: t => w :: stagedOf t
  | .send _ :: t => stagedOf t

@[inherit_doc stagedOf]
def Ctx.staged (x : Ctx) : List Word := stagedOf (x.q0.reverse.takeWhile fun i => match i with
    | .data _ => true
    | .send _ => false).reverse

/-- The oldest ready word of port q taken from it (R119). -/
def Ctx.popPort (x : Ctx) (q : Nat) : Option (PWord × Ctx) :=
  match q with
  | 1 => match x.q1r with
    | w :: t => some (⟨w, []⟩, { x with q1r := t })
    | [] => Option.none
  | 3 => match x.q3 with
    | w :: t => some (⟨w, []⟩, { x with q3 := t })
    | [] => Option.none
  | 5 => match x.q5 with
    | w :: t => some (⟨w, []⟩, { x with q5 := t })
    | [] => Option.none
  | 7 => match x.q7 with
    | c :: t => c.done.map fun w => (w, { x with q7 := t })
    | [] => Option.none
  | _ => Option.none

/-- A word pushed to q1: the item of an ENQ that has none yet, which completes the push of its command, or a command (R159, R328). -/
def pushWq (now : Nat) (w : Word) : List WqCmd → List WqCmd
  | [] => [⟨w, Option.none, now, false, Option.none⟩]
  | [c] => if wbits c.word 13 12 = 0 ∧ c.item = Option.none then [{ c with item := some w, since := now }]
      else [c, ⟨w, Option.none, now, false, Option.none⟩]
  | c :: t => c :: pushWq now w t

/-- A word pushed to port q by an instruction that gives it no other meaning (R119, R149, R159, R221, R227). -/
def Ctx.pushPort (x : Ctx) (now : Nat) (q : Nat) (w : Word) : Ctx :=
  match q with
  | 0 => { x with q0 := x.q0 ++ [.data w] }
  | 1 => { x with q1 := pushWq now w x.q1 }
  | 2 => { x with q2 := x.q2 ++ [(w, x.vbase, now)] }
  | 4 => { x with q4 := x.q4 ++ [(w, now, 4)] }
  | 6 => { x with q6 := x.q6 ++ [⟨w, Option.none, now, x.vbase⟩] }
  | 7 => { x with q7 := x.q7 ++ [{ fn := .ident, src := w.toNat, seq := now }] }
  | _ => x

/-- A general register as an instruction reads it; x0 reads zero (R117). -/
def Ctx.reg (x : Ctx) (n : Nat) : Word := if n = 0 then 0#64 else x.regs.get 0#64 n

/-- A general register written with its taint bit; a write to x0 is discarded (R117, R135). -/
def Ctx.setReg (x : Ctx) (n : Nat) (w : Word) (taint : Bool) : Ctx :=
  if n = 0 then x
  else { x with regs := x.regs.set n w,
                taint := if taint then x.taint ||| BitVec.ofNat 32 (2 ^ n) else x.taint &&& ~~~BitVec.ofNat 32 (2 ^ n) }

/-- The taint bit of a general register; ports and x0 carry none (R135). -/
def Ctx.tainted (x : Ctx) (n : Nat) : Bool := decide (0 < n) && decide (n < 24) && x.taint.getLsbD n

/-- A result written to x[n]: a general register, or one word pushed to a port (R117, R120). -/
def Ctx.writeX (x : Ctx) (now n : Nat) (w : Word) (taint : Bool) : Ctx :=
  if n < 24 then x.setReg n w taint else x.pushPort now (n - 24) w

/-- The whole CPYL commands among the words of q4; a malformed command is its header alone (R280). -/
def landings : List (Word × Nat × Nat) → Nat
  | h :: a :: b :: t =>
    if wbits h.1 63 60 = 0 ∨ 4 < wbits h.1 63 60 then landings (a :: b :: t)
    else landings t + (if wbits h.1 63 60 = 2 then 1 else 0)
  | _ => 0

/-- The words of a matrix command by its OP, none where the OP is invalid (R306). -/
def mxWords (op : Nat) : Option Nat :=
  match op with
  | 2 => some 2
  | 4 => some 2
  | 8 => some 3
  | n => if n = 0 ∨ 8 < n then none else some 1

/-- The whole commands among the words of q2, and among those of q4 (R280, R306). -/
def wholeQ2 : List (Word × Nat × Nat) → List (Word × Nat × Nat)
  | [] => []
  | [a] => if ((mxWords (wbits a.1 3 0)).getD 1) = 1 then [a] else []
  | [a, b] => match (mxWords (wbits a.1 3 0)).getD 1 with
    | 1 => a :: wholeQ2 [b]
    | 2 => [a, b]
    | _ => []
  | a :: b :: c :: t => match (mxWords (wbits a.1 3 0)).getD 1 with
    | 1 => a :: wholeQ2 (b :: c :: t)
    | 2 => a :: b :: wholeQ2 (c :: t)
    | _ => a :: b :: c :: wholeQ2 t

@[inherit_doc wholeQ2]
def wholeQ4 : List (Word × Nat × Nat) → List (Word × Nat × Nat)
  | [] => []
  | h :: t =>
    if wbits h.1 63 60 = 0 ∨ 4 < wbits h.1 63 60 then h :: wholeQ4 t
    else match t with
      | a :: b :: t => h :: a :: b :: wholeQ4 t
      | _ => []

/-- The context at issue after a push: each CPYL command that the push completes counts on its launch (R91). -/
def State.pushed (s : State) (x : Ctx) : State :=
  let n := landings x.q4 - landings s.me.q4
  let s := s.setMe x
  if n = 0 then s else s.count x.lkey s.cur.core (· + n)

@[inherit_doc Ctx.writeX]
def writeX (n : Nat) (w : Word) (taint : Bool := false) : M Unit :=
  modify fun s => s.pushed (s.me.writeX s.clock n w taint)

/-- The accumulator row that vector operand n names (R122). -/
def Ctx.rowIdx (x : Ctx) (vbase n : Nat) : Nat := x.rowBase + (vbase + n) % x.rows

def Core.row (k : Core) (r : Nat) : Row := k.rows.get 0#2048 r
def Core.setRow (k : Core) (r : Nat) (v : Row) : Core := { k with rows := k.rows.set r v }

/-- The row of vector operand n of the context at issue, and its writing. -/
def readRow (n : Nat) : M Row := do
  let s ← get
  return s.myCore.row (s.me.rowIdx s.me.vbase n)

@[inherit_doc readRow]
def writeRow (n : Nat) (v : Row) : M Unit :=
  modify fun s => s.modMyCore fun k => k.setRow (s.me.rowIdx s.me.vbase n) v

/-- A mask register, and its writing (R123). -/
def Ctx.mask (x : Ctx) (n : Nat) : Mask := x.masks.get 0#256 n
def Ctx.setMask (x : Ctx) (n : Nat) (m : Mask) : Ctx := { x with masks := x.masks.set n m }

/-- The governing mask of K; 0 is unmasked (R104, R123). -/
def Ctx.governing (x : Ctx) (k : Nat) : Option Mask := if k = 0 then Option.none else some (x.mask k)

/-- The values of the fields d, a and b that are read; 0 for the others. -/
structure Vals where
  d : Word := 0#64
  a : Word := 0#64
  b : Word := 0#64
  deriving DecidableEq, Repr

/-- The port that a field takes a word from. -/
def Opnd.popsFrom (o : Opnd) : Option Nat :=
  match o.reads with
  | some n => if 24 ≤ n then some (n - 24) else Option.none
  | Option.none => Option.none

/-- The port that a field pushes a word to. -/
def Opnd.pushesTo (o : Opnd) : Option Nat :=
  match o.writes with
  | some n => if 24 ≤ n then some (n - 24) else Option.none
  | Option.none => Option.none

/-- The first port that holds fewer words than the instruction takes from it (R120). -/
def shortPop (x : Ctx) : List Nat → List Nat → Option (Nat × Nat)
  | _, [] => Option.none
  | seen, q :: t =>
    let n := seen.count q + 1
    if x.avail q < n then some (q, n) else shortPop x (q :: seen) t

/-- Words taken from ports in order, into the port latch (R120, R121). -/
def Ctx.popAll (x : Ctx) : List Nat → Ctx
  | [] => x
  | q :: t => match x.popPort q with
    | some (w, y) => Ctx.popAll { y with latch := y.latch ++ [w] } t
    | Option.none => Ctx.popAll x t

/-- The value of a field that is read, and the latch words after it. -/
def Opnd.value (x : Ctx) (o : Opnd) (l : List PWord) : Word × List PWord :=
  match o.reads with
  | Option.none => (0#64, l)
  | some n =>
    if n < 24 then (x.reg n, l)
    else match l with
      | w :: t => (w.w, t)
      | [] => (0#64, [])

/-- The values of the fields, their ports taken in the order a, b, d (R120). -/
def valsOf (x : Ctx) (d a b : Opnd) : Vals :=
  let va := a.value x x.latch
  let vb := b.value x va.2
  let vd := d.value x vb.2
  ⟨vd.1, va.1, vb.1⟩

/-- The flags that came with the words of the latch (R182). -/
def latchFlags : List PWord → List (Nat × FlagBits)
  | [] => []
  | w :: t => w.flags ++ latchFlags t

/-- The operand checks of the instruction at issue. -/
def checkFields (fields : List Opnd) : M Unit := do
  match operandCheck (← getMe) fields with
  | some c => trapM c
  | Option.none => pure ()

/-- The context waits until every port it takes words from holds them and every port it pushes to has room for them; extra gives
the places an instruction pushes to beside its destination (R120). -/
def awaitPorts (d a b : Opnd) (extra : List (Nat × Nat)) : M Unit := do
  let x ← getMe
  let need := ([a, b, d].filterMap Opnd.popsFrom).drop x.latch.length
  match shortPop x [] need with
  | some (q, n) => blockM (.pop q n)
  | Option.none => pure ()
  match (([d, a, b].filterMap Opnd.pushesTo).map (fun q => (q, 1)) ++ extra).find? fun p => decide (x.room p.1 < p.2) with
  | some (q, n) => blockM (.room q n)
  | Option.none => pure ()

/-- The flags of matrix completions enter the context's matrix status as their words are popped (R308). -/
def noteMatrix (words : List Word) : M Unit :=
  if words = [] then pure ()
  else modify fun s => s.modMyCore fun k =>
    let m := k.mx.get {} s.cur.ctx
    { k with mx := k.mx.set s.cur.ctx { m with fl := words.foldl (fun f w => f ||| wbits w 14 12) m.fl } }

/-- Whether an instruction's result would be a seventh staged word of q0 (R149). -/
def Ctx.overstaged (x : Ctx) (fields : List Opnd) : Bool :=
  (fields.filterMap Opnd.pushesTo).contains 0 && decide (6 ≤ x.staged.length)

/-- The words are popped together into the port latch and the values are read (R120, R121). What the words complete happened before
every later access (R328). -/
def popVals (d a b : Opnd) : M Vals := do
  let x ← getMe
  let need := ([a, b, d].filterMap Opnd.popsFrom).drop x.latch.length
  let now := (← get).clock
  let y := if need = [] then x else { x.popAll need with acqStamp := now }
  setMe y
  noteMatrix (x.q3.take (need.count 3))
  return valsOf y d a b

/-- A result that would be a seventh staged word traps QUEUE (R149). -/
def needStage (fields : List Opnd) : M Unit := do
  guardM ((← getMe).overstaged fields) tQueue

/-- The words are popped and the staged words are counted. The seventh staged word is refused here, ahead of the instruction's own
traps: the spec orders it against none of them but those of MOVX and STBIND. Mark: DESIGN CHOICE (log entry 90). -/
def takeVals (d a b : Opnd) : M Vals := do
  let v ← popVals d a b
  needStage [d, a, b]
  return v

/-- The level check of R109. -/
def needLevel (lvl : Level) : M Unit := do
  let s ← get
  if (s.levelOf s.cur.core s.me).rank < lvl.rank then trapM tPriv

/-- The operand stage without the flags of popped words, for the instructions that raise flags of their own with them. bad is the
cause of a check that the instruction makes on its fields alone: it comes with its effect, once it issues (R109, R120), so that what it
has popped stays in the latch (R121). -/
def operandsRaw (d a b : Opnd) (extra : List (Nat × Nat) := []) (bad : Option Nat := Option.none) : M Vals := do
  checkFields [d, a, b]
  awaitPorts d a b extra
  let v ← takeVals d a b
  match bad with
  | some c => trapM c
  | Option.none => return v

/-- The operand stage of an instruction whose own checks come before its result is written (R146, R164): the seventh staged word is
left to needStage. -/
def operandsLate (d a b : Opnd) : M Vals := do
  checkFields [d, a, b]
  awaitPorts d a b []
  popVals d a b

/-- The flags of the words in the latch are raised with the instruction's own (R182). -/
def raiseWith (lanes : List (Nat × FlagBits)) : M Unit := do
  raiseFlags (latchFlags (← getMe).latch ++ lanes)

/-- The operand stage: the checks of R109, the wait of R120, the pops, and the flags that came with popped words. -/
def operands (d a b : Opnd) (extra : List (Nat × Nat) := []) (bad : Option Nat := Option.none) : M Vals := do
  let v ← operandsRaw d a b extra bad
  raiseWith []
  return v

/-- The cause of a check on an instruction's fields. -/
def badIf (c : Bool) (cause : Nat) : Option Nat := if c then some cause else Option.none

/-- The OR of the taint bits of the general registers that the fields read (R135). -/
def taintOf (x : Ctx) (fields : List Opnd) : Bool := fields.any fun o => o.reads.any x.tainted

end Sys2Proof.Machine
end

