-- ==== Sys2Proof/Machine/Fetch.lean ====
section
/-! DEFINITION. What a context executes next: the words in the fetch buffer, the instruction they decode to, and which context each
issue slot of a core takes (R93 to R98, R109, R413). -/

namespace Sys2Proof.Machine

/-- Whether an address lies in the global window (R232). -/
def inGlobal (a : Nat) : Bool := decide (Config.globalBase ≤ a) && decide (a < 2 ^ 57)

/-- The word at an address in a core's fetch buffer, none when its line is not there or the address is not in the global window
(R95, R96). Of changed code it is the value that the line holds until the steps of R97 are done. Mark: DESIGN CHOICE (log entry 111). -/
def Core.codeWord (k : Core) (part job va : Nat) : Option Half :=
  if inGlobal va then
    (k.fetch.find? fun l => l.part == part && l.job == job && l.va == va / 64 * 64).map fun l =>
      BitVec.ofNat 16 (fieldAt l.data (va % 64) 2)
  else none

/-- The words from an address on, up to n of them, that the fetch buffer holds. -/
def Core.codeWords (k : Core) (part job : Nat) : Nat → Nat → List Half
  | 0, _ => []
  | n + 1, va => match k.codeWord part job va with
    | some w => w :: Core.codeWords k part job n ((va + 2) % 2 ^ 64)
    | none => []

/-- What the decoder makes of the words at a context's PC; a chain has at most five prefix words before it is refused. -/
def Core.peek (k : Core) (x : Ctx) : Decoded := decode (k.codeWords x.part x.job 6 x.pc.toNat)

/-- The slot of an instruction: the engine slot takes pages 1 to 4 (R93). -/
def engineSlot (i : Instr) : Bool :=
  match layout i with
  | some l => decide (1 ≤ l.page) && decide (l.page ≤ 4)
  | none => false

/-- The slot of what a context executes next, none while it does not compete (R93). A chain that does not decode competes for the
control slot. -/
def Core.slotOf (k : Core) (x : Ctx) : Option Bool :=
  if x.st ≠ .running ∨ k.halted = true then none
  else match k.peek x with
    | .ok i _ => some (engineSlot i)
    | .bad _ => some false
    | .need _ => none

/-- The contexts of a core that compete for a slot, in CTXID order. -/
def Core.competing (k : Core) (engine : Bool) : List (Nat × Bool) :=
  k.ctxs.filterMap fun p => if k.slotOf p.2 = some engine then some (p.1, p.2.pri) else none

/-- The first number at or after a pointer, wrapping. -/
def atOrAfter (ptr : Nat) (l : List Nat) : Option Nat :=
  match l.find? fun n => decide (ptr ≤ n) with
  | some n => some n
  | none => l.head?

/-- The context a slot takes (R94). -/
def Core.choose (k : Core) (engine : Bool) : Option Nat :=
  let c := k.competing engine
  let h := (c.filter fun p => p.2).map fun p => p.1
  atOrAfter (if engine then k.engAt else k.ctlAt) (if h.isEmpty then c.map fun p => p.1 else h)

/-- The slot that issues when the agenda is empty: the lowest core that has one, its control slot first. -/
def State.turn (s : State) : Option (Nat × Nat × Bool) :=
  s.cores.findSome? fun p =>
    match p.2.choose false with
    | some c => some (p.1, c, false)
    | none => (p.2.choose true).map fun c => (p.1, c, true)

/-- The context whose fetch is filled when the agenda is empty and nothing competes: a RUNNING one that lacks a word. -/
def State.fetchTurn (s : State) : Option (Nat × Nat) :=
  s.cores.findSome? fun p =>
    if p.2.halted then none
    else (p.2.ctxs.find? fun c => c.2.st == .running && (p.2.slotOf c.2).isNone).map fun c => (p.1, c.1)

/-- What issues: an instruction with its length, a chain that names none, a masked window that has reached a limit, or nothing. -/
inductive Issue where
  | run (i : Instr) (len : Nat)
  | undefined (c : UndefCause)
  | maskLimit
  | nothing
  deriving DecidableEq, Repr

/-- Whether a masked window has let its 256 instructions issue (R413). -/
def Ctx.maskFull (x : Ctx) : Bool := x.masked.any fun w => decide (257 ≤ w.count)

/-- Whether a masked window has stayed open for 64 µs (R413). -/
def Ctx.maskLate (x : Ctx) (now : Nat) : Bool := x.masked.any fun w => decide (w.since + Config.us 64 ≤ now)

/-- What a chosen context issues. A chain that names no instruction issues UNDEF (R111). In a masked window that has reached either
limit MASKLEN comes instead, but for the UNMASKW that may be the 257th instruction (R413). -/
def Core.issue (k : Core) (x : Ctx) (now : Nat) : Issue :=
  match k.peek x with
  | .ok i n => if x.maskLate now || (x.maskFull && i != .unmaskw) then .maskLimit else .run i n
  | .bad c => if x.maskLate now || x.maskFull then .maskLimit else .undefined c
  | .need _ => .nothing

/-- The state at which an instruction issues: the cursor stands at its context and a cycle has passed. -/
def State.atIssue (s : State) (core ctx len : Nat) (engine : Bool) : State :=
  { s with clock := s.clock + 1, cur := { core := core, ctx := ctx, len := len, engine := engine } }

/-- Whether a constructor is a step of another agent, which the agenda may name. -/
def isStep (i : Instr) : Bool :=
  match i with
  | .undef _ => false
  | _ => (layout i).isNone

end Sys2Proof.Machine
end

