-- ==== Sys2Proof/Machine/Scalar.lean ====
section
/-! DEFINITION. The scalar instructions of page 0: three-register and immediate operations, constants, the unary group, bit fields,
branches, calls and loops, and relative register access (R134 to R146). -/

namespace Sys2Proof.Machine

/-- What an instruction or a step answers. -/
abbrev Out := Host.Outcome State Fault Refusal

/-- The three-register form: x[d] := f x[a] x[b], tainted by the registers read (R135, R136). -/
def alu2 (f : Word → Word → Word) (d a b : Nat) : M Unit := do
  let taint := taintOf (← getMe) [.src a, .src b]
  let v ← operands (.dst d) (.src a) (.src b)
  writeX d (f v.a v.b) taint

/-- The form of one register and an immediate, or of one register: x[d] := f x[a] (R138, R140). -/
def alu1 (f : Word → Word) (d a : Nat) (bad : Option Nat := none) : M Unit := do
  let taint := taintOf (← getMe) [.src a]
  let v ← operands (.dst d) (.src a) .none [] bad
  writeX d (f v.a) taint

/-- The low n bits of a word, sign-extended (R9). -/
def sextW (w : Word) (n : Nat) : Word := w64 (intVal true n (w.toNat % 2 ^ n))

/-- The low n bits of a word, zero-extended (R9). -/
def zextW (w : Word) (n : Nat) : Word := wd (w.toNat % 2 ^ n)

/-- Shift and rotate amounts (R136). -/
def shAmount (b : Word) : Nat := b.toNat % 64

/-- The operations of R136 and R137 that the word type does not name. -/
def srlW (a b : Word) : Word := a >>> shAmount b
@[inherit_doc srlW] def sllW (a b : Word) : Word := a <<< shAmount b
@[inherit_doc srlW] def sraW (a b : Word) : Word := a.sshiftRight (shAmount b)
@[inherit_doc srlW] def rolW (a b : Word) : Word := a.rotateLeft (shAmount b)
@[inherit_doc srlW] def mulhW (a b : Word) : Word := w64 (sg a * sg b / 2 ^ 64)
@[inherit_doc srlW] def mulhuW (a b : Word) : Word := wd (ug a * ug b / 2 ^ 64)
@[inherit_doc srlW] def divW (a b : Word) : Word := if b = 0#64 then 0xFFFFFFFFFFFFFFFF#64 else w64 ((sg a).tdiv (sg b))
@[inherit_doc srlW] def divuW (a b : Word) : Word := if b = 0#64 then 0xFFFFFFFFFFFFFFFF#64 else wd (ug a / ug b)
@[inherit_doc srlW] def remW (a b : Word) : Word := if b = 0#64 then a else w64 (sg a - sg b * (sg a).tdiv (sg b))
@[inherit_doc srlW] def remuW (a b : Word) : Word := if b = 0#64 then a else wd (ug a % ug b)
@[inherit_doc srlW] def minW (a b : Word) : Word := if sg a ≤ sg b then a else b
@[inherit_doc srlW] def maxW (a b : Word) : Word := if sg a ≤ sg b then b else a
@[inherit_doc srlW] def minuW (a b : Word) : Word := if ug a ≤ ug b then a else b
@[inherit_doc srlW] def maxuW (a b : Word) : Word := if ug a ≤ ug b then b else a
@[inherit_doc srlW] def seqW (a b : Word) : Word := boolWord (decide (a = b))
@[inherit_doc srlW] def sneW (a b : Word) : Word := boolWord (decide (a ≠ b))
@[inherit_doc srlW] def sltW (a b : Word) : Word := boolWord (decide (sg a < sg b))
@[inherit_doc srlW] def sltuW (a b : Word) : Word := boolWord (decide (ug a < ug b))
@[inherit_doc srlW] def sleW (a b : Word) : Word := boolWord (decide (sg a ≤ sg b))
@[inherit_doc srlW] def sleuW (a b : Word) : Word := boolWord (decide (ug a ≤ ug b))
@[inherit_doc srlW] def addwW (a b : Word) : Word := sextW (a + b) 32

/-- Counts of zero and one bits (R140). -/
def clzW (v : Word) : Word := wd (if v = 0#64 then 64 else 63 - Nat.log2 v.toNat)
@[inherit_doc clzW] def ctzW (v : Word) : Word := wd (((List.range 64).find? fun i => v.getLsbD i).getD 64)
@[inherit_doc clzW] def popcW (v : Word) : Word := wd (((List.range 64).filter fun i => v.getLsbD i).length)

/-- Byte i of v in byte 7 − i (R140). -/
def bswapW (v : Word) : Word := wd (leNat (leBytes 8 v.toNat).reverse)

/-- ADD (R136). -/
def execAdd (d a b : Nat) (s : State) : Out := finish (alu2 (· + ·) d a b) s

/-- SUB (R136). -/
def execSub (d a b : Nat) (s : State) : Out := finish (alu2 (· - ·) d a b) s

/-- AND (R136). -/
def execAnd (d a b : Nat) (s : State) : Out := finish (alu2 (· &&& ·) d a b) s

/-- OR (R136). -/
def execOr (d a b : Nat) (s : State) : Out := finish (alu2 (· ||| ·) d a b) s

/-- XOR (R136). -/
def execXor (d a b : Nat) (s : State) : Out := finish (alu2 (· ^^^ ·) d a b) s

/-- SHL (R136). -/
def execShl (d a b : Nat) (s : State) : Out := finish (alu2 sllW d a b) s

/-- SHR (R136). -/
def execShr (d a b : Nat) (s : State) : Out := finish (alu2 srlW d a b) s

/-- SRA (R136). -/
def execSra (d a b : Nat) (s : State) : Out := finish (alu2 sraW d a b) s

/-- MUL (R136). -/
def execMul (d a b : Nat) (s : State) : Out := finish (alu2 (· * ·) d a b) s

/-- MULH (R136). -/
def execMulh (d a b : Nat) (s : State) : Out := finish (alu2 mulhW d a b) s

/-- MULHU (R136). -/
def execMulhu (d a b : Nat) (s : State) : Out := finish (alu2 mulhuW d a b) s

/-- ROL (R136). -/
def execRol (d a b : Nat) (s : State) : Out := finish (alu2 rolW d a b) s

/-- DIV (R136, R137). -/
def execDiv (d a b : Nat) (s : State) : Out := finish (alu2 divW d a b) s

/-- DIVU (R136, R137). -/
def execDivu (d a b : Nat) (s : State) : Out := finish (alu2 divuW d a b) s

/-- REM (R136, R137). -/
def execRem (d a b : Nat) (s : State) : Out := finish (alu2 remW d a b) s

/-- REMU (R136, R137). -/
def execRemu (d a b : Nat) (s : State) : Out := finish (alu2 remuW d a b) s

/-- MIN (R136). -/
def execMin (d a b : Nat) (s : State) : Out := finish (alu2 minW d a b) s

/-- MAX (R136). -/
def execMax (d a b : Nat) (s : State) : Out := finish (alu2 maxW d a b) s

/-- MINU (R136). -/
def execMinu (d a b : Nat) (s : State) : Out := finish (alu2 minuW d a b) s

/-- MAXU (R136). -/
def execMaxu (d a b : Nat) (s : State) : Out := finish (alu2 maxuW d a b) s

/-- SEQ (R136). -/
def execSeq (d a b : Nat) (s : State) : Out := finish (alu2 seqW d a b) s

/-- SNE (R136). -/
def execSne (d a b : Nat) (s : State) : Out := finish (alu2 sneW d a b) s

/-- SLT (R136). -/
def execSlt (d a b : Nat) (s : State) : Out := finish (alu2 sltW d a b) s

/-- SLTU (R136). -/
def execSltu (d a b : Nat) (s : State) : Out := finish (alu2 sltuW d a b) s

/-- SLE (R136). -/
def execSle (d a b : Nat) (s : State) : Out := finish (alu2 sleW d a b) s

/-- SLEU (R136). -/
def execSleu (d a b : Nat) (s : State) : Out := finish (alu2 sleuW d a b) s

/-- SEL (R136): x[b] if x[a] is not zero, else x[d] as it was; a port named by d is popped and pushed. -/
def execSel (d a b : Nat) (s : State) : Out :=
  finish (do
    let taint := taintOf (← getMe) [.both d, .src a, .src b]
    let v ← operands (.both d) (.src a) (.src b)
    writeX d (if v.a = 0#64 then v.d else v.b) taint) s

/-- ADDW (R136). -/
def execAddw (d a b : Nat) (s : State) : Out := finish (alu2 addwW d a b) s

/-- ADDI (R138). -/
def execAddi (d a : Nat) (imm : Int) (s : State) : Out := finish (alu1 (fun x => x + w64 imm) d a) s

/-- ANDI (R138). -/
def execAndi (d a : Nat) (imm : Int) (s : State) : Out := finish (alu1 (fun x => x &&& w64 imm) d a) s

/-- ORI (R138). -/
def execOri (d a : Nat) (imm : Int) (s : State) : Out := finish (alu1 (fun x => x ||| w64 imm) d a) s

/-- XORI (R138). -/
def execXori (d a : Nat) (imm : Int) (s : State) : Out := finish (alu1 (fun x => x ^^^ w64 imm) d a) s

/-- SHLI (R138): an immediate above 63 traps ILLEGAL. -/
def execShli (d a imm : Nat) (s : State) : Out :=
  finish (alu1 (fun x => x <<< imm) d a (badIf (decide (63 < imm)) tIllegal)) s

/-- SHRI (R138): an immediate above 63 traps ILLEGAL. -/
def execShri (d a imm : Nat) (s : State) : Out :=
  finish (alu1 (fun x => x >>> imm) d a (badIf (decide (63 < imm)) tIllegal)) s

/-- SRAI (R138): an immediate above 63 traps ILLEGAL. -/
def execSrai (d a imm : Nat) (s : State) : Out :=
  finish (alu1 (fun x => x.sshiftRight imm) d a (badIf (decide (63 < imm)) tIllegal)) s

/-- LI (R139). -/
def execLi (d : Nat) (imm : Int) (s : State) : Out :=
  finish (do
    let _ ← operands (.dst d) .none .none
    writeX d (w64 imm)) s

/-- LIH (R139): reads d as SEL does; an immediate of 2^32 or more traps ILLEGAL. -/
def execLih (d imm : Nat) (s : State) : Out :=
  finish (do
    let taint := taintOf (← getMe) [.both d]
    let v ← operands (.both d) .none .none [] (badIf (decide (2 ^ 32 ≤ imm)) tIllegal)
    writeX d (wd (imm * 2 ^ 32 + v.d.toNat % 2 ^ 32)) taint) s

/-- MOV (R140). -/
def execMov (d a : Nat) (s : State) : Out := finish (alu1 (fun v => v) d a) s

/-- NEG (R140). -/
def execNeg (d a : Nat) (s : State) : Out := finish (alu1 (fun v => -v) d a) s

/-- NOT (R140). -/
def execNot (d a : Nat) (s : State) : Out := finish (alu1 (fun v => ~~~v) d a) s

/-- CLZ (R140). -/
def execClz (d a : Nat) (s : State) : Out := finish (alu1 clzW d a) s

/-- CTZ (R140). -/
def execCtz (d a : Nat) (s : State) : Out := finish (alu1 ctzW d a) s

/-- POPC (R140). -/
def execPopc (d a : Nat) (s : State) : Out := finish (alu1 popcW d a) s

/-- BSWAP (R140). -/
def execBswap (d a : Nat) (s : State) : Out := finish (alu1 bswapW d a) s

/-- SEXTB (R140). -/
def execSextb (d a : Nat) (s : State) : Out := finish (alu1 (fun v => sextW v 8) d a) s

/-- SEXTH (R140). -/
def execSexth (d a : Nat) (s : State) : Out := finish (alu1 (fun v => sextW v 16) d a) s

/-- SEXTW (R140). -/
def execSextw (d a : Nat) (s : State) : Out := finish (alu1 (fun v => sextW v 32) d a) s

/-- ZEXTB (R140). -/
def execZextb (d a : Nat) (s : State) : Out := finish (alu1 (fun v => zextW v 8) d a) s

/-- ZEXTH (R140). -/
def execZexth (d a : Nat) (s : State) : Out := finish (alu1 (fun v => zextW v 16) d a) s

/-- ZEXTW (R140). -/
def execZextw (d a : Nat) (s : State) : Out := finish (alu1 (fun v => zextW v 32) d a) s

/-- The port occupancy word of R141. -/
def qcntWord (x : Ctx) (q : Nat) : Word :=
  wd (x.avail q % 32 + (if popOnly (q + 24) then 0 else x.room q % 32) * 2 ^ 8 + (if q = 0 then x.staged.length % 8 * 2 ^ 16 else 0))

/-- QCNT (R141): a snapshot of a port, untainted. -/
def execQcnt (d a : Nat) (s : State) : Out :=
  finish (do
    let _ ← operands (.dst d) (.port a) .none
    writeX d (qcntWord (← getMe) (a - 24))) s

/-- The fields of a bit-field immediate (R142). -/
def bfPos (imm : Nat) : Nat := imm % 64
@[inherit_doc bfPos] def bfWidth (imm : Nat) : Nat := imm / 64 % 64 + 1
@[inherit_doc bfPos] def bfSext (imm : Nat) : Bool := imm / 4096 % 2 == 1

/-- An immediate of 2^13 or more, or a field past bit 63, traps ILLEGAL; so does SX on BFI (R142). -/
def bfBad (insert : Bool) (imm : Nat) : Option Nat :=
  badIf (decide (2 ^ 13 ≤ imm) || decide (64 < bfPos imm + bfWidth imm) || (insert && bfSext imm)) tIllegal

/-- The field of a word (R142). -/
def bfxW (imm : Nat) (x : Word) : Word :=
  let f := x.toNat / 2 ^ bfPos imm % 2 ^ bfWidth imm
  if bfSext imm then w64 (intVal true (bfWidth imm) f) else wd f

/-- A word with a field replaced by the low bits of another (R142). -/
def bfiW (imm : Nat) (old x : Word) : Word :=
  let m := wd ((2 ^ bfWidth imm - 1) * 2 ^ bfPos imm)
  (old &&& ~~~m) ||| ((x <<< bfPos imm) &&& m)

/-- BFX (R142). -/
def execBfx (d a imm : Nat) (s : State) : Out := finish (alu1 (bfxW imm) d a (bfBad false imm)) s

/-- BFI (R142): reads d. -/
def execBfi (d a imm : Nat) (s : State) : Out :=
  finish (do
    let taint := taintOf (← getMe) [.both d, .src a]
    let v ← operands (.both d) (.src a) .none [] (bfBad true imm)
    writeX d (bfiW imm v.d v.a) taint) s

/-- The target of a branch: pc_first + 2 × imm, modulo 2^64 (R143). -/
def branchTarget (pc : Word) (imm : Int) : Word := pc + w64 (2 * imm)

/-- A branch on one register, or on two (R143). -/
def branch1 (f : Word → Bool) (a : Nat) (imm : Int) : M Unit := do
  let v ← operands .none (.src a) .none
  if f v.a then jumpTo (branchTarget (← getMe).pc imm)

@[inherit_doc branch1]
def branch2 (f : Word → Word → Bool) (a b : Nat) (imm : Int) : M Unit := do
  let v ← operands .none (.src a) (.src b)
  if f v.a v.b then jumpTo (branchTarget (← getMe).pc imm)

/-- BEZ (R143). -/
def execBez (a : Nat) (imm : Int) (s : State) : Out := finish (branch1 (fun x => decide (x = 0#64)) a imm) s

/-- BNZ (R143). -/
def execBnz (a : Nat) (imm : Int) (s : State) : Out := finish (branch1 (fun x => decide (x ≠ 0#64)) a imm) s

/-- BEQ (R143). -/
def execBeq (a b : Nat) (imm : Int) (s : State) : Out := finish (branch2 (fun x y => decide (x = y)) a b imm) s

/-- BNE (R143). -/
def execBne (a b : Nat) (imm : Int) (s : State) : Out := finish (branch2 (fun x y => decide (x ≠ y)) a b imm) s

/-- BLT (R143). -/
def execBlt (a b : Nat) (imm : Int) (s : State) : Out := finish (branch2 (fun x y => decide (sg x < sg y)) a b imm) s

/-- BGE (R143). -/
def execBge (a b : Nat) (imm : Int) (s : State) : Out := finish (branch2 (fun x y => decide (sg y ≤ sg x)) a b imm) s

/-- BLTU (R143). -/
def execBltu (a b : Nat) (imm : Int) (s : State) : Out := finish (branch2 (fun x y => decide (ug x < ug y)) a b imm) s

/-- BGEU (R143). -/
def execBgeu (a b : Nat) (imm : Int) (s : State) : Out := finish (branch2 (fun x y => decide (ug y ≤ ug x)) a b imm) s

/-- B (R143). -/
def execB (imm : Int) (s : State) : Out :=
  finish (do
    jumpTo (branchTarget (← getMe).pc imm)) s

/-- CALL (R143): the return address goes to x7, untainted (R135). -/
def execCall (imm : Int) (s : State) : Out :=
  finish (do
    let t ← get
    writeX 7 t.cur.npc
    jumpTo (branchTarget t.me.pc imm)) s

/-- The counted branch of LOOP, with its rotation step m (R145). -/
def loopBy (m d : Nat) (imm : Int) : M Unit := do
  let x ← getMe
  let v ← operands (.ctr d) .none .none
  guardM (decide (m ≠ 0) && decide (x.rows = 0)) tRowbound
  let c := v.d - 1#64
  writeX d c (x.tainted d)
  if m ≠ 0 then modMe fun y => { y with vbase := (y.vbase + m) % y.rows }
  if c ≠ 0#64 then jumpTo (branchTarget x.pc imm)

/-- LOOP without a step (R145). -/
def execLoop (d : Nat) (imm : Int) (s : State) : Out := finish (loopBy 0 d imm) s

/-- LOOP with the rotation step that its PFX.P carries (R145). -/
def execLoopStep (m d : Nat) (imm : Int) (s : State) : Out := finish (loopBy m d imm) s

/-- The computed index of MOVX and MOVXW; outside 1 to A − 1 it traps REGBOUND with the index as TRAPADDR (R118, R146). -/
def relIndex (imm : Nat) (a : Word) : M Nat := do
  let i : Int := imm + sg a
  guardM (decide (i < 1) || decide (((← getMe).alloc : Int) ≤ i)) tRegbound (w64 i)
  return i.toNat

/-- MOVX (R146): the index is checked before x[d] is written, so ahead of a seventh staged word. -/
def execMovx (d a imm : Nat) (s : State) : Out :=
  finish (do
    let x ← getMe
    let v ← operandsLate (.dst d) (.src a) .none
    raiseWith []
    let i ← relIndex imm v.a
    needStage [.dst d]
    writeX d (x.reg i) (x.tainted a || x.tainted i)) s

/-- MOVXW (R146). -/
def execMovxw (d a imm : Nat) (s : State) : Out :=
  finish (do
    let x ← getMe
    let v ← operands (.src d) (.src a) .none
    let i ← relIndex imm v.a
    writeX i v.d (x.tainted a || x.tainted d)) s

/-- A register jump: a target with bit 0 set traps ALIGN, and neither PC nor x7 changes (R144). -/
def jumpReg (t : Word) : M Unit := do
  guardM (t.getLsbD 0) tAlign t
  jumpTo t

/-- JR (R144). -/
def execJr (a : Nat) (s : State) : Out :=
  finish (do
    let v ← operands .none (.src a) .none
    jumpReg v.a) s

/-- CALLR (R144): x[a] is read before x7 is written. -/
def execCallr (a : Nat) (s : State) : Out :=
  finish (do
    let v ← operands .none (.src a) .none
    let npc := (← get).cur.npc
    jumpReg v.a
    writeX 7 npc) s

/-- RET (R144). -/
def execRet (s : State) : Out :=
  finish (do
    jumpReg ((← getMe).reg 7)) s

end Sys2Proof.Machine
end

