-- ==== Sys2Proof/Machine/Vector.lean ====
section
/-! DEFINITION. The vector and mask instructions of page 1 but VCHAIN (R195 to R216). -/

namespace Sys2Proof.Machine

/-- The element type of an instruction: its m5, or VTYPE where that is 0 (R113). -/
def Ctx.elemType (x : Ctx) (t : Nat) : Nat := if t = 0 then x.vtype else t

/-- The cause of a type that an instruction does not accept, VTYPE 0 or reserved included (R113, R196). -/
def Ctx.typeBad (x : Ctx) (t : Nat) (accepts : Nat → Bool) : Option Nat := badIf (!accepts (x.elemType t)) tIllegal

/-- Lanes written to row d; lanes without a result keep their value (R197). -/
def writeLanes (d w : Nat) (out : LaneOut) : M Unit := do
  writeRow d (putLanes w (← readRow d) out)

/-- Lanes written to row d after the flags they raise (R181, R198). -/
def finishLanes (d w : Nat) (out : LaneOut) : M Unit := do
  raiseFlags (flagLanes out)
  writeLanes d w out

/-- The two-operand form (R200, R214). -/
def vec2 (o : VOp2) (t d a b k : Nat) : M Unit := do
  let x ← getMe
  let ty := x.elemType t
  let w := laneBits ty
  let _ ← operands (.row d) (.row a) (.row b) [] (x.typeBad t o.accepts)
  let ra ← readRow a
  let rb ← readRow b
  finishLanes d w (lanesOf (laneCount ty) (x.governing k) fun i => o.lane x.fpEnv ty (codeAt ty ra i) (codeAt ty rb i))

/-- The fused form, which reads d as its addend (R202). -/
def vecFused (negp negc : Bool) (t d a b k : Nat) : M Unit := do
  let x ← getMe
  let ty := x.elemType t
  let w := laneBits ty
  let _ ← operands (.row d) (.row a) (.row b) [] (x.typeBad t isFPInt)
  let ra ← readRow a
  let rb ← readRow b
  let rd ← readRow d
  finishLanes d w (lanesOf (laneCount ty) (x.governing k) fun i =>
    fusedLane x.fpEnv ty negp negc (laneAt w ra i) (laneAt w rb i) (laneAt w rd i))

/-- The unary form (R203). -/
def vec1 (o : VOp1) (t d a k : Nat) : M Unit := do
  let x ← getMe
  let ty := x.elemType t
  let w := laneBits ty
  let _ ← operands (.row d) (.row a) .none [] (x.typeBad t o.accepts)
  let ra ← readRow a
  finishLanes d w (lanesOf (laneCount ty) (x.governing k) fun i => o.lane x.fpEnv ty (codeAt ty ra i))

/-- The compare form: bits of inactive lanes and from L up are 0 (R204). -/
def vecCmp (o : VCmp) (t d a b k : Nat) : M Unit := do
  let x ← getMe
  let ty := x.elemType t
  let w := laneBits ty
  let _ ← operands .none (.row a) (.row b) [] (x.typeBad t isFPInt)
  let ra ← readRow a
  let rb ← readRow b
  let out := lanesOf (laneCount ty) (x.governing k) fun i => o.lane x.fpEnv ty (laneAt w ra i) (laneAt w rb i)
  raiseFlags (flagLanes out)
  modMe fun y => y.setMask d (maskOf out)

/-- A form that moves lanes of ANY type: the active lanes of d receive what src gives, none where a lane keeps its value (R205 to
R207, R214). -/
def moveLanes (ty d k : Nat) (src : Nat → Option Nat) : M Unit := do
  let x ← getMe
  writeLanes d (laneBits ty) ((List.range (laneCount ty)).map fun i =>
    if activeLane (x.governing k) i then (src i).map plain else none)

/-- The reduction form (R188, R208). -/
def vecRed (o : VRed) (accepts : Nat → Bool) (t d a k : Nat) : M Unit := do
  let x ← getMe
  let ty := x.elemType t
  let _ ← operands (.dst d) (.row a) .none [] (x.typeBad t accepts)
  let ra ← readRow a
  if isFP ty then
    let r := o.fp x.fpEnv ty (x.governing k) ra
    raiseFlags r.2
    writeX d (wd r.1)
  else writeX d (o.int ty (x.governing k) ra)

/-- VADD (R200). -/
def execVadd (t d a b k : Nat) (s : State) : Out := finish (vec2 .add t d a b k) s
/-- VSUB (R200). -/
def execVsub (t d a b k : Nat) (s : State) : Out := finish (vec2 .sub t d a b k) s
/-- VMUL (R200). -/
def execVmul (t d a b k : Nat) (s : State) : Out := finish (vec2 .mul t d a b k) s
/-- VDIV (R200, R201). -/
def execVdiv (t d a b k : Nat) (s : State) : Out := finish (vec2 .div t d a b k) s
/-- VFMA (R202): a × b + c. -/
def execVfma (t d a b k : Nat) (s : State) : Out := finish (vecFused false false t d a b k) s
/-- VFMS (R202): a × b − c. -/
def execVfms (t d a b k : Nat) (s : State) : Out := finish (vecFused false true t d a b k) s
/-- VFNMA (R202): −(a × b) − c. -/
def execVfnma (t d a b k : Nat) (s : State) : Out := finish (vecFused true true t d a b k) s
/-- VFNMS (R202): −(a × b) + c. -/
def execVfnms (t d a b k : Nat) (s : State) : Out := finish (vecFused true false t d a b k) s
/-- VMIN (R200, R201). -/
def execVmin (t d a b k : Nat) (s : State) : Out := finish (vec2 .min t d a b k) s
/-- VMAX (R200, R201). -/
def execVmax (t d a b k : Nat) (s : State) : Out := finish (vec2 .max t d a b k) s
/-- VABSD (R200). -/
def execVabsd (t d a b k : Nat) (s : State) : Out := finish (vec2 .absd t d a b k) s
/-- VCSGN (R200, R201). -/
def execVcsgn (t d a b k : Nat) (s : State) : Out := finish (vec2 .csgn t d a b k) s
/-- VAND (R200). -/
def execVand (t d a b k : Nat) (s : State) : Out := finish (vec2 .and t d a b k) s
/-- VOR (R200). -/
def execVor (t d a b k : Nat) (s : State) : Out := finish (vec2 .or t d a b k) s
/-- VXOR (R200). -/
def execVxor (t d a b k : Nat) (s : State) : Out := finish (vec2 .xor t d a b k) s
/-- VANDN (R200). -/
def execVandn (t d a b k : Nat) (s : State) : Out := finish (vec2 .andn t d a b k) s
/-- VSHL (R200). -/
def execVshl (t d a b k : Nat) (s : State) : Out := finish (vec2 .shl t d a b k) s
/-- VSHR (R200). -/
def execVshr (t d a b k : Nat) (s : State) : Out := finish (vec2 .shr t d a b k) s
/-- VSRA (R200). -/
def execVsra (t d a b k : Nat) (s : State) : Out := finish (vec2 .sra t d a b k) s
/-- VMULH (R200). -/
def execVmulh (t d a b k : Nat) (s : State) : Out := finish (vec2 .mulh t d a b k) s
/-- VCMPEQ (R204). -/
def execVcmpeq (t d a b k : Nat) (s : State) : Out := finish (vecCmp .eq t d a b k) s
/-- VCMPLT (R204). -/
def execVcmplt (t d a b k : Nat) (s : State) : Out := finish (vecCmp .lt t d a b k) s
/-- VCMPLE (R204). -/
def execVcmple (t d a b k : Nat) (s : State) : Out := finish (vecCmp .le t d a b k) s
/-- VCMPUN (R204). -/
def execVcmpun (t d a b k : Nat) (s : State) : Out := finish (vecCmp .un t d a b k) s

/-- VSEL (R205): every lane is written, from a where the lane is active and from b elsewhere. -/
def execVsel (t d a b k : Nat) (s : State) : Out :=
  finish (do
    let x ← getMe
    let ty := x.elemType t
    let _ ← operands (.row d) (.row a) (.row b) [] (x.typeBad t isAny)
    let ra ← readRow a
    let rb ← readRow b
    moveLanes ty d 0 fun i => some (codeAt ty (if activeLane (x.governing k) i then ra else rb) i)) s

/-- VPERM (R205): the index is taken modulo the lane count. -/
def execVperm (t d a b k : Nat) (s : State) : Out :=
  finish (do
    let x ← getMe
    let ty := x.elemType t
    let _ ← operands (.row d) (.row a) (.row b) [] (x.typeBad t isAny)
    let ra ← readRow a
    let rb ← readRow b
    moveLanes ty d k fun i => some (codeAt ty ra (codeAt ty rb i % laneCount ty))) s

/-- VZIP (R205). -/
def execVzip (t d a b : Nat) (s : State) : Out :=
  finish (do
    let x ← getMe
    let ty := x.elemType t
    let _ ← operands (.row d) (.row a) (.row b) [] (x.typeBad t isAny)
    let ra ← readRow a
    let rb ← readRow b
    moveLanes ty d 0 fun i => some (codeAt ty (if i % 2 = 0 then ra else rb) (i / 2))) s

/-- VUNZIP (R205). -/
def execVunzip (t d a b : Nat) (s : State) : Out :=
  finish (do
    let x ← getMe
    let ty := x.elemType t
    let half := laneCount ty / 2
    let _ ← operands (.row d) (.row a) (.row b) [] (x.typeBad t isAny)
    let ra ← readRow a
    let rb ← readRow b
    moveLanes ty d 0 fun i => some (if i < half then codeAt ty ra (2 * i) else codeAt ty rb (2 * (i - half)))) s

/-- VMOV (R203). -/
def execVmov (t d a k : Nat) (s : State) : Out := finish (vec1 .mov t d a k) s
/-- VNEG (R203). -/
def execVneg (t d a k : Nat) (s : State) : Out := finish (vec1 .neg t d a k) s
/-- VABS (R203). -/
def execVabs (t d a k : Nat) (s : State) : Out := finish (vec1 .abs t d a k) s
/-- VNOT (R203). -/
def execVnot (t d a k : Nat) (s : State) : Out := finish (vec1 .not t d a k) s
/-- VRINT (R203). -/
def execVrint (t d a k : Nat) (s : State) : Out := finish (vec1 .rint t d a k) s
/-- VCLASS (R203). -/
def execVclass (t d a k : Nat) (s : State) : Out := finish (vec1 .class_ t d a k) s
/-- VSQRT (R203). -/
def execVsqrt (t d a k : Nat) (s : State) : Out := finish (vec1 .sqrt t d a k) s

/-- The types a conversion takes and gives (R209). -/
def cvtTakes (t : Nat) : Bool := isFPInt t || isNarrowFP t

/-- VCVT (R209): t is the destination type, VTYPE the source; p holds SAT in bit 0 and PART above. -/
def execVcvt (t d a p k : Nat) (s : State) : Out :=
  finish (do
    let x ← getMe
    let src := x.vtype
    let _ ← operands (.row d) (.row a) .none []
      (badIf (!cvtTakes t || !cvtTakes src || decide (laneRatio t src ≤ p / 2)) tIllegal)
    let ra ← readRow a
    let r := vcvtLanes x.fpEnv (p % 2 == 1) (p / 2) t src (x.governing k) ra x.srseed.toNat
    finishLanes d (laneBits t) r.1
    modMe fun y => { y with srseed := BitVec.ofNat 32 r.2 }) s

/-- A widening multiply of the low or the high half of the lanes (R210). -/
def vecWiden (high : Bool) (t d a b k : Nat) : M Unit := do
  let x ← getMe
  let ty := x.elemType t
  let w := laneBits ty
  let _ ← operands (.row d) (.row a) (.row b) [] (x.typeBad t fun u => (widenTo u).isSome)
  let wide := (widenTo ty).getD 0
  let n := laneCount wide
  let ra ← readRow a
  let rb ← readRow b
  finishLanes d (laneBits wide) (lanesOf n (x.governing k) fun i =>
    let j := if high then i + n else i
    widenLane x.fpEnv ty wide (laneAt w ra j) (laneAt w rb j))

/-- VWIDENL (R210). -/
def execVwidenl (t d a b k : Nat) (s : State) : Out := finish (vecWiden false t d a b k) s
/-- VWIDENH (R210). -/
def execVwidenh (t d a b k : Nat) (s : State) : Out := finish (vecWiden true t d a b k) s

/-- VPACK (R211): p holds DIR in bit 0 and HALF in bit 1; bit 2 set, or HALF with a 6-bit code, traps ILLEGAL. -/
def execVpack (t d a p : Nat) (s : State) : Out :=
  finish (do
    let x ← getMe
    let c := packWidth (x.elemType t)
    let _ ← operands (.row d) (.row a) .none []
      (badIf (c.isNone || decide (4 ≤ p) || (c == some 6 && p / 2 % 2 == 1)) tIllegal)
    let ra ← readRow a
    let rd ← readRow d
    writeRow d (vpackRow (c.getD 4) (p % 2 == 1) (p / 2 % 2) rd ra)) s

/-- VQUANT (R212): t is the target C, VTYPE the source; x[b] receives the scales. -/
def execVquant (t d a b k : Nat) (s : State) : Out :=
  finish (do
    let x ← getMe
    let src := x.vtype
    let c := x.elemType t
    let _ ← operands (.row d) (.row a) (.dst b) [] (badIf (!isFP src || (quantEmax c).isNone) tIllegal)
    let ra ← readRow a
    let r := quantBlocks x.fpEnv src c ((quantEmax c).getD 0) (x.governing k) ra (List.range (laneCount src / 32))
      x.srseed.toNat
    let n := r.1.length
    raiseFlags (flagLanes r.1)
    writeLanes d 8 (r.1 ++ List.replicate (256 - n) (some (0, 0#5)))
    writeX b (wd (packLanes 8 r.2.1))
    modMe fun y => { y with srseed := BitVec.ofNat 32 r.2.2 }) s

/-- VDEQ (R213): t is the code type C, VTYPE the destination; byte j of x[b] is the scale of block j. The flags of a popped scale word
are raised with the instruction's own (R182). -/
def execVdeq (t d a b k : Nat) (s : State) : Out :=
  finish (do
    let x ← getMe
    let dst := x.vtype
    let c := x.elemType t
    let v ← operandsRaw (.row d) (.row a) (.src b) [] (badIf (!isFP dst || !deqTakes c) tIllegal)
    let table := (← get).myCore.fmt.table
    let ra ← readRow a
    let out := lanesOf (laneCount dst) (x.governing k) fun i =>
      deqLane x.fpEnv dst c table (codeAt c ra i) (byteAt (leBytes 8 v.b.toNat) (i / 32))
    raiseWith (flagLanes out)
    writeLanes d (laneBits dst) out) s

/-- VLUT4 (R214). -/
def execVlut4 (t d a b k : Nat) (s : State) : Out :=
  finish (do
    let x ← getMe
    let ty := x.elemType t
    let _ ← operands (.row d) (.row a) (.row b) [] (x.typeBad t isAny)
    let ra ← readRow a
    let rb ← readRow b
    moveLanes ty d k fun i => some (codeAt ty rb (codeAt ty ra i % 16))) s

/-- VSCALE (R214). -/
def execVscale (t d a b k : Nat) (s : State) : Out := finish (vec2 .scale t d a b k) s

/-- VREDSUM (R208). -/
def execVredsum (t d a k : Nat) (s : State) : Out := finish (vecRed .sum isFPInt t d a k) s
/-- VREDMAX (R208). -/
def execVredmax (t d a k : Nat) (s : State) : Out := finish (vecRed .max isFPInt t d a k) s
/-- VREDMIN (R208). -/
def execVredmin (t d a k : Nat) (s : State) : Out := finish (vecRed .min isFPInt t d a k) s
/-- VREDOR (R208). -/
def execVredor (t d a k : Nat) (s : State) : Out := finish (vecRed .or isInt t d a k) s

/-- VBCAST (R207). -/
def execVbcast (t d a k : Nat) (s : State) : Out :=
  finish (do
    let x ← getMe
    let ty := x.elemType t
    let v ← operands (.row d) (.src a) .none [] (x.typeBad t isAny)
    moveLanes ty d k fun _ => some (v.a.toNat % 2 ^ laneBits ty)) s

/-- VEXT (R207): sign-extended for I types, zero-extended for all others. -/
def execVext (t d a b : Nat) (s : State) : Out :=
  finish (do
    let x ← getMe
    let ty := x.elemType t
    let w := laneBits ty
    let v ← operands (.dst d) (.row a) (.src b) [] (x.typeBad t isAny)
    let ra ← readRow a
    writeX d (w64 (intVal (isSigned ty) w (codeAt ty ra (v.b.toNat % laneCount ty))))) s

/-- VINS (R207). -/
def execVins (t d a b : Nat) (s : State) : Out :=
  finish (do
    let x ← getMe
    let ty := x.elemType t
    let v ← operands (.row d) (.src a) (.src b) [] (x.typeBad t isAny)
    moveLanes ty d 0 fun i =>
      if i = v.b.toNat % laneCount ty then some (v.a.toNat % 2 ^ laneBits ty) else none) s

/-- VIOTA (R207): INT types only. -/
def execViota (t d a k : Nat) (s : State) : Out :=
  finish (do
    let x ← getMe
    let ty := x.elemType t
    let v ← operands (.row d) (.src a) .none [] (x.typeBad t isInt)
    moveLanes ty d k fun i => some ((v.a.toNat + i) % 2 ^ laneBits ty)) s

/-- VSLIDEDN (R206). -/
def execVslidedn (t d a n k : Nat) (s : State) : Out :=
  finish (do
    let x ← getMe
    let ty := x.elemType t
    let _ ← operands (.row d) (.row a) .none [] (x.typeBad t isAny)
    let ra ← readRow a
    moveLanes ty d k fun i => if i + n < laneCount ty then some (codeAt ty ra (i + n)) else none) s

/-- VSLIDEUP (R206). -/
def execVslideup (t d a n k : Nat) (s : State) : Out :=
  finish (do
    let x ← getMe
    let ty := x.elemType t
    let _ ← operands (.row d) (.row a) .none [] (x.typeBad t isAny)
    let ra ← readRow a
    moveLanes ty d k fun i => if n ≤ i then some (codeAt ty ra (i - n)) else none) s

/-- A mask operation on all 256 bits (R215). -/
def maskOp (f : Mask → Mask → Mask) (d a b : Nat) : M Unit := modMe fun x => x.setMask d (f (x.mask a) (x.mask b))

/-- KAND (R215). -/
def execKand (d a b : Nat) (s : State) : Out := finish (maskOp (· &&& ·) d a b) s
/-- KOR (R215). -/
def execKor (d a b : Nat) (s : State) : Out := finish (maskOp (· ||| ·) d a b) s
/-- KXOR (R215). -/
def execKxor (d a b : Nat) (s : State) : Out := finish (maskOp (· ^^^ ·) d a b) s
/-- KANDN (R215). -/
def execKandn (d a b : Nat) (s : State) : Out := finish (maskOp (fun p q => p &&& ~~~q) d a b) s
/-- KNOT (R215). -/
def execKnot (d a : Nat) (s : State) : Out := finish (maskOp (fun p _ => ~~~p) d a a) s

/-- KPOP (R215): the type gives the number of bits counted. -/
def execKpop (t d a : Nat) (s : State) : Out :=
  finish (do
    let x ← getMe
    let _ ← operands (.dst d) .none .none [] (x.typeBad t isAny)
    let n := ((List.range (laneCount (x.elemType t))).filter fun i => (x.mask a).getLsbD i).length
    writeX d (wd n)) s

/-- KFROM (R215): q of 4 to 7 traps ILLEGAL. -/
def execKfrom (d a q : Nat) (s : State) : Out :=
  finish (do
    let v ← operands .none (.src a) .none [] (badIf (decide (4 ≤ q)) tIllegal)
    modMe fun x =>
      let m := BitVec.ofNat 256 (0xFFFFFFFFFFFFFFFF * 2 ^ (64 * q))
      x.setMask d ((x.mask d &&& ~~~m) ||| BitVec.ofNat 256 (v.a.toNat * 2 ^ (64 * q)))) s

/-- KTO (R215): q of 4 to 7 traps ILLEGAL. -/
def execKto (d a q : Nat) (s : State) : Out :=
  finish (do
    let x ← getMe
    let _ ← operands (.dst d) .none .none [] (badIf (decide (4 ≤ q)) tIllegal)
    writeX d (wd ((x.mask a).toNat / 2 ^ (64 * q)))) s

/-- VROT (R206). -/
def execVrot (t d a b k : Nat) (s : State) : Out :=
  finish (do
    let x ← getMe
    let ty := x.elemType t
    let v ← operands (.row d) (.row a) (.src b) [] (x.typeBad t isAny)
    let ra ← readRow a
    moveLanes ty d k fun i => some (codeAt ty ra ((i + v.b.toNat % laneCount ty) % laneCount ty))) s

/-- VTYPE set to a code: 0 or a reserved code traps ILLEGAL (R216). -/
def setVtype (c : Nat) : M Unit := do
  guardM (!isAny c) tIllegal
  modMe fun x => { x with vtype := c }

/-- VBASE set modulo rows: rows = 0 traps ROWBOUND (R216). -/
def setVbase (w : Word) : M Unit := do
  guardM (decide ((← getMe).rows = 0)) tRowbound
  modMe fun x => { x with vbase := w.toNat % x.rows }

/-- VSETTYPE (R216): with m5 it sets that code, without it the code in x[a]. -/
def execVsettype (t a : Nat) (s : State) : Out :=
  finish (if t ≠ 0 then setVtype t else do
    let v ← operands .none (.src a) .none
    setVtype (v.a.toNat % 32)) s

/-- VSETBASE (R216). -/
def execVsetbase (a : Nat) (s : State) : Out :=
  finish (do
    let v ← operands .none (.src a) .none
    setVbase v.a) s

/-- VGETBASE (R216). -/
def execVgetbase (d : Nat) (s : State) : Out :=
  finish (do
    let _ ← operands (.dst d) .none .none
    writeX d (wd (← getMe).vbase)) s

end Sys2Proof.Machine
end

