-- ==== Sys2Proof/Machine/Windows.lean ====
section
/-! DEFINITION. The address windows and the ranges of physical addresses (R232 to R234), and the local memory of a core. -/

namespace Sys2Proof.Machine

/-- The windows of R232. -/
inductive Win where
  | scratch | stack | glob
  deriving DecidableEq, Repr

/-- The window of one address for a launch with the given scratchpad and stack bytes. -/
def winOf (sp stk a : Nat) : Option Win :=
  if a < Config.spWin + sp then some .scratch
  else if Config.stkWin ≤ a ∧ a < Config.stkWin + stk then some .stack
  else if inGlobal a then some .glob
  else none

/-- The window of a range of n bytes, none where it begins in no window or ends in another (R232). -/
def steer (sp stk a n : Nat) : Option Win :=
  match winOf sp stk a with
  | none => none
  | some w => if winOf sp stk (a + (n - 1)) = some w then some w else none

/-- The steering of a range for a context of a core. -/
def State.steer (s : State) (core : Nat) (x : Ctx) (a n : Nat) : Option Win :=
  let r := s.resvOf core x
  Machine.steer r.spBytes r.stkBytes a n

/-- The scratchpad byte that a scratchpad-window or stack-window address names (R77, R233). -/
def Resv.local_ (r : Resv) (index a : Nat) (w : Win) : Nat :=
  match w with
  | .stack => r.spBase + r.spBytes + index * r.stkBytes + (a - Config.stkWin)
  | _ => r.spBase + (a - Config.spWin)

/-- Bytes of the issuing core's scratchpad or of the context's stack. -/
def State.localBytes (s : State) (core : Nat) (x : Ctx) (w : Win) (a n : Nat) : List Byte :=
  (s.core core).sp.bytes ((s.resvOf core x).local_ x.index a w) n

/-- Bytes stored there. -/
def State.storeLocal (s : State) (core : Nat) (x : Ctx) (w : Win) (a : Nat) (data : List Byte) : State :=
  let i := (s.resvOf core x).local_ x.index a w
  s.modCore core fun k => { k with sp := k.sp.store i data }

/-- What a physical address names (R234). -/
inductive PaKind where
  | sealed | host | peer (n : Nat) | invalid
  deriving DecidableEq, Repr

/-- The range of a physical address (R234). -/
def paKind (pa : Nat) : PaKind :=
  if pa ≤ 0x7DFFFFFFFF then .sealed
  else if 0x10000000000 ≤ pa ∧ pa ≤ 0x279FFFFFFFF then .sealed
  else if 0x1000000000000 ≤ pa ∧ pa ≤ 0x1FFFFFFFFFFFF then .host
  else if 0x80000000000000 ≤ pa ∧ pa ≤ 0xBFFFFFFFFFFFFF then .peer (pa / 2 ^ 44 % 1024)
  else .invalid

/-- The peer address within a peer physical address (R234). -/
def peerAddr (pa : Nat) : Nat := pa % 2 ^ 44

/-- Whether a peer address lies in the peer's fabric window (R368). -/
def inFabricWindow (addr : Nat) : Bool := decide (0xF0000000000 ≤ addr)

/-- A seal tile, and a GiB, by number (R253, R255). -/
def tileOf (pa : Nat) : Nat := pa / 4096
@[inherit_doc tileOf] def gibOf (pa : Nat) : Nat := pa / 2 ^ 30

/-- The home die of a sealed address: the quadrant of an HBM4 byte, the die of a second-tier tile's channel (R235, R237). -/
def homeDie (pa : Nat) : Nat :=
  if pa < 0x10000000000 then pa / 2 ^ 15 % 4
  else (pa - 0x10000000000) / 4096 % 48 / 12

/-- The seal engine of a tile: that of its stack, or of its channel's die (R257). -/
def engineOf (tile : Nat) : Nat :=
  if tile * 4096 < 0x10000000000 then tile % 8 else 8 + homeDie (tile * 4096)

end Sys2Proof.Machine
end

