-- ==== Sys2Proof/Machine/Seal.lean ====
section
/-! DEFINITION. The seal engines: checks, merged writes, write-back, exhaustion and lost GiBs (R253 to R263). The bytes of `mem` are
those of the newest performed writes; the buffer lists the tiles whose changes have not been written back. -/

namespace Sys2Proof.Machine

def State.modSeal (s : State) (f : Seal → Seal) : State := { s with seals := f s.seals }
def State.tile (s : State) (t : Nat) : Tile := s.seals.tiles.get {} t
def State.modTile (s : State) (t : Nat) (f : Tile → Tile) : State :=
  s.modSeal fun z => { z with tiles := z.tiles.set t (f (z.tiles.get {} t)) }
def State.kslot (s : State) (n : Nat) : KSlot := s.seals.kslots.get {} n
def State.modKslot (s : State) (n : Nat) (f : KSlot → KSlot) : State :=
  s.modSeal fun z => { z with kslots := z.kslots.set n (f (z.kslots.get {} n)) }

/-- The tag of a tile's bytes at a version under a key slot: its IV has PA [51:12], the version and zero, and the authenticated data is
PA [55:12], the version and the slot (R253). -/
def State.tagOf (s : State) (t version slot : Nat) : BitVec 128 :=
  Config.sealTag (s.kslot slot).key (BitVec.ofNat 40 t ++ BitVec.ofNat 28 version ++ 0#28)
    (leBytes 6 t ++ leBytes 4 version ++ leBytes 1 slot) (s.mem.bytes (t * 4096) 4096)

/-- The words that a node is tagged over (R255): the VERF words of a version block, the counters of a level-1 and of a level-2 node. -/
def Seal.nodeWords (z : Seal) (level n : Nat) : List (BitVec 64) :=
  (List.range 64).map fun i => match level with
    | 1 => BitVec.ofNat 64 (z.verfs.get 0 (64 * n + i))
    | 2 => z.blocks.get 0#64 (64 * n + i)
    | _ => z.nodes1.get 0#64 (64 * n + i)

/-- The tagged nodes of a level, and the counters that protect them (R255). -/
def Seal.nodesAt (z : Seal) (level : Nat) : Tab TNode := if level = 1 then z.tags0 else if level = 2 then z.tags1 else z.tags2
@[inherit_doc Seal.nodesAt] def Seal.countersOf (z : Seal) (level : Nat) : Tab (BitVec 64) :=
  if level = 1 then z.blocks else if level = 2 then z.nodes1 else z.roots

/-- Whether a node fails its check: its tag, or its counter, which the node above holds but for the increments on their way (R255,
R256). A node never tagged has none. -/
def Seal.nodeFails (z : Seal) (level n : Nat) : Bool :=
  let e := (z.nodesAt level).get {} n
  let coming := (z.incs.filter fun i => i.level == level + 1 && i.index == n).length
  (e.seq != 0#64 || (z.countersOf level).get 0#64 n != 0#64)
    && (decide (e.tag ≠ Config.nodeTag level n (z.nodeWords level n) e.seq)
      || decide (e.seq ≠ (z.countersOf level).get 0#64 n + BitVec.ofNat 64 coming))

/-- Whether a tile's version is not the one that its version block is tagged over, no increment of it being on its way. -/
def Seal.verfFails (z : Seal) (t version : Nat) : Bool :=
  !(z.incs.any fun i => i.level == 1 && i.tile == t) && decide (z.verfs.get 0 t % 2 ^ 28 ≠ version)

/-- Whether a node on a tile's path in the version tree fails its check (R255). -/
def Seal.pathFails (z : Seal) (t version : Nat) : Bool :=
  z.verfFails t version || z.nodeFails 1 (t / 64) || z.nodeFails 2 (t / 64 ^ 2) || z.nodeFails 3 (t / 64 ^ 3)

/-- A home engine retags its node (R256). -/
def Seal.retag (z : Seal) (level n : Nat) : Seal :=
  let bump := fun (t : Tab TNode) =>
    let c := (t.get {} n).seq + 1#64
    t.set n ⟨c, Config.nodeTag level n (z.nodeWords level n) c⟩
  match level with
  | 1 => { z with tags0 := bump z.tags0 }
  | 2 => { z with tags1 := bump z.tags1 }
  | _ => { z with tags2 := bump z.tags2 }

/-- Whether a check of a tile fails: its GiB is lost, it is marked POISON, or it is not buffered and its path does not verify, or its
tag where it has been written (R254, R255, R258, R263). -/
def State.tileFails (s : State) (t : Nat) : Bool :=
  let e := s.tile t
  s.seals.lost.contains (gibOf (t * 4096)) || e.poison
    || ((s.seals.buf.find t).isNone
      && (s.seals.pathFails t e.version || (decide (e.version ≠ 0) && decide (e.tag ≠ s.tagOf t e.version e.slot))))

/-- Whether any tile of a range of bytes fails its check. -/
def State.rangeFails (s : State) (pa n : Nat) : Bool :=
  (List.range (tileOf (pa + (n - 1)) + 1 - tileOf pa)).any fun i => s.tileFails (tileOf pa + i)

/-- The events of R262. -/
def evRekeydue : Nat := 0x28
@[inherit_doc evRekeydue] def evSealfail : Nat := 0x29
@[inherit_doc evRekeydue] def evExhausted : Nat := 0x2A
@[inherit_doc evRekeydue] def evTreelost : Nat := 0x2B

/-- VERF (R254). -/
def Tile.verf (e : Tile) : Nat := e.version % 2 ^ 28 + (if e.poison then 2 ^ 28 else 0) + (if e.rekeydue then 2 ^ 29 else 0)

/-- The partition that owns a GiB (R255, R262): the one that first wrote to it since it became usable; until then, as after a warm reset,
the one whose access it is. Mark: DESIGN CHOICE (log entry 122). -/
def State.gibOwner (s : State) (part g : Nat) : Nat := (s.seals.owners.find g).getD part

/-- A seal event of a tile, at an access of a partition (R262). -/
def State.sealEvent (s : State) (code role part t : Nat) : State :=
  let e := s.tile t
  let p := s.gibOwner part (gibOf (t * 4096))
  let die := homeDie (t * 4096)
  s.event role (if role = roleFault ∨ role = roleSched then some die else none) p die
    [wd (code + p * 2 ^ 10), wd (t * 4096), wd e.verf, wd e.slot, 0#64, 0#64]

/-- The first access to a lost GiB, by a partition, raises TREELOST (R262, R263). -/
def State.noteLost (s : State) (part pa : Nat) : State :=
  let g := gibOf pa
  if s.seals.lost.contains g && !s.seals.lostTold.contains g then
    let p := s.gibOwner part g
    (s.modSeal fun z => { z with lostTold := g :: z.lostTold }).event roleMemory none p (homeDie pa)
      [wd (evTreelost + p * 2 ^ 10), wd (g * 2 ^ 30), 0#64, 0#64, 0#64, 0#64]
  else s

/-- A failed merge read of a partition's write: the tile is marked POISON, but for a lost GiB, and SEALFAIL goes to the fault and reset
handler (R258, R263). -/
def State.poison (s : State) (part t : Nat) : State :=
  if s.seals.lost.contains (gibOf (t * 4096)) then (s.noteLost part (t * 4096)).sealEvent evSealfail roleFault part t
  else (s.modTile t fun e => { e with poison := true }).sealEvent evSealfail roleFault part t

/-- The key slot that a tile's first write is sealed under: the lowest loaded slot of the partition, else slot 0. -/
def State.slotFor (s : State) (part : Nat) : Nat :=
  match s.seals.kslots.first fun _ k => k.part == part && k.loaded with
  | some p => p.1
  | none => 0

/-- The last version of a tile, and the version past which it is due a new key (R259). -/
def maxVersion : Nat := 0x0FFFFFFF
@[inherit_doc maxVersion] def dueVersion : Nat := 0x0FFFFF00

/-- Whether a tile has reached exhaustion (R259). -/
def State.tileSpent (s : State) (t : Nat) : Bool := decide (maxVersion ≤ (s.tile t).version)

/-- Whether a tile's engine has no place in its buffer for it (R256, R257). -/
def State.bufFull (s : State) (t : Nat) : Bool :=
  (s.seals.buf.find t).isNone
    && decide (Config.bufTiles ≤ (s.seals.buf.filter fun p => engineOf p.1 == engineOf t).length)

/-- Whether writes to a tile wait: it is exhausted, or its engine's buffer has no place until a write-back has completed (R256, R259). -/
def State.tileWaits (s : State) (t : Nat) : Bool := s.tileSpent t || s.bufFull t

/-- A changed tile is written back under version + 1: its counters are on their way up the tree, and a tile past the due version is
marked and told (R255, R256, R259). -/
def State.writeBack (s : State) (t : Nat) : State :=
  let e := s.tile t
  let v := e.version + 1
  let due := decide (dueVersion < v) && !e.rekeydue
  let s := s.modTile t fun e =>
    { e with version := v, tag := s.tagOf t v e.slot, rekeydue := e.rekeydue || due,
             exhausted := if v = maxVersion then some s.clock else e.exhausted }
  let s := if e.version = 0 then s.modKslot e.slot fun k => { k with tiles := k.tiles + 1 } else s
  let s := s.modSeal fun z =>
    { z with buf := z.buf.set t { z.buf.get {} t with dirty := false }, incs := z.incs ++ [⟨1, t / 64, t⟩] }
  let p := (s.kslot e.slot).part
  let s := if due then s.sealEvent evRekeydue roleKey p t else s
  if v = maxVersion then s.sealEvent evExhausted roleKey p t else s

/-- A tile is changed in its engine's buffer; its first write gives it its key slot, and the first of its GiB tells whose the GiB is
(R254, R255, R257). -/
def State.touchTile (s : State) (t part : Nat) : State :=
  let g := gibOf (t * 4096)
  let s := s.modSeal fun z => { z with owners := if (z.owners.find g).isSome then z.owners else z.owners.set g part }
  let s := if (s.tile t).version = 0 ∧ (s.seals.buf.find t).isNone then s.modTile t fun e => { e with slot := s.slotFor part } else s
  s.modSeal fun z => { z with buf := z.buf.set t { dirty := true, lastWrite := s.clock } }

/-- The memory with cells written in order. -/
def storeCells (m : Memory) (cells : List (Nat × Byte)) : Memory := cells.foldl (fun m c => m.put c.1 c.2) m

/-- Bytes as cells from an address up. -/
def cellsAt : Nat → List Byte → List (Nat × Byte)
  | _, [] => []
  | a, b :: t => (a, b) :: cellsAt (a + 1) t

/-- A partial write performed at its tile (R257, R258): true when the bytes have been written. -/
def State.partialWrite (s : State) (pa part : Nat) (cells : List (Nat × Byte)) : State × Bool :=
  let t := tileOf pa
  if s.tileFails t then (s.poison part t, false)
  else ({ s.touchTile t part with mem := storeCells s.mem cells }, true)

/-- A full-tile write replaces the tile without a read and clears POISON (R257, R258). A lost GiB drops it, with SEALFAIL, as it does a
partial write; R263 speaks of fills and partial writes alone. Mark: DESIGN CHOICE (log entry 122). -/
def State.fullWrite (s : State) (t part : Nat) (data : List Byte) : State × Bool :=
  if s.seals.lost.contains (gibOf (t * 4096)) then (s.poison part t, false)
  else ({ (s.touchTile t part).modTile t (fun e => { e with poison := false }) with
    mem := (s.mem.clear (t * 4096) 4096).store (t * 4096) data }, true)

/-- Bytes read at the point of coherence: none when a tile fails its check (R257, R258). Host memory is not sealed. -/
def State.readPoc (s : State) (pa n : Nat) : Option (List Byte) :=
  match paKind pa with
  | .sealed => if s.rangeFails pa n then none else some (s.mem.bytes pa n)
  | _ => some (s.mem.bytes pa n)

/-- A request of a unit that nobody hears of. -/
def State.askPlain (s : State) (part pa : Nat) (op : PocOp) : State :=
  { s with serial := s.serial + 1,
           poc := s.poc ++ [{ id := s.serial, origin := .none_, part := part, job := 0, pa := pa, va := 0, op := op, born := s.clock }] }

/-- Whether a write of a unit to a tile waits at its seal engine: writes to the tile wait, or one of such a unit waits there already (R257,
R259). -/
def State.writeWaits (s : State) (t : Nat) : Bool :=
  s.tileWaits t || (s.poc.any fun r => r.origin == .none_ && tileOf r.pa == t)

/-- Whether writes of a unit at some physical addresses in one step would wait: at one of their tiles, or since an engine's buffer lacks
places for all of them (R256, R257). -/
def State.tilesWait (s : State) (pas : List Nat) : Bool :=
  let l := (pas.filter fun pa => paKind pa == .sealed).map tileOf
  let new := l.eraseDups.filter fun t => (s.seals.buf.find t).isNone
  let of_ := fun (t : Nat) (u : Nat) => engineOf u == engineOf t
  l.any s.writeWaits || new.any fun t =>
    decide (Config.bufTiles < (s.seals.buf.filter fun p => of_ t p.1).length + (new.filter (of_ t)).length)

/-- Bytes written at the point of coherence by a unit whose step makes the whole write: tile by tile, whole tiles replaced
(R257, R282). What waits at a tile stays a request (R259). -/
def State.writePoc (s : State) (pa part : Nat) (data : List Byte) : Nat → State
  | 0 => s
  | n + 1 =>
    match data with
    | [] => s
    | _ =>
      match paKind pa with
      | .sealed =>
        let room := 4096 - pa % 4096
        let now := data.take room
        let s := if s.writeWaits (tileOf pa) then s.askPlain part pa (if now.length = 4096 then .full now else .write (cellsAt pa now))
          else if now.length = 4096 then (s.fullWrite (tileOf pa) part now).1
          else (s.partialWrite pa part (cellsAt pa now)).1
        State.writePoc s (pa + now.length) part (data.drop room) n
      | _ => { s with mem := s.mem.store pa data }

/-- KMAX after a kick (R46). -/
def kicked (kmax k : Nat) : Nat :=
  let d := (k + (2 ^ 64 - kmax % 2 ^ 64)) % 2 ^ 64
  if 1 ≤ d ∧ d < 2 ^ 62 then k else kmax

/-- The flags of QSTATE's third byte after a control write (R42). -/
def ctrlled (flags cmd : Nat) : Nat := flags / 4 * 4 + cmd % 4

/-- Bytes from an address on, with cells written over them. -/
def overlay (pa : Nat) (b : List Byte) (cells : List (Nat × Byte)) : List Byte :=
  (cellsAt pa b).map fun c => ((cells.reverse.find? fun w => w.1 == c.1).map (·.2)).getD c.2

/-- Bytes from an address on as a request that still waits at its tile will leave them (R42, R257). -/
def PocReq.over (r : PocReq) (pa : Nat) (b : List Byte) : List Byte :=
  match r.op with
  | .write cells => overlay pa b cells
  | .full d => overlay pa b (cellsAt r.pa d)
  | .kmax k => overlay pa b (cellsAt r.pa (leBytes 8 (kicked (fieldAt b (r.pa - pa) 8) k)))
  | .ctrl c => overlay pa b (cellsAt r.pa (leBytes 1 (ctrlled (byteAt b (r.pa - pa)) c)))
  | _ => b

/-- Bytes as a unit that writes by writePoc reads them: those at the point of coherence, with its own writes that still wait there, in
their order (R257). -/
def State.readOwn (s : State) (pa n : Nat) : Option (List Byte) :=
  (s.readPoc pa n).map fun b => (s.poc.filter fun r => r.origin == .none_).foldl (fun b r => r.over pa b) b

/-- TILE_WRITE_BACK (R257): a changed tile leaves on eviction or 64 µs after its last write; the choice of an eviction is the
engine's. An exhausted tile cannot be written back (R259). -/
def execTileWriteBack (tile : Nat) (s : State) : Host.Outcome State Fault Refusal :=
  stepIf (((s.seals.buf.find tile).any fun b => b.dirty) && !s.tileSpent tile && !s.tileFails tile)
    (fun s => s.writeBack tile) s

/-- The place of a tile in the buffer is free once no increment of its path is left (R256). -/
def State.retagged (s : State) (t : Nat) : State :=
  if (s.seals.incs.any fun i => i.tile == t) then s
  else s.modSeal fun z => { z with buf := z.buf.filter fun p => p.1 != t || p.2.dirty }

/-- The index of the counter that an increment of a level sends on: of the version block, of the level-1 node above it, and of its GiB
(R255, R256). -/
def TreeInc.up (c : TreeInc) : Nat := if c.level = 1 then c.index else c.index / 64

/-- VERSION_TREE_INCREMENT (R256): the home engine of a node applies an increment, retags its node and sends its parent's. -/
def execVersionTreeIncrement (i : Nat) (s : State) : Host.Outcome State Fault Refusal :=
  match s.seals.incs[i]? with
  | none => .next s
  | some c =>
    let rest := dropAt s.seals.incs i
    let up := if c.level < 4 then [TreeInc.mk (c.level + 1) c.up c.tile] else []
    let s := s.modSeal fun z => { z with incs := rest ++ up }
    let bump : Tab (BitVec 64) → Tab (BitVec 64) := fun t => t.set c.index (t.get 0#64 c.index + 1#64)
    let verf := (s.tile c.tile).verf
    let s := s.modSeal fun z => match c.level with
      | 1 => { z with verfs := z.verfs.set c.tile verf }.retag 1 c.index
      | 2 => { z with blocks := bump z.blocks }.retag 2 (c.index / 64)
      | 3 => { z with nodes1 := bump z.nodes1 }.retag 3 (c.index / 64)
      | _ => { z with roots := bump z.roots }
    .next (s.retagged c.tile)

/-- EXHAUSTION_TIMEOUT (R259): a tile exhausted for 10 ms is a partition fault with cause SEAL. -/
def execExhaustionTimeout (tile : Nat) (s : State) : Host.Outcome State Fault Refusal :=
  let e := s.tile tile
  stepIf (e.exhausted.any fun t => decide (t + Config.ms 10 ≤ s.clock))
    (fun s => { s.modTile tile (fun e => { e with exhausted := none }) with
      pfaults := s.pfaults ++ [((s.kslot e.slot).part, tSeal)] }) s

/-- Writes that have left their contexts and caches for the seal engines. -/
def PocReq.isWrite (r : PocReq) : Bool :=
  match r.op with
  | .write _ => true
  | .full _ => true
  | _ => false

/-- TREEINIT (R263): every tile of the GiB has version 0 and reads zero, its nodes and root counter are 0, and it is usable. TILES counts
no tile of a lost GiB (R261, R453). -/
def execTreeinit (pa : Nat) (s : State) : Host.Outcome State Fault Refusal :=
  let g := gibOf pa
  stepIf (decide (paKind pa = .sealed) && s.seals.cmd.isNone) (fun s =>
    let gone := s.seals.tiles.filter fun p => gibOf (p.1 * 4096) == g && decide (p.2.version ≠ 0) && !s.seals.lost.contains g
    let s := gone.foldl (fun s p => s.modKslot p.2.slot fun k => { k with tiles := k.tiles - 1 }) s
    let s := s.modSeal fun z =>
      { z with tiles := z.tiles.filter fun p => gibOf (p.1 * 4096) != g
               buf := z.buf.filter fun p => gibOf (p.1 * 4096) != g
               blocks := z.blocks.filter fun p => p.1 / 2 ^ 12 != g
               nodes1 := z.nodes1.filter fun p => p.1 / 64 != g
               roots := z.roots.del g
               owners := z.owners.del g
               verfs := z.verfs.filter fun p => gibOf (p.1 * 4096) != g
               tags0 := z.tags0.filter fun p => p.1 / 2 ^ 12 != g
               tags1 := z.tags1.filter fun p => p.1 / 64 != g
               tags2 := z.tags2.del g
               incs := z.incs.filter fun i => gibOf (i.tile * 4096) != g
               lost := z.lost.filter (· != g)
               lostTold := z.lostTold.filter (· != g) }
    { s with mem := s.mem.clear (g * 2 ^ 30) (2 ^ 30) }) s

/-- HBM_REFRESH (R238): the layer's sensor sets the interval of the next refresh. -/
def execHbmRefresh (stack l temp : Nat) (s : State) : Host.Outcome State Fault Refusal :=
  stepIf (decide (stack < 8) && decide (l < 16)) (fun s =>
    s.modSeal fun z =>
      let r := z.refresh.get {} (stack * 16 + l)
      let ivl := if 95 < temp then 975 else if 85 < temp then 1950 else 3900
      { z with refresh := z.refresh.set (stack * 16 + l) (Refresh.mk ivl (temp % 256) ((r.count + 1) % 2 ^ 32)) }) s

end Sys2Proof.Machine
end

