-- ==== Sys2Proof/Machine/Translate.lean ====
section
/-! DEFINITION. Two-stage translation: table entries, the walks of both stages, the translation caches, and the walks that a walker
holds (R239 to R246). -/

namespace Sys2Proof.Machine

/-- A leaf of a table (R241). -/
structure Leaf where
  oa : Nat
  big : Bool
  rd : Bool
  wr : Bool
  ex : Bool
  nc : Bool
  mig : Bool
  deriving DecidableEq, Repr

/-- What a table entry says: not present (malformed included), a pointer to the next node, or a leaf (R241). -/
inductive TEntry where
  | absent
  | ptr (oa : Nat)
  | leaf (l : Leaf)
  deriving DecidableEq, Repr

/-- A table entry read at a level of a stage (R240, R241). -/
def tableEntry (stage1 : Bool) (level : Nat) (e : Word) : TEntry :=
  let oa := wbits e 55 16 * 2 ^ 16
  let isLeaf := decide (level = 1) || (decide (level = 2) && wbit e 1)
  let bad := decide (wbits e 15 7 ≠ 0) || (decide (level = 3) && wbit e 1) || (stage1 && wbit e 6)
    || (decide (level = 2) && wbit e 1 && decide (oa % 2 ^ 29 ≠ 0))
  if !wbit e 0 || bad then .absent
  else if isLeaf then .leaf ⟨oa, decide (level = 2), wbit e 2, wbit e 3, wbit e 4, wbit e 5, wbit e 6⟩
  else .ptr oa

/-- The index of an address at a level (R240). -/
def levelIndex (level a : Nat) : Nat :=
  if level = 3 then a / 2 ^ 42 % 2 ^ 15 else if level = 2 then a / 2 ^ 29 % 2 ^ 13 else a / 2 ^ 16 % 2 ^ 13

/-- The root that S1ROOT or S2ROOT names (R240). -/
def rootOf (w : Word) : Nat := wbits w 55 18 * 2 ^ 18

/-- The output of a leaf for an address: the byte and the bits of the page (R239, R241). -/
def Leaf.bits (l : Leaf) : Nat := if l.big then 29 else 16
@[inherit_doc Leaf.bits] def Leaf.out (l : Leaf) (a : Nat) : Nat := l.oa + a % 2 ^ l.bits

/-- The outcome of a stage-2 walk: a leaf, a stage-2 fault, or a node that fails its seal check. -/
inductive S2Res where
  | ok (l : Leaf)
  | fault
  | sealFail
  deriving DecidableEq, Repr

/-- A stage-2 walk from a node of a level on (R240, R242). -/
def State.walk2 (s : State) (ipa : Nat) : Nat → Nat → S2Res
  | _, 0 => .fault
  | node, level + 1 =>
    let a := node + 8 * levelIndex (level + 1) ipa
    match paKind a with
    | .peer _ => .fault
    | .invalid => .fault
    | _ => match s.readPoc a 8 with
      | none => .sealFail
      | some b => match tableEntry false (level + 1) (wd (leNat b)) with
        | .absent => .fault
        | .leaf l => .ok l
        | .ptr p => State.walk2 s ipa p level

/-- Stage 2 of a partition for an intermediate address (R240). -/
def State.stage2 (s : State) (part ipa : Nat) : S2Res :=
  if 2 ^ 57 ≤ ipa then .fault else s.walk2 ipa (rootOf (s.part part).s2root) 3

/-- The outcome of a translation (R244): a cached entry, a stage-1 fault of a cause, a walk event of a code, a level and an
intermediate address, or a migrating leaf. -/
inductive Xlate where
  | ok (e : TlbEnt)
  | fault (cause : Nat)
  | event (code level ipa : Nat)
  | mig (level ipa : Nat)
  deriving DecidableEq, Repr

/-- The walk events (R245). -/
def evS2fault : Nat := 0x20
@[inherit_doc evS2fault] def evWalkremote : Nat := 0x21
@[inherit_doc evS2fault] def evWalkbusy : Nat := 0x22
@[inherit_doc evS2fault] def evWalkseal : Nat := 0x23

/-- A stage-1 node entry read through stage 2 (R240, R244): the entry, or the outcome of the walk. A walk of an access stops at a leaf
that migrates; one that only asks whether a page is mapped does not (R245, R290). -/
def State.node1 (s : State) (stops : Bool) (part node i level : Nat) : Word ⊕ Xlate :=
  let ipa := node + 8 * i
  match s.stage2 part ipa with
  | .fault => .inr (.event evS2fault level node)
  | .sealFail => .inr (.event evWalkseal level node)
  | .ok l =>
    if stops && l.mig then .inr (.mig level node)
    else if !l.rd then .inr (.event evS2fault level node)
    else
      match paKind (l.out ipa) with
      | .sealed => match s.readPoc (l.out ipa) 8 with
        | none => .inr (.event evWalkseal level node)
        | some b => .inl (wd (leNat b))
      | .invalid => .inr (.event evS2fault level node)
      | _ => .inr (.event evWalkremote level node)

/-- A stage-1 walk from a node of a level on: the leaf, or the outcome of the walk. -/
def State.walk1 (s : State) (stops : Bool) (part va : Nat) : Nat → Nat → Leaf ⊕ Xlate
  | _, 0 => .inr (.fault tPage)
  | node, level + 1 =>
    match s.node1 stops part node (levelIndex (level + 1) va) (level + 1) with
    | .inr x => .inr x
    | .inl e => match tableEntry true (level + 1) e with
      | .absent => .inr (.fault tPage)
      | .leaf l => .inl l
      | .ptr p => State.walk1 s stops part va p level

/-- Whether permissions allow an access: 0 read, 1 write, 2 fetch, 3 read and write (R242). -/
def permits (acc : Nat) (rd wr ex : Bool) : Bool :=
  match acc with
  | 0 => rd
  | 1 => wr
  | 2 => ex
  | _ => rd && wr

/-- The stage-1 root of a job (R240). -/
def Job.root1 (j : Job) : Nat := j.desc.s1root / 2 ^ 18 % 2 ^ 38 * 2 ^ 18

/-- A translation from the root, both stages (R239 to R244). -/
def State.xlate (s : State) (part job va acc : Nat) : Xlate :=
  match s.job part job with
  | none => .fault tPage
  | some j =>
    match s.walk1 true part va j.root1 3 with
    | .inr x => x
    | .inl l1 =>
      if !permits acc l1.rd l1.wr l1.ex then .fault tPerm
      else
        let ipa := l1.out va
        let page := ipa / 2 ^ 16 * 2 ^ 16
        match s.stage2 part ipa with
        | .fault => .event evS2fault 0 page
        | .sealFail => .event evWalkseal 0 page
        | .ok l2 =>
          if l2.mig then .mig 0 page
          else if !permits acc l2.rd l2.wr l2.ex || paKind (l2.out ipa) == .invalid then .event evS2fault 0 page
          else
            let bits := min l1.bits l2.bits
            .ok ⟨part, job, va / 2 ^ bits * 2 ^ bits, bits, l2.out ipa / 2 ^ bits * 2 ^ bits, l1.rd && l2.rd, l1.wr && l2.wr,
              l1.ex && l2.ex, l1.nc || l2.nc⟩

/-- Whether both stages hold a valid leaf for an address, whatever its permissions and MIG (R290). -/
def State.mapped (s : State) (part job va : Nat) : Option Nat :=
  match s.job part job with
  | none => none
  | some j =>
    match s.walk1 false part va j.root1 3 with
    | .inr _ => none
    | .inl l1 => match s.stage2 part (l1.out va) with
      | .ok l2 => some (l2.out (l1.out va))
      | _ => none

/-- The physical address that a translation gives for an address of its page. -/
def TlbEnt.phys (e : TlbEnt) (va : Nat) : Nat := e.pa + va % 2 ^ e.bits

/-- Whether a translation covers an address of a job. -/
def TlbEnt.covers (e : TlbEnt) (part job va : Nat) : Bool :=
  e.part == part && e.job == job && decide (va / 2 ^ e.bits * 2 ^ e.bits = e.va)

/-- The translation that a cluster's cache holds for an access (R243). -/
def Cluster.hit (k : Cluster) (part job va acc : Nat) : Option TlbEnt :=
  k.tlb.find? fun e => e.covers part job va && permits acc e.rd e.wr e.ex

/-- A translation enters a cluster's cache of 4,096 entries (R243). -/
def Cluster.learn (k : Cluster) (e : TlbEnt) : Cluster :=
  { k with tlb := (e :: k.tlb.filter fun o => !(o.part == e.part && o.job == e.job && o.va == e.va && o.bits == e.bits)).take 4096 }

/-- The 64 KiB page of an address. -/
def pageOf (va : Nat) : Nat := va / 2 ^ 16

/-- The physical addresses of the stage-2 entries that a walk from a node of a level reads, in order (R240). -/
def State.reads2 (s : State) (ipa : Nat) : Nat → Nat → List Nat
  | _, 0 => []
  | node, level + 1 =>
    let a := node + 8 * levelIndex (level + 1) ipa
    a :: match (s.readPoc a 8).map fun b => tableEntry false (level + 1) (wd (leNat b)) with
      | some (.ptr p) => State.reads2 s ipa p level
      | _ => []

/-- The physical addresses of the entries of both stages that a walk from a stage-1 node of a level reads. -/
def State.reads1 (s : State) (part va : Nat) : Nat → Nat → List Nat
  | _, 0 => []
  | node, level + 1 =>
    let root := rootOf (s.part part).s2root
    let i := levelIndex (level + 1) va
    let own := match s.stage2 part (node + 8 * i) with
      | .ok l => [l.out (node + 8 * i)]
      | _ => []
    s.reads2 (node + 8 * i) root 3 ++ own ++ match s.node1 true part node i (level + 1) with
      | .inr _ => []
      | .inl e => match tableEntry true (level + 1) e with
        | .absent => []
        | .leaf l => s.reads2 (l.out va) root 3
        | .ptr p => State.reads1 s part va p level

/-- The first access to a lost GiB, by the walk of an address, raises TREELOST (R263). -/
def State.noteWalk (s : State) (part job va : Nat) : State :=
  match s.job part job with
  | none => s
  | some j => (s.reads1 part va j.root1 3).foldl (fun s a => s.noteLost part a) s

/-- What a translation that no walk goes on with has met: a node in a lost GiB is an access to it (R263). -/
def State.noteMet (s : State) (part job va : Nat) (x : Xlate) : State :=
  match x with
  | .event code _ _ => if code = evWalkseal then s.noteWalk part job va else s
  | _ => s

/-- The name of a unit of the device for its walks: the network interfaces 1, copy engines 2, packets 3, the front ends 4, work-queue
units 5, rods 6, launches 7, graphs 8, all-to-alls 9, phases and jobs 10, sequencers 11, remote reads 12, the memory master 13, bead
injection 14, the scheduler 15, word fetches of SRET 16. -/
def unitName (kind n : Nat) : Nat := kind * 2 ^ 40 + n

/-- The core and context of a request, in the layout of word 3 of a walk event (R245): of a copy, a work-queue command or a run the context that issued it, and 0
of a unit that serves none. -/
def State.askedBy (s : State) (a : Asker) : Nat :=
  match a with
  | .ctx c x => c + x % 16 * 2 ^ 12
  | .fetch c x => c + x % 16 * 2 ^ 12
  | .pref c x => c + x % 16 * 2 ^ 12
  | .unit name =>
    let n := name % 2 ^ 40
    let core := n / 2 ^ 20
    let x := n % 2 ^ 20
    if [2, 5, 16].contains (name / 2 ^ 40) then core + x % 16 * 2 ^ 12
    else if name / 2 ^ 40 = 11 then
      core + (if x < 16 then x else ((s.core core).runs.find (x - 16)).elim 0 fun r => r.ctx % 16) * 2 ^ 12
    else 0

/-- The event of a walk (R245), of its first request. -/
def State.walkEvent (s : State) (w : Walk) (code level ipa : Nat) : State :=
  match w.reqs with
  | [] => s
  | r :: _ =>
    let who := s.askedBy r.asker
    let s := if code = evWalkseal then s.noteWalk w.part w.job r.va else s
    s.event roleMemory none w.part w.die
      [wd (code + level * 2 ^ 8 + w.part * 2 ^ 10 + w.job * 2 ^ 15 + r.acc * 2 ^ 21 + w.tag % 256 * 2 ^ 24
          + min w.reqs.length (2 ^ 32 - 1) * 2 ^ 32), wd r.va, wd ipa, wd who, 0#64, 0#64]

/-- The tag of a record that only holds a refusal for the units that have still to take it: no walk's. -/
def doneTag : Nat := 1024

/-- The lowest walk tag that is free on a die; 256 walks run at once (R243). -/
def State.freeTag (s : State) (die : Nat) : Option Nat :=
  ((List.range 256).map (· + die * 256)).find? fun t => s.walks.all fun w => w.tag != t

def State.modWalk (s : State) (tag : Nat) (f : Walk → Walk) : State :=
  { s with walks := s.walks.map fun w => if w.tag == tag then f w else w }

/-- The walk in progress for a page of a job on a die (R243). A walk that only holds a refusal is over. -/
def State.walkOf (s : State) (die part job page : Nat) : Option Walk :=
  s.walks.find? fun w => w.die == die && w.part == part && w.job == job && w.page == page && (match w.st with
    | .refused _ => false
    | _ => true)

/-- A request joins the walk of its page or starts one; the answer is the walk's tag, none while 256 walks run (R243). -/
def State.joinWalk (s : State) (die part job : Nat) (r : WalkReq) (st : WalkSt) : Option Nat × State :=
  match s.walkOf die part job (pageOf r.va) with
  | some w => (some w.tag, s.modWalk w.tag fun w => { w with reqs := w.reqs ++ (if w.reqs.contains r then [] else [r]) })
  | none => match s.freeTag die with
    | none => (none, s)
    | some t => (some t, { s with walks := s.walks ++ [⟨t, die, part, job, pageOf r.va, [r], st⟩] })

/-- The outcome of a unit's translation. -/
inductive XRes where
  | ok (e : TlbEnt)
  | fail (cause : Nat)
  | wait
  deriving DecidableEq, Repr

/-- A translation for an engine or unit of a die, which waits for the memory master by a name of its own (R245, R267). A cluster's
engines use its translation cache. -/
def State.unitXlate (s : State) (name die : Nat) (cl : Option Nat) (part job va acc : Nat) : XRes × State :=
  let mine := s.walks.find? fun w => w.part == part && w.job == job && w.page == pageOf va
    && (w.reqs.any fun r => r.asker == .unit name)
  match mine with
  | some w => match w.st with
    | .refused c =>
      let rest := w.reqs.filter fun r => r.asker != .unit name
      (.fail c, { s with walks := (s.walks.erase w) ++ (if rest = [] then [] else [{ w with reqs := rest }]) })
    | _ => (.wait, s)
  | none =>
    match cl.bind fun c => (s.cluster c).hit part job va acc with
    | some e => (.ok e, s)
    | none =>
      let r : WalkReq := ⟨.unit name, va, acc, false⟩
      if (s.walkOf die part job (pageOf va)).isSome then (.wait, (s.joinWalk die part job r .waiting).2)
      else match s.xlate part job va acc with
      | .ok e => (.ok e, match cl with
          | some c => s.modCluster c fun k => k.learn e
          | none => s)
      | .fault c => (.fail c, s)
      | .event code level ipa =>
        let (t, s) := s.joinWalk die part job r .waiting
        (.wait, match t with
          | some t => (match s.walks.find? fun w => w.tag == t with
              | some w => s.walkEvent w code level ipa
              | none => s)
          | none => s)
      | .mig _ _ => (.wait, (s.joinWalk die part job r (.stalled (s.clock + Config.us 64))).2)

end Sys2Proof.Machine
end

