-- ==== Sys2Proof/Machine/Egress.lean ====
section
/-! DEFINITION. What leaves a die's fabric endpoint: packets, the drops that an endpoint counts, atomic flows, and requests that wait
for a peer (R344 to R348, R351, R359 to R366). -/

namespace Sys2Proof.Machine

def State.peer (s : State) (n : Nat) : Peer := s.peers.get {} n
def State.modPeer (s : State) (n : Nat) (f : Peer → Peer) : State := { s with peers := s.peers.set n (f (s.peer n)) }

/-- The lowest valid peer of a pod endpoint number, an Amnath part before any other (R347). -/
def State.peerAt (s : State) (ep : Nat) : Option (Nat × Peer) :=
  match s.peers.first fun _ p => p.valid && p.feotte && p.ep == ep with
  | some p => some p
  | none => s.peers.first fun _ p => p.valid && p.ep == ep

/-- A count that saturates at 255 (R39, R351). -/
def sat255 (n : Nat) : Nat := min (n + 1) 255

/-- A drop counted by the endpoint of a die (R351). -/
def State.epDrop (s : State) (die : Nat) (f : EpDrop → EpDrop) : State := s.modDie die fun d => { d with epdrop := f d.epdrop }

def EpDrop.addIsolated (e : EpDrop) : EpDrop := { e with isolated := sat255 e.isolated }

/-- FABPOL's fields with the clamps of R348: the shortfall timeout and the read timeout in µs, and ISOLN. -/
def fabShort (f : Word) : Nat := max 50 (min 1000 (wbits f 9 0))
@[inherit_doc fabShort] def fabRead (f : Word) : Nat := max 10 (min 10000 (wbits f 23 10))
@[inherit_doc fabShort] def fabIsoln (f : Word) : Nat := max 1 (wbits f 27 24)

/-- KIND (R14). -/
def MsgKind.code : MsgKind → Nat
  | .task => 1
  | .seed => 2
  | .landing => 3
  | .stream => 4
  | .streamend => 5
  | .trap => 6
  | .event => 7
  | .reserved c => c

/-- A message as its 64 bytes (R12). -/
def msgBytes (m : Msg) : List Byte :=
  let b := fun (c : Bool) (k : Nat) => if c then 2 ^ k else 0
  leBytes 8 ((MsgKind.code m.kind) + b m.pri 4 + b m.taddr 5 + b m.ord 6 + m.flow * 2 ^ 8 + m.seq * 2 ^ 16 + m.ddev * 2 ^ 32 + m.dpart * 2 ^ 48
      + m.handler * 2 ^ 53 + m.lgen * 2 ^ 60)
    ++ leBytes 8 (m.lid + m.dest % 2 ^ 24 * 2 ^ 12 + m.sdev * 2 ^ 36 + m.score * 2 ^ 52)
    ++ (List.range 6).flatMap fun i => leBytes 8 (m.payload.getD i 0#64).toNat

/-- PTYPE (R345). A flow's close packet travels as a message. -/
def ptypeOf : PktBody → Nat
  | .message _ => 1
  | .bead _ _ _ _ _ _ => 2
  | .beam _ _ _ _ _ => 3
  | .notice _ _ _ _ => 4
  | .readreq _ _ _ _ => 5
  | .readresp _ _ => 6
  | .atomic _ _ _ _ _ _ _ _ _ _ => 7
  | .atomicresp _ _ => 8
  | .store _ _ _ => 9
  | .flowack _ _ _ _ => 10
  | .flowclose _ _ _ _ => 1
  | .unknown n => n

/-- The bytes of a packet's body (R12, R345, R349, R350); the layouts that the spec does not give are free values. Mark: DESIGN CHOICE (log
entry 78). -/
def bodyBytes (body : PktBody) : List Byte :=
  match body with
  | .message m => msgBytes m
  | .bead rod gen dpart srod daddr data =>
    leBytes 2 rod ++ leBytes 1 gen ++ leBytes 1 dpart ++ leBytes 2 data.length ++ leBytes 2 srod ++ leBytes 8 daddr ++ data
  | .beam rod gen dpart count srod =>
    leBytes 2 rod ++ leBytes 1 gen ++ leBytes 1 dpart ++ leBytes 4 count ++ leBytes 2 srod ++ leBytes 6 0
  | .notice rod gen fault arrived =>
    leBytes 2 rod ++ leBytes 1 gen ++ leBytes 1 (if fault then 1 else 0) ++ leBytes 4 arrived ++ leBytes 8 0
  | b => Config.bytesOf b

/-- The bytes of a packet: its envelope and its body (R345). -/
def pktBytes (p : Pkt) : List Byte :=
  leBytes 2 (ptypeOf p.body) ++ leBytes 2 p.inj ++ leBytes 2 p.sdev ++ leBytes 2 p.ddev ++ bodyBytes p.body

/-- A packet as the writes into its peer's fabric window that carry it: one, or two whose addresses differ in bit 8 alone (R368). -/
def windowWrites (p : Pkt) : List (Nat × List Byte) :=
  let a := 0x0F0000000000 + p.ctag * 2 ^ 9
  let b := pktBytes p
  (a, b.take 256) :: (if b.length ≤ 256 then [] else [(a + 256, b.drop 256)])

/-- A fabric packet leaves a die's endpoint for a device, with the next carrier tag of that endpoint; one to an isolated peer is dropped
and counted; over UALink an Amnath peer receives it in its fabric window (R345, R346, R366 to R368). -/
def State.emit (s : State) (die ddev : Nat) (body : PktBody) : State :=
  if (s.peerAt ddev).any fun p => p.2.isol then s.epDrop die EpDrop.addIsolated
  else
    let pkt : Pkt := { inj := s.podNow % 2 ^ 16, sdev := selfEp, ddev := ddev, body := body, src := selfEp, ctag := (s.die die).ctag % 2 ^ 31 }
    let window := (s.peerAt ddev).any fun p => p.2.feotte && !p.2.carrier
    { s.modDie die (fun d => { d with ctag := d.ctag + 1 }) with
        egress := s.egress ++ [(die, if window then { pkt with writes := windowWrites pkt } else pkt)] }

/-- The flows of a core. -/
def State.flowsOf (s : State) (core : Nat) : List Flow := s.flows.get [] core
def State.modFlow (s : State) (core : Nat) (p : Flow → Bool) (f : Flow → Flow) : State :=
  { s with flows := s.flows.set core ((s.flowsOf core).map fun x => if p x then f x else x) }

/-- The implicit atomic flow from a core to a device (R363). -/
def isAtomicFlow (ddev : Nat) (f : Flow) : Bool := f.cls == .atomic && f.dest.ddev == ddev

/-- The atomic flow from a core to a device, opened at first use (R363). -/
def State.openAtomic (s : State) (core ddev : Nat) : State :=
  if (s.flowsOf core).any (isAtomicFlow ddev) then s
  else
    let f : Flow := { handle := 0, cls := .atomic, dest := ⟨0, false, 0, ddev⟩, part := 0, lid := 0, lgen := 0, since := s.clock }
    { s with flows := s.flows.set core (s.flowsOf core ++ [f]) }

/-- Whether a flow takes no packet now: 64 are unacknowledged (R360). -/
def Flow.full (f : Flow) : Bool := decide (64 ≤ f.unacked.length)

/-- A packet numbered and sent on a flow of a core, or left to wait while 64 are unacknowledged; a broken flow takes none (R360, R362). -/
def State.sendOnFlow (s : State) (core : Nat) (p : Flow → Bool) (ddev : Nat) (body : Nat → PktBody) : State :=
  match (s.flowsOf core).find? fun f => p f && !f.broken with
  | none => s
  | some f =>
    let pkt : Pkt := { inj := s.podNow % 2 ^ 16, sdev := selfEp, ddev := ddev, body := body f.seq, src := selfEp }
    if f.full then s.modFlow core p fun f => { f with seq := (f.seq + 1) % 2 ^ 16, waiting := f.waiting ++ [pkt] }
    else
      let s := s.modFlow core p fun f =>
        { f with seq := (f.seq + 1) % 2 ^ 16, unacked := f.unacked ++ [pkt], since := if f.unacked = [] then s.clock else f.since }
      s.emit (dieOf core) ddev pkt.body

/-- Packets that wait on a core's flows leave as far as acknowledgements have made room (R360). -/
def State.sendWaiting (s : State) (core : Nat) : State :=
  let room := fun (f : Flow) => if f.broken then 0 else 64 - f.unacked.length
  let ready := (s.flowsOf core).flatMap fun f => f.waiting.take (room f)
  let t := s.modFlow core (fun f => f.waiting != []) fun f =>
    { f with unacked := f.unacked ++ f.waiting.take (room f), waiting := f.waiting.drop (room f) }
  ready.foldl (fun s p => s.emit (dieOf core) p.ddev p.body) t

/-- The peer that an access to a peer physical address reaches: none where the access fails as PERM (R347, R366, R368). -/
def State.reachPeer (s : State) (pa : Nat) : Option Peer :=
  match paKind pa with
  | .peer n =>
    let p := s.peer n
    if p.valid && !inFabricWindow (peerAddr pa) then some p else none
  | _ => none

/-- A request for data goes to a peer with a tag of its own and a deadline (R364). -/
def State.askPeer (s : State) (die part ep : Nat) (req : PeerReq) (body : Nat → PktBody) : State :=
  let (tag, s) := s.fresh
  let s := { s with waits := s.waits ++ [PeerWait.mk tag ep req (s.clock + Config.us (fabRead (s.part part).fabpol))] }
  s.emit die ep (body tag)

/-- An EVENT whose payload the spec does not give: its six words are free values. -/
def State.freeEvent (s : State) (role : Nat) (die : Option Nat) (part unitDie : Nat) : State :=
  { s.event role die part unitDie ((List.range 6).map fun i => Config.freeWord (s.draws + i)) with draws := s.draws + 6 }

/-- A peer is isolated, and the fabric manager is told (R365). -/
def State.isolate (s : State) (n die : Nat) : State :=
  (s.modPeer n fun p => { p with isol := true }).freeEvent roleFabric none 0 die

/-- A timeout of a peer, with the ISOLN of a partition (R365). -/
def State.peerTimeout (s : State) (ep part die : Nat) : State :=
  match s.peerAt ep with
  | none => s
  | some (n, p) =>
    let c := min (p.tocnt + 1) 15
    let s := s.modPeer n fun p => { p with tocnt := c }
    if fabIsoln (s.part part).fabpol ≤ c && !p.isol then s.isolate n die else s

end Sys2Proof.Machine
end

