-- ==== Sys2Proof/Machine/Access.lean ====
section
/-! DEFINITION. The data accesses of a context: releases and acquires, translation, loads through the cluster cache, stores, the side
log, and the requests that go to the points of coherence (R246 to R250, R264 to R275, R339 to R341). -/

namespace Sys2Proof.Machine

/-- The cache line of an address (R266). -/
def lineOf (a : Nat) : Nat := a / 64

def PocOp.lines (op : PocOp) (pa : Nat) : Nat × Nat :=
  match op with
  | .write cells => (lineOf ((cells.head?.map (·.1)).getD pa), lineOf ((cells.getLast?.map (·.1)).getD pa))
  | .full _ => (lineOf pa, lineOf pa + 63)
  | _ => (lineOf pa, lineOf pa)

/-- Whether a request touches lines from lo to hi. -/
def PocReq.touches (r : PocReq) (lo hi : Nat) : Bool :=
  let l := r.op.lines r.pa
  decide (l.1 ≤ hi) && decide (lo ≤ l.2)

/-- The cluster that a request came from. -/
def Origin.cluster? (o : Origin) : Option Nat :=
  match o with
  | .ctx core _ => some (clusterOf core)
  | .cache c => some c
  | .copy c _ => some c
  | _ => none

/-- Whether two requests come one after the other from one place: a cluster, or the units that nobody hears of. -/
def PocReq.sameSource (q r : PocReq) : Bool :=
  (q.origin.cluster? == r.origin.cluster? && r.origin.cluster?.isSome) || (q.origin == .none_ && r.origin == .none_)

/-- Whether a request follows another of its source to the same tile, or both are of one place to host memory, whose requests keep their
order (R257, R341). -/
def PocReq.after (r q : PocReq) : Bool :=
  q.sameSource r && (tileOf q.pa == tileOf r.pa || (q.origin == r.origin && paKind q.pa == .host && paKind r.pa == .host))

/-- A request is performed only when no earlier request of the same source is left that it follows (R257, R327, R341). -/
def State.pocFirst (s : State) (i : Nat) : Bool :=
  match s.poc[i]? with
  | none => false
  | some r => (s.poc.take i).all fun q => !r.after q

/-- A request on its way to a point of coherence, with the time from which its bound of R340 counts. -/
def State.askSince (s : State) (born : Nat) (o : Origin) (part job pa va : Nat) (op : PocOp) (takes : Bool) : Nat × State :=
  let (id, s) := s.fresh
  (id, { s with poc := s.poc ++ [⟨id, o, part, job, pa, va, op, takes, born⟩] })

@[inherit_doc State.askSince]
def State.ask (s : State) (o : Origin) (part job pa va : Nat) (op : PocOp) (takes : Bool) : Nat × State :=
  s.askSince s.clock o part job pa va op takes

/-- The dirty bytes of a line as cells (R340). -/
def CLine.dirtyCells (l : CLine) (line : Nat) : List (Nat × Byte) :=
  ((List.range 64).filter fun i => l.dirty.getLsbD i).map fun i => (line * 64 + i, l.data.extractLsb' (8 * i) 8)

/-- A dirty line leaves for its seal engine; it stays, clean, or is dropped (R266, R340). -/
def State.pushLine (s : State) (cl line : Nat) (drop : Bool) : State :=
  match (s.cluster cl).cache.find line with
  | none => s
  | some l =>
    let cells := l.dirtyCells line
    let s := if cells = [] then s else (s.askSince l.since (.cache cl) l.part 0 ((cells.head?.map (·.1)).getD 0) 0 (.write cells) false).2
    s.modCluster cl fun k =>
      { k with cache := if drop then k.cache.del line else k.cache.set line { l with dirty := 0#64 } }

/-- A cluster's cache has a place for a line: of its 16,384 lines the one that was filled longest ago leaves for a new one (R1, R266). -/
def State.makeRoom (s : State) (cl line : Nat) : State :=
  let c := (s.cluster cl).cache
  if (c.find line).isSome || decide (c.length < Config.cacheLines) then s
  else
    match c.foldl (fun (a : Option (Nat × CLine)) p => match a with
      | none => some p
      | some q => if p.2.stamp < q.2.stamp then some p else some q) none with
    | none => s
    | some p => s.pushLine cl p.1 true

/-- Whether an access of a core to a page goes through its cluster's cache: to device memory, on a page without NC, by a core that the
cluster serves (R71, R234, R266). -/
def State.cached (s : State) (core : Nat) (e : TlbEnt) : Bool := paKind e.pa == .sealed && !e.nc && s.served core

/-- Whether a context's own entries of a page are in the side log (R248). -/
def Core.logged (k : Core) (ctx page : Nat) : Bool := k.log.any fun e => e.ctx == ctx && pageOf e.va == page

/-- Whether requests of a context, or of its cluster's cache, to lines are still on their way. -/
def State.ownPending (s : State) (core ctx lo hi : Nat) : Bool :=
  s.poc.any fun r => (r.origin == .ctx core ctx || r.origin == .cache (clusterOf core)) && r.touches lo hi

/-- The release condition of R341 at a scope for what a context did up to a time. The side log has drained in every case (R248,
R289). -/
def State.released (s : State) (core ctx scope since : Nat) : Bool :=
  let k := s.core core
  let cl := s.cluster (clusterOf core)
  let own := s.poc.any fun r => r.origin == .ctx core ctx
  !(k.log.any fun e => e.ctx == ctx)
    && (scope == 0 || !own)
    && (decide (scope < 3)
      || (!(cl.cache.any fun p => decide (p.2.dirty ≠ 0#64) && decide (p.2.since ≤ since))
        && !(s.poc.any fun r => r.origin == .cache (clusterOf core))))
    && (decide (scope < 5) || !(s.puts.any fun p => p.2.core == some core && decide (p.2.since ≤ since)))

/-- The instruction waits until its release condition holds (R341). -/
def awaitRelease (scope : Nat) : M Unit := do
  let s ← get
  let t := s.me.relAt.getD s.clock
  modMe fun x => { x with relAt := some t }
  if !s.released s.cur.core s.cur.ctx scope t then blockM (.release scope)

/-- SCOPE and ORDER of an access, device and plain without a PFX.M (R264). -/
def scopeOf (mo : Option MemOrd) : Nat := (mo.map (·.scope)).getD 4
@[inherit_doc scopeOf] def orderOf (mo : Option MemOrd) : Nat := (mo.map (·.order)).getD 0
def isAcquire (mo : Option MemOrd) : Bool := orderOf mo % 2 == 1
def isRelease (mo : Option MemOrd) : Bool := decide (2 ≤ orderOf mo)

/-- The release half of an ordered access, and the acquire action (R341). -/
def releaseFor (mo : Option MemOrd) : M Unit := if isRelease mo then awaitRelease (scopeOf mo) else pure ()

/-- The acquire stamp that an acquire of a context at a scope leaves: its own time, and below die scope the newest of the contexts that
share the scope, whose acquires it may follow, those that have left their core among them (R335, R341). -/
def State.acqTimeOf (s : State) (core : Nat) (x : Ctx) (scope : Nat) : Nat :=
  let near := fun (c : Nat) => if scope = 1 then c == core else clusterOf c == clusterOf core
  if 3 ≤ scope then s.clock
  else if scope = 0 then x.acqStamp
  else ((s.cores.filter fun p => near p.1).flatMap fun p => p.2.acqStamp :: List.map (fun c => c.2.acqStamp) p.2.ctxs).foldl max x.acqStamp

@[inherit_doc State.acqTimeOf] def State.acqTime (s : State) (scope : Nat) : Nat := s.acqTimeOf s.cur.core s.me scope

@[inherit_doc releaseFor]
def acquireAt (scope : Nat) : M Unit := modify fun s => s.setMe { s.me with acqStamp := s.acqTime scope }
def acquireFor (mo : Option MemOrd) : M Unit := if isAcquire mo then acquireAt (scopeOf mo) else pure ()

/-- Whether a posted access of a context to an address has still to be performed: in the side log, or on its way to its point of
coherence. -/
def State.postedLeft (s : State) (core ctx va : Nat) : Bool :=
  ((s.core core).log.any fun e => e.ctx == ctx && e.va == va)
    || s.poc.any fun r => r.origin == .ctx core ctx && r.va == va && !r.takes

/-- The acquire of a posted access, whose read is performed after the instruction has completed: the context is BLOCKED until then, and
acquires (R341). Mark: DEDUCED (log entry 123). -/
def acquirePosted (va : Nat) (mo : Option MemOrd) : M Unit := do
  let s ← get
  if isAcquire mo && s.postedLeft s.cur.core s.cur.ctx va then set (s.blockMe (.acquire (scopeOf mo) va)) else acquireFor mo

/-- The outcome of a context's translation: an entry, a fault of a cause for the side log, or a stage-2 fault for the side log. -/
inductive CtxTr where
  | ok (e : TlbEnt)
  | fault (cause : Nat)
  | stage2
  deriving DecidableEq, Repr

/-- The translation of an access of the context at issue. A miss joins or starts a walk and waits; a posted access does not wait for
the memory master (R243, R245, R247, R267). -/
def xlateCtx (va acc : Nat) (posted : Bool) : M CtxTr := do
  let s ← get
  let x := s.me
  let core := s.cur.core
  match (s.cluster (clusterOf core)).hit x.part x.job va acc with
  | some e => return .ok e
  | none =>
    match if posted then x.xans.find? fun a => a.page == pageOf va else none with
    | some a => return .fault a.cause
    | none =>
      match s.walkOf (dieOf core) x.part x.job (pageOf va) with
      | some w =>
        if posted && w.st == .waiting then return .stage2
        else
          set (s.joinWalk (dieOf core) x.part x.job ⟨.ctx core s.cur.ctx, va, acc, posted⟩ .running).2
          blockM (if posted then .walkPosted w.tag else .walk w.tag)
      | none =>
        let (t, s) := s.joinWalk (dieOf core) x.part x.job ⟨.ctx core s.cur.ctx, va, acc, posted⟩ .running
        set s
        blockM (if posted then .walkPosted (t.getD 1024) else .walk (t.getD 1024))

/-- The request of the instruction at issue about a key. -/
def Ctx.asked (x : Ctx) (key : Nat) : Option Pending := x.pend.find? fun p => p.key == key

/-- The answer to a request about a key: it is sent first, and waited for. -/
def awaitAnswer (key : Nat) (send : M Nat) : M Answer := do
  match (← getMe).asked key with
  | some p => match p.ans with
    | some a => return a
    | none => blockM .answer
  | none =>
    let id ← send
    modMe fun x => { x with pend := x.pend ++ [⟨id, key, none⟩] }
    blockM .answer

/-- An answer reaches a context; it is discarded when nobody waits for it. -/
def State.answer (s : State) (core ctx id : Nat) (a : Answer) : State :=
  s.modCtx core ctx fun x => { x with pend := x.pend.map fun p => if p.id == id then { p with ans := some a } else p }

/-- Bytes of a peer, by a request for data (R364). -/
def loadPeer (va pa n : Nat) : M (List Byte) := do
  let s ← get
  match s.reachPeer pa with
  | none => trapM tPerm (wd va)
  | some p =>
    if p.isol && ((← getMe).asked va).isNone then
      modify fun s => s.epDrop (dieOf s.cur.core) EpDrop.addIsolated
      trapM tPerm (wd va)
    let a ← awaitAnswer va (do
      let s ← get
      let x := s.me
      let tag := s.serial
      set (s.askPeer (dieOf s.cur.core) x.part p.ep (.load s.cur.core s.cur.ctx va n) fun t => .readreq t x.part (peerAddr pa) n)
      return tag)
    match a with
    | .bytes b => return b
    | .word w => return leBytes n w.toNat
    | .fault c f => trapM c f

/-- Whether a line serves bytes [o, o + n) to a load that may use lines stamped from a time on; what the line was filled with serves for
64 µs (R340, R341). -/
def CLine.serves (l : CLine) (now stamp o n : Nat) : Bool :=
  let fresh := decide (now ≤ l.stamp + Config.us 64)
  decide (stamp ≤ l.stamp) && (List.range n).all fun i => l.dirty.getLsbD (o + i) || (l.have_.getLsbD (o + i) && fresh)

def CLine.bytes (l : CLine) (o n : Nat) : List Byte := (List.range n).map fun i => l.data.extractLsb' (8 * (o + i)) 8

/-- A load within one line of the global window (R246, R248, R266 to R268). stamp is the oldest fill it may use. -/
def loadLine (stamp va n : Nat) : M (List Byte) := do
  let s ← get
  if s.myCore.logged s.cur.ctx (pageOf va) then blockM (.logPage (pageOf va))
  match ← xlateCtx va 0 false with
  | .fault c => trapM c (wd va)
  | .stage2 => blockM .answer
  | .ok e =>
    let s ← get
    let pa := e.phys va
    let line := lineOf pa
    let cl := clusterOf s.cur.core
    match paKind pa with
    | .peer _ => loadPeer va pa n
    | .invalid => trapM tPerm (wd va)
    | _ =>
      if !s.cached s.cur.core e then
        set (s.pushLine cl line true)
        let s ← get
        if s.ownPending s.cur.core s.cur.ctx line line then blockM (.ownReq line line)
        match s.readPoc pa n with
        | some b => return b
        | none =>
          set (s.noteLost s.me.part pa)
          trapM tSeal (wd va)
      else
        if (s.poc.any fun r => r.origin == .ctx s.cur.core s.cur.ctx && r.touches line line) then blockM (.ownReq line line)
        let c := s.cluster cl
        match (c.cache.find line).filter fun l => l.serves s.clock stamp (pa % 64) n with
        | some l => return l.bytes (pa % 64) n
        | none =>
          if c.badLines.contains line then
            set (s.modCluster cl fun c => { c with badLines := c.badLines.filter (· != line) })
            trapM tSeal (wd va)
          set ((s.pushLine cl line false).modCluster cl fun c => { c with fills := if c.fills.contains line then c.fills else c.fills ++ [line] })
          blockM (.fill line)

/-- The pieces of [a, a + n) that lie each in one block of a size. -/
def splitAt (size : Nat) : Nat → Nat → Nat → List (Nat × Nat)
  | 0, _, _ => []
  | fuel + 1, a, n =>
    if n = 0 then []
    else
      let k := min n (size - a % size)
      (a, k) :: splitAt size fuel (a + k) (n - k)

/-- The alignment and window checks of one access (R265): its window. -/
def checkAccess (a n align : Nat) : M Win := do
  if align ≠ 0 ∧ a % align ≠ 0 then trapM tAlign (wd a)
  let s ← get
  match s.steer s.cur.core s.me a n with
  | none => trapM tAperture (wd a)
  | some w => return w

/-- Bytes loaded by the context at issue from a checked window. -/
def loadWin (stamp : Nat) (w : Win) (a n : Nat) : M (List Byte) := do
  match w with
  | .glob => return (← (splitAt 64 (n + 1) a n).mapM fun p => loadLine stamp p.1 p.2).flatten
  | _ => return (← get).localBytes (← get).cur.core (← getMe) w a n

/-- The oldest fill that a load may use: the last acquire, and for a tainted address the last LDC too (R339, R341). -/
def Ctx.stampFor (x : Ctx) (tainted : Bool) : Nat := if tainted then max x.acqStamp x.ldcStamp else x.acqStamp

/-- A trap word of a store fault (R249): an entry enters the side log, and the first fault of its page is reported. -/
def State.logEntry (s : State) (core ctx va : Nat) (op : LogOp) (cause : Option Nat) : State :=
  let k := s.core core
  let x := s.ctx core ctx
  let first := !(k.log.any fun e => e.part == x.part && e.job == x.job && pageOf e.va == pageOf va && e.told)
  let e : LogEnt := ⟨ctx, x.part, x.job, x.lid, x.lgen, x.pc, va, op, cause.isSome, s.clock, false⟩
  let s := s.modCore core fun k => { k with log := k.log ++ [e] }
  match cause with
  | some c => if first then s.storeFault core ctx c (wd va) x.pc else s
  | none => s

/-- The bytes of a line that a store made at a time dirties (R266, R340). -/
def CLine.write (l : CLine) (now since part : Nat) (cells : List (Nat × Byte)) : CLine :=
  let data := cells.foldl (fun d c =>
    (d &&& ~~~(BitVec.ofNat 512 (255 * 2 ^ (8 * (c.1 % 64))))) ||| BitVec.ofNat 512 (c.2.toNat * 2 ^ (8 * (c.1 % 64)))) l.data
  let bits := cells.foldl (fun (d : BitVec 64) c => d ||| BitVec.ofNat 64 (2 ^ (c.1 % 64))) 0#64
  { l with data := data, have_ := l.have_ ||| bits, dirty := l.dirty ||| bits, part := part,
           stamp := if l.have_ = 0#64 then now else l.stamp,
           since := if l.dirty = 0#64 then since else min l.since since }

/-- Cells grouped in runs of one block of a size, in order. -/
def runsBy (size : Nat) : List (Nat × Byte) → List (List (Nat × Byte))
  | [] => []
  | c :: t => match runsBy size t with
    | (d :: r) :: rest => if c.1 / size = d.1 / size then (c :: d :: r) :: rest else [c] :: (d :: r) :: rest
    | rest => [c] :: rest

/-- Cells grouped in runs of consecutive addresses, each at most 256 bytes within a 256-byte block. -/
def runsOf : List (Nat × Byte) → List (List (Nat × Byte))
  | [] => []
  | c :: t => match runsOf t with
    | (d :: r) :: rest =>
      if c.1 + 1 = d.1 ∧ c.1 / 256 = d.1 / 256 then (c :: d :: r) :: rest else [c] :: (d :: r) :: rest
    | rest => [c] :: rest

/-- A store of cells of one page, made at a time, whose translation has succeeded: to the cluster cache, to the point of coherence, or to
a peer (R234, R266, R364). -/
def State.storeSince (s : State) (since core ctx part job : Nat) (e : TlbEnt) (cells : List (Nat × Byte)) : State :=
  let phys := cells.map fun c => (e.phys c.1, c.2)
  match paKind e.pa with
  | .peer _ => match s.reachPeer e.pa with
    | none => s
    | some p => (runsOf phys).foldl (fun s r =>
        s.emit (dieOf core) p.ep (.store part (peerAddr ((r.head?.map (·.1)).getD 0)) (r.map (·.2)))) s
  | _ =>
    if s.cached core e then
      (runsBy 64 phys).foldl (fun s r =>
        let line := lineOf ((r.head?.map (·.1)).getD 0)
        (s.makeRoom (clusterOf core) line).modCluster (clusterOf core) fun c =>
          { c with cache := c.cache.set line ((c.cache.get {} line).write s.clock since part r) }) s
    else
      (runsBy 64 phys).foldl (fun s r =>
        let pa := (r.head?.map (·.1)).getD 0
        ((s.pushLine (clusterOf core) (lineOf pa) true).ask (.ctx core ctx) part job pa ((cells.head?.map (·.1)).getD 0) (.write r) false).2) s

@[inherit_doc State.storeSince]
def State.storePage (s : State) (core ctx part job : Nat) (e : TlbEnt) (cells : List (Nat × Byte)) : State :=
  s.storeSince s.clock core ctx part job e cells

/-- Whether a physical page can be stored to: not a peer that is absent, nor another device's fabric window (R267, R347, R368). -/
def State.storable (s : State) (pa : Nat) : Bool :=
  match paKind pa with
  | .peer _ => (s.reachPeer pa).isSome
  | .invalid => false
  | _ => true

/-- The fate of a posted access to a page: performed under a translation, or into the side log (R247, R249, R267). -/
inductive Fate where
  | go (e : TlbEnt)
  | log (cause : Option Nat)
  deriving DecidableEq, Repr

/-- The fate of a posted access of the context at issue; reach says which physical addresses the operation can reach. -/
def fateOf (va acc : Nat) (reach : State → Nat → Bool) : M Fate := do
  let s ← get
  if s.myCore.logged s.cur.ctx (pageOf va) then return .log none
  match ← xlateCtx va acc true with
  | .ok e =>
    if reach (← get) (e.phys va) then return .go e else return .log (some tPerm)
  | .fault c => return .log (some c)
  | .stage2 => return .log none

/-- The pages of cells, in order, without repeats. -/
def pagesOf (cells : List (Nat × Byte)) : List Nat := (cells.map fun c => pageOf c.1).eraseDups

/-- The key under which the instruction at issue has already made its store to a page. -/
def storeKey (page : Nat) : Nat := 2 ^ 64 + page

/-- What a store does to the pages of its plan: performed, or into the side log. -/
def storePlan (plan : List (List (Nat × Byte) × Nat × Fate)) : M Unit := do
  for p in plan do
    modify fun s =>
      let c := s.cur.core
      let x := s.me
      match p.2.2 with
      | .go e => s.storePage c s.cur.ctx x.part x.job e p.1
      | .log cause => s.logEntry c s.cur.ctx p.2.1 (.store p.1) cause

/-- The first of a plan's pages that need at most k entries of the side log. -/
def planFits : Nat → List (List (Nat × Byte) × Nat × Fate) → List (List (Nat × Byte) × Nat × Fate)
  | _, [] => []
  | k, p :: t => match p.2.2 with
    | .go _ => p :: planFits k t
    | .log _ => match k with
      | 0 => []
      | k + 1 => p :: planFits k t

/-- Cells stored by the context at issue to the global window: all fates are settled before anything is written (R247, R271). Where the log
has too few places, the pages that fit are stored, and the others as entries free (R249). -/
def storeGlobal (cells : List (Nat × Byte)) : M Unit := do
  let made := (← getMe).pend.map (·.key)
  let plan ← ((pagesOf cells).filter fun p => !made.contains (storeKey p)).mapM fun p => do
    let mine := cells.filter fun c => pageOf c.1 == p
    let va := (mine.head?.map (·.1)).getD 0
    return (mine, va, ← fateOf va 1 State.storable)
  let need := (plan.filter fun p => match p.2.2 with
    | .log _ => true
    | .go _ => false).length
  let used := (← get).myCore.log.length
  if 64 < used + need then
    let now := planFits (64 - used) plan
    storePlan now
    modMe fun x => { x with pend := x.pend ++ now.map fun p => ⟨0, storeKey (pageOf p.2.1), some (.word 0#64)⟩ }
    blockM .logFull
  storePlan plan

/-- Cells stored by the context at issue, each in its window: the scratchpad and stack at once (R233, R268). -/
def storeCellsAll (cells : List (Win × Nat × Byte)) : M Unit := do
  let g := (cells.filter fun c => c.1 == .glob).map (·.2)
  if g ≠ [] then storeGlobal g
  for c in cells do
    if c.1 ≠ .glob then modify fun s => s.storeLocal s.cur.core s.me c.1 c.2.1 [c.2.2]

/-- Bytes stored by the context at issue in a checked window. -/
def storeWin (w : Win) (a : Nat) (b : List Byte) : M Unit := do
  match w with
  | .glob => storeGlobal (cellsAt a b)
  | _ => modify fun s => s.storeLocal s.cur.core s.me w a b

/-- The cluster's cached copy of the bytes is written back, if dirty, and invalidated, before an operation at the point of coherence
(R266). -/
def State.flushFor (s : State) (core pa : Nat) : State := s.pushLine (clusterOf core) (lineOf pa) true

/-- The address reaches sealed device memory. -/
def sealedOnly (_ : State) (pa : Nat) : Bool := paKind pa == .sealed

/-- A posted operation of the context at issue at one address of the global window (R247, R267). -/
def postOp (va acc : Nat) (reach : State → Nat → Bool) (lop : LogOp) (go : State → TlbEnt → State) : M Unit := do
  match ← fateOf va acc reach with
  | .go e => modify fun s => go s e
  | .log cause =>
    let s ← get
    if 64 ≤ s.myCore.log.length then blockM .logFull
    set (s.logEntry s.cur.core s.cur.ctx va lop cause)

/-- An operation that takes a result waits for the context's own log entries of the page, then for its translation (R248, R267). -/
def takeOp (va acc : Nat) (reach : State → Nat → Bool) : M TlbEnt := do
  let s ← get
  if s.myCore.logged s.cur.ctx (pageOf va) then blockM (.logPage (pageOf va))
  match ← xlateCtx va acc false with
  | .ok e => if reach (← get) (e.phys va) then return e else trapM tPerm (wd va)
  | .fault c => trapM c (wd va)
  | .stage2 => blockM .answer

end Sys2Proof.Machine
end

