-- ==== Sys2Proof/Machine/Walker.lean ====
section
/-! DEFINITION. What the walkers, the side logs and the fetch buffers do: finishing walks, the memory master's answers, replay, and
filling a line of code (R96, R240 to R252). -/

namespace Sys2Proof.Machine

/-- A request of a walk that a stage-1 fault or a refusal ends (R244 to R247). A posted access that the walk has let go, and that has not
issued again, hears of it too. -/
def State.failReq (s : State) (tag : Nat) (r : WalkReq) (cause : Nat) : State :=
  match r.asker with
  | .ctx core ctx =>
    let x := s.ctx core ctx
    if r.posted then
      let waits := x.why = some (.walkPosted tag) ∨ (x.st = .running ∧ (s.core core).logged ctx (pageOf r.va) = false)
      if waits then s.setCtx core ctx { x with xans := x.xans ++ [⟨pageOf r.va, cause⟩] } else s
    else if x.why = some (.walk tag) then s.trapAt core ctx cause (wd r.va) x.pc
    else s
  | .fetch core ctx =>
    let x := s.ctx core ctx
    if x.st = .running then s.trapAt core ctx cause (wd r.va) x.pc else s
  | .pref _ _ => s
  | .unit _ => s

/-- The cluster whose translation cache a request fills. -/
def Asker.cluster? (a : Asker) : Option Nat :=
  match a with
  | .ctx core _ => some (clusterOf core)
  | .fetch core _ => some (clusterOf core)
  | .pref core _ => some (clusterOf core)
  | .unit _ => none

/-- The line that a PREF names begins to fill once its page translates (R290). -/
def State.prefFill (s : State) (core va : Nat) (e : TlbEnt) : State :=
  if s.cached core e then
    let line := lineOf (e.phys va)
    s.modCluster (clusterOf core) fun c => { c with fills := if c.fills.contains line then c.fills else c.fills ++ [line] }
  else s

/-- What a request does once its page translates. -/
def State.gotPage (s : State) (r : WalkReq) (e : TlbEnt) : State :=
  match r.asker with
  | .pref core _ => s.prefFill core r.va e
  | _ => s

/-- Whether a request is dropped by a walk that does not translate its page (R290). -/
def Asker.drops (a : Asker) : Bool :=
  match a with
  | .pref _ _ => true
  | _ => false

/-- The requests of a walk translated in turn: the state after it, and those that meet a walk event or a migrating leaf with what
they met. -/
def State.walkReqs (w : Walk) : List WalkReq → State → State × List (WalkReq × Xlate)
  | [], s => (s, [])
  | r :: t, s =>
    match s.xlate w.part w.job r.va r.acc with
    | .ok e => State.walkReqs w t (match r.asker.cluster? with
        | some c => (s.modCluster c fun k => k.learn e).gotPage r e
        | none => s)
    | .fault c => State.walkReqs w t (s.failReq w.tag r c)
    | x =>
      let (u, l) := State.walkReqs w t s
      if r.asker.drops then (u.noteMet w.part w.job r.va x, l) else (u, (r, x) :: l)

/-- A walk from the root (R243 to R245): the requests that it answers leave it, and with the others it waits for the memory master or
stalls. A leaf that still migrates at the deadline raises WALKBUSY. -/
def State.runWalk (s : State) (w : Walk) (deadline : Nat) (late : Bool) : State :=
  let (s, left) := State.walkReqs w w.reqs s
  let others := s.walks.filter fun v => v.tag != w.tag
  match left with
  | [] => { s with walks := others }
  | (_, .event code level ipa) :: _ =>
    let w := { w with reqs := left.map (·.1), st := .waiting }
    ({ s with walks := others ++ [w] }).walkEvent w code level ipa
  | (_, .mig level ipa) :: _ =>
    let w := { w with reqs := left.map (·.1), st := if late then .waiting else .stalled deadline }
    let s := { s with walks := others ++ [w] }
    if late then s.walkEvent w evWalkbusy level ipa else s
  | _ => { s with walks := others }

def State.walk (s : State) (tag : Nat) : Option Walk := s.walks.find? fun w => w.tag == tag

/-- The access that a log entry makes (R242). -/
def LogOp.acc (o : LogOp) : Nat :=
  match o with
  | .store _ => 1
  | _ => 3

/-- Whether an operation reaches a physical address (R234, R267, R275, R276, R287). -/
def LogOp.reaches (o : LogOp) (s : State) (pa : Nat) : Bool :=
  match o with
  | .store _ => s.storable pa
  | .amo op size _ _ _ => match paKind pa with
    | .sealed => true
    | .host => op == .add || op == .swap || op == .cas
    | .peer _ => (s.reachPeer pa).any fun p => p.feotte || Config.carrierAtomic p.carrier op size
    | .invalid => false
  | _ => paKind pa == .sealed

/-- An atomic for a peer goes out on the core's atomic flow, or as the carrier's transaction; tag 0 asks for no answer (R363, R364). One
whose flow has broken is lost. Mark: DESIGN CHOICE (log entry 108). -/
def State.peerAtomic (s : State) (core part tag : Nat) (p : Peer) (pa : Nat) (op : AmoOp) (size : Nat) (sgn : Bool) (arg cmp : Word) :
    State :=
  if p.isol then s.epDrop (dieOf core) EpDrop.addIsolated
  else if p.feotte then
    (s.openAtomic core p.ep).sendOnFlow core (isAtomicFlow p.ep) p.ep fun q =>
      .atomic tag core q part (peerAddr pa) op size sgn arg cmp
  else s.emit (dieOf core) p.ep (.atomic tag core 0 part (peerAddr pa) op size sgn arg cmp)

/-- A posted operation, made at a time, whose translation has succeeded is on its way to where it is performed (R266, R275). -/
def State.postSince (s : State) (since core ctx part job va : Nat) (op : LogOp) (e : TlbEnt) : State :=
  let pa := e.phys va
  let ask := fun (o : PocOp) => ((s.flushFor core pa).ask (.ctx core ctx) part job pa va o false).2
  match op with
  | .store cells => s.storeSince since core ctx part job e cells
  | .amo op size sgn arg cmp => match s.reachPeer pa with
    | some p => s.peerAtomic core part 0 p pa op size sgn arg cmp
    | none => ask (.amo op size sgn arg cmp)
  | .ship arg ctl => ask (.ship arg ctl)
  | .sig neg amount => ask (if neg then .sigNeg else .sigAdd amount)

@[inherit_doc State.postSince]
def State.postNow (s : State) (core ctx part job va : Nat) (op : LogOp) (e : TlbEnt) : State :=
  s.postSince s.clock core ctx part job va op e

/-- The first fault of a page is reported for its first entry (R249). -/
def State.tellEntry (s : State) (core : Nat) (e : LogEnt) (cause : Nat) : State :=
  let told := (s.core core).log.any fun o => o.part == e.part && o.job == e.job && pageOf o.va == pageOf e.va && o.told
  if told then s
  else
    let s := s.modCore core fun k => { k with log := k.log.map fun o => if o == e then { o with told := true } else o }
    s.storeFault core e.ctx cause (wd e.va) e.pc

/-- A side-log entry that is an atomic. -/
def LogOp.isAmo (o : LogOp) : Bool :=
  match o with
  | .amo _ _ _ _ _ => true
  | _ => false

/-- Whether an atomic of the log that translates to a peer has to wait for an earlier atomic of its context there: they reach the peer in
the order of their issue (R332). -/
def Core.behindAmo (k : Core) (e : LogEnt) : Bool :=
  e.op.isAmo && ((k.log.takeWhile fun o => o != e).any fun o => o.ctx == e.ctx && o.op.isAmo)

/-- An entry of a core's log changed. -/
def State.modLog (s : State) (core : Nat) (e : LogEnt) (f : LogEnt → LogEnt) : State :=
  s.modCore core fun k => { k with log := k.log.map fun o => if o == e then f o else o }

/-- Side-log entries retried in order; a context whose entry faults again keeps it and those behind it (R248, R249). A retry joins the walk
of its page that is in progress (R243). One that finds no walk free, or an earlier atomic ahead of it, is still to be made. -/
def State.replayEntries (core page : Nat) : List LogEnt → List Nat → State → State
  | [], _, s => s
  | e :: t, stuck, s =>
    if pageOf e.va ≠ page ∨ stuck.contains e.ctx then State.replayEntries core page t stuck s
    else
      let req : WalkReq := ⟨.ctx core e.ctx, e.va, e.op.acc, true⟩
      let keep := fun (s : State) => State.replayEntries core page t (e.ctx :: stuck) s
      let later := fun (s : State) => s.modLog core e fun o => { o with again := true }
      if (s.walkOf (dieOf core) e.part e.job page).isSome then keep (s.joinWalk (dieOf core) e.part e.job req .waiting).2
      else match s.xlate e.part e.job e.va e.op.acc with
      | .ok r =>
        if e.op.reaches s (r.phys e.va) then
          if (s.reachPeer (r.phys e.va)).isSome && (s.core core).behindAmo e then keep (later s)
          else State.replayEntries core page t stuck
            ((s.modCore core fun k => { k with log := k.log.erase e }).postSince e.born core e.ctx e.part e.job e.va e.op r)
        else keep (s.tellEntry core e tPerm)
      | .fault c => keep (s.tellEntry core e c)
      | .event code level ipa =>
        let (tag, u) := s.joinWalk (dieOf core) e.part e.job req .waiting
        keep (match tag with
          | some n => (match u.walk n with
            | some w => u.walkEvent w code level ipa
            | none => u)
          | none => later s)
      | .mig _ _ => keep (match s.joinWalk (dieOf core) e.part e.job req (.stalled (s.clock + Config.us 64)) with
          | (some _, u) => u
          | (none, _) => later s)

/-- A page's entries are retried on a core (R248). -/
def State.replayOn (s : State) (core part job page : Nat) : State :=
  let mine := fun (e : LogEnt) => e.part == part && e.job == job
  let s := s.modCore core fun k => { k with log := k.log.map fun e => if mine e && pageOf e.va == page then { e with again := false } else e }
  State.replayEntries core page ((s.core core).log.filter mine) [] s

/-- A page's entries are retried on every core of the device. -/
def State.replayPage (s : State) (part job page : Nat) : State :=
  s.cores.foldl (fun s p => s.replayOn p.1 part job page) s

/-- The retries of side-log entries that have joined a walk are made once the walk has ended (R243, R248). -/
def State.replayJoined (s : State) (w : Walk) : State :=
  if w.reqs.any (·.posted) then s.replayPage w.part w.job w.page else s

/-- TRANSLATION_WALK (R243): a walker finishes a walk. -/
def execTranslationWalk (tag : Nat) (s : State) : Host.Outcome State Fault Refusal :=
  match s.walk tag with
  | some w => stepIf (w.st == .running) (fun s => (s.runWalk w (s.clock + Config.us 64) false).replayJoined w) s
  | none => .next s

/-- The retries of side-log entries that are still to be made are made once an earlier atomic has left the log and a walk is free (R243,
R248, R332). -/
def State.dueRetries (s : State) : State :=
  (s.cores.filter fun p => p.2.log.any (·.again)).foldl (fun s p =>
    ((s.core p.1).log.filter fun e => e.again && !(s.core p.1).behindAmo e && (s.freeTag (dieOf p.1)).isSome).foldl (fun s e =>
      s.replayOn p.1 e.part e.job (pageOf e.va)) s) s

/-- WALKBUSY (R245): 64 µs after a walk met a migrating leaf it reads the entry once more; the side-log entries that waited with it are
retried (R248). -/
def execWalkbusy (tag : Nat) (s : State) : Host.Outcome State Fault Refusal :=
  match s.walk tag with
  | some w => match w.st with
    | .stalled t => stepIf (decide (t ≤ s.clock)) (fun s => (s.runWalk w t true).replayPage w.part w.job w.page) s
    | _ => .next s
  | none => .next s

/-- WALKRESP_RETRY (R245): the walk is made again from the root, and the page's side-log entries are retried (R248). -/
def execWalkrespRetry (tag : Nat) (s : State) : Host.Outcome State Fault Refusal :=
  match s.walk tag with
  | some w => stepIf (w.st == .waiting) (fun s =>
      (s.runWalk w (s.clock + Config.us 64) false).replayPage w.part w.job w.page) s
  | none => .next s

/-- Every entry of a page leaves a core's log; the first is reported (R249). -/
def State.refuseLog (s : State) (core part job page cause : Nat) : State :=
  let hit := fun (e : LogEnt) => e.part == part && e.job == job && pageOf e.va == page
  match (s.core core).log.find? hit with
  | none => s
  | some e => (s.modCore core fun k => { k with log := k.log.filter fun o => !hit o }).storeFault core e.ctx cause (wd e.va) e.pc

/-- WALKRESP with ACT REFUSE (R245, R249). -/
def State.refuseWalk (s : State) (w : Walk) (cause : Nat) : State :=
  let s := w.reqs.foldl (fun s r => s.failReq w.tag r cause) s
  let units := w.reqs.filter fun r => match r.asker with
    | .unit _ => true
    | _ => false
  let left := s.walks.filter fun (v : Walk) => v.tag != w.tag
  let s : State := { s with walks := left ++ (if units = [] then [] else [{ w with tag := doneTag, reqs := units, st := .refused cause }]) }
  s.cores.foldl (fun s p => s.refuseLog p.1 w.part w.job w.page cause) s

/-- WALKRESP_REFUSE_PAGE (R245). -/
def execWalkrespRefusePage (tag : Nat) (s : State) : Host.Outcome State Fault Refusal :=
  match s.walk tag with
  | some w => stepIf (w.st == .waiting) (fun s => s.refuseWalk w tPage) s
  | none => .next s

/-- WALKRESP_REFUSE_PERM (R245). -/
def execWalkrespRefusePerm (tag : Nat) (s : State) : Host.Outcome State Fault Refusal :=
  match s.walk tag with
  | some w => stepIf (w.st == .waiting) (fun s => s.refuseWalk w tPerm) s
  | none => .next s

/-- A stalled walk of a partition whose stage 2 has been invalidated reads its entry again (R245, R248). -/
def State.lookAgain (part : Nat) (s : State) (w : Walk) : State :=
  match w.st with
  | .stalled t => if w.part = part then (s.runWalk w t false).replayPage w.part w.job w.page else s
  | _ => s

/-- STAGE2_INVALIDATION (R243, R245, R252): it completes on every cluster, the holder of the translation that it names is told, and stalled
walks of the partition read their entry again. -/
def execStage2Invalidation (v : Inval) (s : State) : Host.Outcome State Fault Refusal :=
  let s := { s with clusters := s.clusters.map fun _ k => { k with tlb := k.tlb.filter fun e => e.part != v.part } }
  let told := s.board.grants.map fun g =>
    if g.part = v.part ∧ v.tag = some g.tag ∧ g.invalidated = none then { g with invalidated := some s.clock } else g
  let s := { s with board := { s.board with grants := told } }
  .next (s.walks.foldl (State.lookAgain v.part) s)

/-- S2ROOT_WRITE (R240), by firmware, none of which runs in the safe state (R450): the one value that every die holds. -/
def execS2rootWrite (part : Nat) (v : Word) (s : State) : Host.Outcome State Fault Refusal :=
  stepIf (decide (part < 32) && !s.board.safe) (fun s => s.modPart part fun p => { p with s2root := wd (rootOf v) }) s

/-- SIDELOG_DISCARD (R250): every entry of the context that a SIDELOG write named is discarded. -/
def execSidelogDiscard (core dctx : Nat) (s : State) : Host.Outcome State Fault Refusal :=
  stepIf ((s.core core).discards.contains dctx) (fun s =>
    let told := fun (_ : Nat) (x : Ctx) =>
      { x with pend := x.pend.map fun p => if p.key == 0x12200 + dctx then { p with ans := some (.word 0#64) } else p }
    s.modCore core fun k =>
      { k with discards := k.discards.erase dctx, log := k.log.filter (fun e => e.ctx % 16 != dctx), ctxs := k.ctxs.map told }) s

/-- The address of the first word that a context lacks (R95, R96). -/
def Core.missing (k : Core) (x : Ctx) : Nat :=
  (x.pc.toNat + 2 * (k.codeWords x.part x.job 6 x.pc.toNat).length) % 2 ^ 64

/-- A line of code enters a core's fetch buffer of 32 lines (R96). -/
def State.addCode (s : State) (core part job va pa : Nat) (data : List Byte) : State :=
  s.modCore core fun k => { k with fetch := (⟨part, job, va / 64 * 64, pa / 64 * 64, data⟩ :: k.fetch).take 32 }

/-- A line read by a cluster's cache: the bytes it holds if it holds all, else those of the point of coherence beneath its dirty
bytes (R266, R340). None where the seal check fails (R258). -/
def State.cacheLine (s : State) (cl line part : Nat) : Option (List Byte × State) :=
  let l := (s.cluster cl).cache.get {} line
  if l.have_ = BitVec.allOnes 64 then some (l.bytes 0 64, s)
  else
    match s.readPoc (line * 64) 64 with
    | none => none
    | some b =>
      let under := BitVec.ofNat 512 (leNat b)
      let keep := (List.range 64).foldl (fun (m : BitVec 512) i =>
        if l.dirty.getLsbD i then m ||| BitVec.ofNat 512 (255 * 2 ^ (8 * i)) else m) 0#512
      let n : CLine := { l with data := (l.data &&& keep) ||| (under &&& ~~~keep), have_ := BitVec.allOnes 64, stamp := s.clock,
                                part := part }
      some (n.bytes 0 64, (s.makeRoom cl line).modCluster cl fun k => { k with cache := k.cache.set line n })

/-- Whether what a cluster sent to a line is still on its way, so that nothing fills the line (R266). -/
def State.lineBusy (s : State) (cluster line : Nat) : Bool :=
  s.poc.any fun r => r.origin.cluster? == some cluster && r.touches line line

/-- INSTRUCTION_FETCH_FILL (R95, R96): the line of the first word that a context lacks is filled through the cluster cache, its
translation is asked for, or the fetch traps. A line that the cache lacks is filled once nothing of the cluster is on its way to it
(R266). -/
def execInstructionFetchFill (core ctx : Nat) (s : State) : Host.Outcome State Fault Refusal :=
  let k := s.core core
  let x := s.ctx core ctx
  let va := k.missing x
  stepIf (x.st == .running && !k.halted && (k.slotOf x).isNone) (fun s =>
    if !inGlobal va then s.trapAt core ctx tAperture (wd va) x.pc
    else
      match (s.cluster (clusterOf core)).hit x.part x.job va 2 with
      | none => (s.joinWalk (dieOf core) x.part x.job ⟨.fetch core ctx, va, 2, false⟩ .running).2
      | some e =>
        let pa := e.phys va
        match paKind pa with
        | .peer _ => match s.reachPeer pa with
          | none => s.trapAt core ctx tPerm (wd va) x.pc
          | some p =>
            let pla := pa / 64 * 64
            let req := PeerReq.fetch core ctx (va / 64 * 64) pla
            if p.isol then (s.epDrop (dieOf core) EpDrop.addIsolated).trapAt core ctx tPerm (wd va) x.pc
            else if s.waits.any fun w => w.req == req then s
            else s.askPeer (dieOf core) x.part p.ep req fun t => .readreq t x.part (peerAddr pla) 64
        | .invalid => s.trapAt core ctx tPerm (wd va) x.pc
        | _ =>
          if s.cached core e && s.lineBusy (clusterOf core) (lineOf pa) then s
          else
          let line := if !s.cached core e then (s.readPoc (lineOf pa * 64) 64).map fun b => (b, s)
            else s.cacheLine (clusterOf core) (lineOf pa) x.part
          match line with
          | some (b, s) => s.addCode core x.part x.job va pa b
          | none => (s.noteLost x.part pa).trapAt core ctx tSeal (wd va) x.pc) s

end Sys2Proof.Machine
end

