-- ==== Sys2Proof/Machine/Memory.lean ====
section
/-! DEFINITION. The loads, stores and atomics of page 2 (R264 to R275). -/

namespace Sys2Proof.Machine

/-- A loaded value extended to a word (R268, R274). -/
def extend (sgn size : Nat) (v : Nat) : Word := if sgn = 1 then sextW (wd v) (8 * 2 ^ size) else wd (v % 2 ^ (8 * 2 ^ size))

/-- The scalar load; ldc marks its result as tainted and its dependents as ordered after it (R268, R269). -/
def loadScalar (ldc : Bool) (g z d a : Nat) (imm : Int) (mo : Option MemOrd) : M Unit := do
  let taint := (← getMe).tainted a
  let v ← operands (.dst d) (.src a) .none
  let addr := (v.a + w64 imm).toNat
  let w ← checkAccess addr (2 ^ z) (2 ^ z)
  let b ← loadWin ((← getMe).stampFor taint) w addr (2 ^ z)
  acquireFor mo
  if ldc then modify fun s => s.setMe { s.me with ldcStamp := max s.me.ldcStamp (s.acqTime (scopeOf mo)) }
  writeX d (extend g z (leNat b)) ldc

/-- LD (R268). -/
def execLd (g z d a : Nat) (imm : Int) (mo : Option MemOrd) (s : State) : Out := finish (loadScalar false g z d a imm mo) s

/-- LDC (R268, R269). -/
def execLdc (g z d a : Nat) (imm : Int) (mo : Option MemOrd) (s : State) : Out := finish (loadScalar true g z d a imm mo) s

/-- ST (R268). -/
def execSt (z d a : Nat) (imm : Int) (mo : Option MemOrd) (s : State) : Out :=
  finish (do
    let v ← operands (.src d) (.src a) .none
    let addr := (v.a + w64 imm).toNat
    let w ← checkAccess addr (2 ^ z) (2 ^ z)
    releaseFor mo
    storeWin w addr (leBytes (2 ^ z) v.d.toNat)) s

/-- A lane of a row access: its number, its address and its window. -/
structure LaneAcc where
  lane : Nat
  addr : Nat
  win : Win
  deriving DecidableEq, Repr

/-- The lane accesses checked in increasing lane order (R265). -/
def checkLanes (w align : Nat) (lanes : List (Nat × Nat)) : M (List LaneAcc) :=
  lanes.mapM fun p => do return ⟨p.1, p.2, ← checkAccess p.2 w align⟩

/-- The lanes loaded, and those that read zero, written to row d (R270, R271, R273). -/
def loadLanes (stamp d w L : Nat) (acc : List LaneAcc) (zeros : List Nat) : M Unit := do
  let got ← acc.mapM fun l => do return (l.lane, leNat (← loadWin stamp l.win l.addr w))
  writeLanes d (8 * w) ((List.range L).map fun i =>
    match got.find? fun p => p.1 == i with
    | some p => some (plain p.2)
    | none => if zeros.contains i then some (plain 0) else none)

/-- The cells of lanes of a row, in lane order: the highest lane stands where lanes overlap (R271). -/
def laneCells (r : Row) (w : Nat) (acc : List LaneAcc) : List (Win × Nat × Byte) :=
  acc.flatMap fun l => (cellsAt l.addr (leBytes w (laneAt (8 * w) r l.lane))).map fun c => (l.win, c.1, c.2)

/-- The lanes of a masked row access from an address (R270). -/
def maskedLanes (x : Ctx) (k addr : Nat) : List (Nat × Nat) :=
  let w := laneBits x.vtype / 8
  (((List.range (laneCount x.vtype)).filter fun i => activeLane (x.governing k) i)).map fun i => (i, (addr + i * w) % 2 ^ 64)

/-- VLD (R270). -/
def execVld (d a : Nat) (imm : Int) (k : Nat) (mo : Option MemOrd) (s : State) : Out :=
  finish (do
    let x ← getMe
    let v ← operands (.row d) (.src a) .none [] (if k = 0 then none else x.typeBad 0 isAny)
    let addr := (v.a + w64 imm).toNat
    if addr % 8 ≠ 0 then trapM tAlign (wd addr)
    let stamp := (← getMe).stampFor (x.tainted a)
    if k = 0 then
      let w ← checkAccess addr 256 8
      let b ← loadWin stamp w addr 256
      writeRow d (BitVec.ofNat 2048 (leNat b))
    else
      let w := laneBits x.vtype / 8
      let acc ← checkLanes w 1 (maskedLanes x k addr)
      loadLanes stamp d w (laneCount x.vtype) acc []
    acquireFor mo) s

/-- VST (R270). -/
def execVst (d a : Nat) (imm : Int) (k : Nat) (mo : Option MemOrd) (s : State) : Out :=
  finish (do
    let x ← getMe
    let v ← operands (.row d) (.src a) .none [] (if k = 0 then none else x.typeBad 0 isAny)
    let addr := (v.a + w64 imm).toNat
    if addr % 8 ≠ 0 then trapM tAlign (wd addr)
    let r ← readRow d
    if k = 0 then
      let w ← checkAccess addr 256 8
      releaseFor mo
      storeWin w addr (leBytes 256 r.toNat)
    else
      let w := laneBits x.vtype / 8
      let acc ← checkLanes w 1 (maskedLanes x k addr)
      releaseFor mo
      storeCellsAll (laneCells r w acc)) s

/-- The active lanes of a strided access with their addresses (R271). -/
def stridedLanes (x : Ctx) (k : Nat) (base stride : Word) : List (Nat × Nat) :=
  ((List.range (laneCount x.vtype)).filter fun i => activeLane (x.governing k) i).map fun i =>
    (i, (base + w64 ((i : Int) * sg stride)).toNat)

/-- VLDS (R271). -/
def execVlds (d a b k : Nat) (mo : Option MemOrd) (s : State) : Out :=
  finish (do
    let x ← getMe
    let v ← operands (.row d) (.src a) (.src b) [] (x.typeBad 0 isAny)
    let w := laneBits x.vtype / 8
    let acc ← checkLanes w w (stridedLanes x k v.a v.b)
    loadLanes ((← getMe).stampFor (x.tainted a || x.tainted b)) d w (laneCount x.vtype) acc []
    acquireFor mo) s

/-- VSTS (R271). -/
def execVsts (d a b k : Nat) (mo : Option MemOrd) (s : State) : Out :=
  finish (do
    let x ← getMe
    let v ← operands (.row d) (.src a) (.src b) [] (x.typeBad 0 isAny)
    let w := laneBits x.vtype / 8
    let acc ← checkLanes w w (stridedLanes x k v.a v.b)
    releaseFor mo
    storeCellsAll (laneCells (← readRow d) w acc)) s

/-- The active lanes of a gather or scatter part with their indices (R271). -/
def indexedLanes (x : Ctx) (p k : Nat) (ix : Row) : List (Nat × Nat) :=
  ((List.range 64).map (64 * p + ·)).filterMap fun i =>
    if activeLane (x.governing k) i then some (i, laneAt 32 ix (i - 64 * p)) else none

/-- Whether an index is out of range under GBOUND (R272). -/
def outOfBound (x : Ctx) (ix : Nat) : Bool := decide (wbits x.gbound 31 0 ≠ 0) && decide (wbits x.gbound 31 0 ≤ ix)

/-- The lanes of a gather or scatter whose index is in range, with their addresses, and the lanes out of range; with GTRAP = 1 the
first of those traps (R273). -/
def boundedLanes (p k b : Nat) (base : Word) : M (List (Nat × Nat) × List Nat) := do
  let x ← getMe
  let w := laneBits x.vtype / 8
  let l := indexedLanes x p k (← readRow b)
  let out := l.filter fun q => outOfBound x q.2
  match out with
  | [] => pure ()
  | q :: _ => if wbit x.gbound 63 then trapM tGather (wd q.1)
  return ((l.filter fun q => !outOfBound x q.2).map fun q => (q.1, (base + wd (w * q.2)).toNat), out.map (·.1))

/-- GHIT is set when a lane was out of range (R272, R273). -/
def noteHit (out : List Nat) : M Unit := if out = [] then pure () else modMe fun x => { x with gbound := x.gbound ||| wd (2 ^ 62) }

/-- The cause of a part at or above L ÷ 64, or of a type (R271). -/
def partBad (x : Ctx) (p : Nat) : Option Nat :=
  badIf (!isAny x.vtype || decide (laneCount x.vtype / 64 ≤ p)) tIllegal

/-- VGATH (R271 to R273). -/
def execVgath (p d a b k : Nat) (mo : Option MemOrd) (s : State) : Out :=
  finish (do
    let x ← getMe
    let v ← operands (.row d) (.src a) (.row b) [] (partBad x p)
    let w := laneBits x.vtype / 8
    let (lanes, out) ← boundedLanes p k b v.a
    let acc ← checkLanes w w lanes
    loadLanes ((← getMe).stampFor (x.tainted a)) d w (laneCount x.vtype) acc out
    noteHit out
    acquireFor mo) s

/-- VSCAT (R271 to R273). -/
def execVscat (p d a b k : Nat) (mo : Option MemOrd) (s : State) : Out :=
  finish (do
    let x ← getMe
    let v ← operands (.row d) (.src a) (.row b) [] (partBad x p)
    let w := laneBits x.vtype / 8
    let (lanes, out) ← boundedLanes p k b v.a
    let acc ← checkLanes w w lanes
    releaseFor mo
    storeCellsAll (laneCells (← readRow d) w acc)
    noteHit out) s

/-- What an atomic writes, from the old value, its argument and its comparand, all of n bytes (R274). -/
def amoNew (op : AmoOp) (size : Nat) (sgn : Bool) (old arg cmp : Nat) : Nat :=
  let m := 2 ^ (8 * 2 ^ size)
  let key : Nat → Int := fun v => intVal sgn (8 * 2 ^ size) (v % m)
  match op with
  | .add => (old + arg) % m
  | .and => old &&& (arg % m)
  | .or => old ||| (arg % m)
  | .xor => old ^^^ (arg % m)
  | .min => if key old ≤ key arg then old else arg % m
  | .max => if key arg ≤ key old then old else arg % m
  | .swap => arg % m
  | .cas => if old = cmp % m then arg % m else old
  | .sigAdd => (old + arg) % m
  | .sigNeg => 2 ^ 63

/-- An atomic of the context at issue for a peer waits while the side log holds an earlier one of the context, whose peer no translation
has named yet (R332), and while its flow is full (R360). Mark: DESIGN CHOICE (log entry 108). -/
def awaitFlow (va : Nat) (p : Peer) : M Unit := do
  let s ← get
  match s.myCore.log.find? fun e => e.ctx == s.cur.ctx && e.op.isAmo && pageOf e.va != pageOf va with
  | some e => blockM (.logPage (pageOf e.va))
  | none => pure ()
  if (s.flowsOf s.cur.core).any fun f => isAtomicFlow p.ep f && f.full then blockM (.flow p.ep)

/-- An atomic whose result is taken: the old value (R266, R274, R275, R363). -/
def amoTake (op : AmoOp) (size : Nat) (sgn : Bool) (va : Nat) (arg cmp : Word) : M Nat := do
  let lop := LogOp.amo op size sgn arg cmp
  let ans ← do
    match (← getMe).asked va with
    | some p => match p.ans with
      | some a => pure a
      | none => blockM .answer
    | none =>
      let e ← takeOp va 3 fun s pa => lop.reaches s pa
      let pa := e.phys va
      match (← get).reachPeer pa with
      | some p =>
        if p.isol then
          modify fun s => s.epDrop (dieOf s.cur.core) EpDrop.addIsolated
          trapM tPerm (wd va)
        awaitFlow va p
        awaitAnswer va (do
          let s ← get
          let c := s.cur.core
          let x := s.me
          let tag := s.serial + 1
          let w : PeerWait := ⟨tag, p.ep, .atomic c s.cur.ctx va size sgn, s.clock + Config.us (fabRead (s.part x.part).fabpol)⟩
          set ({ s with serial := s.serial + 2, waits := s.waits ++ [w] }.peerAtomic c x.part tag p pa op size sgn arg cmp)
          return tag)
      | none =>
        awaitAnswer va (do
          let s ← get
          let x := s.me
          let (id, t) := (s.flushFor s.cur.core pa).ask (.ctx s.cur.core s.cur.ctx) x.part x.job pa va
            (.amo op size sgn arg cmp) true
          set t
          return id)
  match ans with
  | .word w => return w.toNat
  | .bytes b => return leNat b
  | .fault c f => trapM c f

/-- The atomics (R274, R275): in the scratchpad and stack windows by the core, elsewhere at the point of coherence. -/
def amo (op : AmoOp) (g z d a b : Nat) (mo : Option MemOrd) : M Unit := do
  let od : Opnd := if op = .cas then .both d else .dst d
  let v ← operands od (.src a) (.src b)
  let n := 2 ^ z
  let va := v.a.toNat
  let sgn := decide (g = 1)
  let w ← checkAccess va n n
  releaseFor mo
  match w with
  | .glob =>
    if d = 0 then
      let lop := LogOp.amo op z sgn v.b 0#64
      let s ← get
      match ((s.cluster (clusterOf s.cur.core)).hit s.me.part s.me.job va 3).bind fun e => s.reachPeer (e.phys va) with
      | some p => if s.myCore.logged s.cur.ctx (pageOf va) then pure () else awaitFlow va p
      | none => pure ()
      postOp va 3 lop.reaches lop fun s e => s.postNow s.cur.core s.cur.ctx s.me.part s.me.job va lop e
      acquirePosted va mo
    else
      let old ← amoTake op z sgn va v.b v.d
      acquireFor mo
      writeX d (extend g z old)
  | w =>
    let s ← get
    let old := leNat (s.localBytes s.cur.core s.me w va n)
    let new := amoNew op z sgn old v.b.toNat v.d.toNat
    modify fun s => s.storeLocal s.cur.core s.me w va (leBytes n new)
    acquireFor mo
    if d ≠ 0 then writeX d (extend g z old)

/-- AMOADD (R274). -/
def execAmoadd (g z d a b : Nat) (mo : Option MemOrd) (s : State) : Out := finish (amo .add g z d a b mo) s

/-- AMOAND (R274). -/
def execAmoand (g z d a b : Nat) (mo : Option MemOrd) (s : State) : Out := finish (amo .and g z d a b mo) s

/-- AMOOR (R274). -/
def execAmoor (g z d a b : Nat) (mo : Option MemOrd) (s : State) : Out := finish (amo .or g z d a b mo) s

/-- AMOXOR (R274). -/
def execAmoxor (g z d a b : Nat) (mo : Option MemOrd) (s : State) : Out := finish (amo .xor g z d a b mo) s

/-- AMOMIN (R274). -/
def execAmomin (g z d a b : Nat) (mo : Option MemOrd) (s : State) : Out := finish (amo .min g z d a b mo) s

/-- AMOMAX (R274). -/
def execAmomax (g z d a b : Nat) (mo : Option MemOrd) (s : State) : Out := finish (amo .max g z d a b mo) s

/-- AMOSWAP (R274). -/
def execAmoswap (g z d a b : Nat) (mo : Option MemOrd) (s : State) : Out := finish (amo .swap g z d a b mo) s

/-- AMOCAS (R274). -/
def execAmocas (g z d a b : Nat) (mo : Option MemOrd) (s : State) : Out := finish (amo .cas g z d a b mo) s

end Sys2Proof.Machine
end

