-- ==== Sys2Proof/Machine/Point.lean ====
section
/-! DEFINITION. Shipping, exact cells, copy commands, signals, fences and cache maintenance: what the issuing context does (R276 to
R290). -/

namespace Sys2Proof.Machine

/-- The completion word of R286. -/
def completion (status src tag count : Nat) : Word := wd (status + src * 2 ^ 8 + tag % 2 ^ 16 * 2 ^ 16 + count % 2 ^ 32 * 2 ^ 32)

/-- The statuses of R286. -/
def stOk : Nat := 0
@[inherit_doc stOk] def stPage : Nat := 1
@[inherit_doc stOk] def stPerm : Nat := 2
@[inherit_doc stOk] def stSeal : Nat := 3
@[inherit_doc stOk] def stAperture : Nat := 4
@[inherit_doc stOk] def stAlign : Nat := 5
@[inherit_doc stOk] def stMalformed : Nat := 6
@[inherit_doc stOk] def stBadroutine : Nat := 7
@[inherit_doc stOk] def stInvalid : Nat := 8
@[inherit_doc stOk] def stRing : Nat := 9
@[inherit_doc stOk] def stTimeout : Nat := 10
@[inherit_doc stOk] def stIsolated : Nat := 11

/-- The required alignment of a ship routine; a reserved or unloaded one requires none (R276, R277). -/
def State.shipAlign (s : State) (routine : Nat) : Nat :=
  match routine with
  | 0 => 8
  | 1 => 8
  | 2 => 4
  | 3 => 4
  | 4 => 4
  | 5 => 8
  | 6 => 8
  | 7 => 64
  | r => match s.seals.routines.find r with
    | some e => max 1 e.align
    | none => 1

/-- The checks of an access that reaches only the global window (R276, R279, R287). -/
def checkGlobal (a n align : Nat) : M Unit := do
  let w ← checkAccess a n align
  if w ≠ .glob then trapM tAperture (wd a)

/-- An operation at the point of coherence whose words go to q5: it waits for room, claims its places and is sent; the instruction
completes once the operation has been performed, and traps where its tile fails (R258, R276, R279). -/
def q5Op (va places : Nat) (op : PocOp) : M Unit := do
  match (← getMe).asked va with
  | some p => match p.ans with
    | none => blockM .answer
    | some (.fault c f) =>
      modMe fun x => { x with q5claim := x.q5claim - places }
      trapM c f
    | some _ => pure ()
  | none =>
    let e ← takeOp va 3 sealedOnly
    let s ← get
    let pa := e.phys va
    let x := s.me
    let (id, t) := (s.flushFor s.cur.core pa).ask (.ctx s.cur.core s.cur.ctx) x.part x.job pa va op true
    set t
    modMe fun x => { x with q5claim := x.q5claim + places, pend := x.pend ++ [⟨id, va, none⟩] }
    blockM .answer

/-- The places an operation waits for in q5 before it has been sent. -/
def q5Need (x : Ctx) (places : Nat) : List (Nat × Nat) := if x.pend = [] then [(5, places)] else []

/-- SHIP (R276). -/
def execShip (d a b : Nat) (mo : Option MemOrd) (s : State) : Out :=
  finish (do
    let v ← operands (.src d) (.src a) (.src b) (q5Need (← getMe) 2)
    let va := v.a.toNat
    checkGlobal va 1 ((← get).shipAlign (wbits v.b 7 0))
    releaseFor mo
    q5Op va 2 (.ship v.d v.b)
    acquireFor mo) s

/-- SHIPN (R276). -/
def execShipn (d a b : Nat) (mo : Option MemOrd) (s : State) : Out :=
  finish (do
    let v ← operands (.src d) (.src a) (.src b)
    let va := v.a.toNat
    checkGlobal va 1 ((← get).shipAlign (wbits v.b 7 0))
    releaseFor mo
    let lop := LogOp.ship v.d v.b
    postOp va 3 lop.reaches lop fun s e => s.postNow s.cur.core s.cur.ctx s.me.part s.me.job va lop e
    acquirePosted va mo) s

/-- XADD (R279). -/
def execXadd (t a b : Nat) (mo : Option MemOrd) (s : State) : Out :=
  finish (do
    let v ← operands .none (.src a) (.src b) (q5Need (← getMe) 1)
    let va := v.a.toNat
    checkGlobal va 64 64
    releaseFor mo
    q5Op va 1 (.xadd t v.b)
    acquireFor mo) s

/-- XREAD (R279). -/
def execXread (t a : Nat) (mo : Option MemOrd) (s : State) : Out :=
  finish (do
    let v ← operands .none (.src a) .none (q5Need (← getMe) 2)
    let va := v.a.toNat
    checkGlobal va 64 64
    releaseFor mo
    q5Op va 2 (.xread t)
    acquireFor mo) s

/-- The element size of a CPYG header (R280). -/
def gatherSize (h : Word) : Nat := 2 ^ (wbits h 25 24 + 1)

/-- Whether a range of a copy lies wholly in the scratchpad window or wholly in the global window; an empty one does (R281). -/
def copyRange (sp stk a n : Nat) : Bool :=
  n == 0 || (match steer sp stk a n with
    | some .scratch => true
    | some .glob => true
    | _ => false)

/-- The checks of a copy command in the order of R281: the cause and the address of the first that fails. -/
def State.copyCheck (s : State) (core ctx : Nat) (x : Ctx) (h src dst : Word) : Option (Nat × Word) :=
  let r := s.resvOf core x
  let ok := fun (a : Word) n => copyRange r.spBytes r.stkBytes a.toNat n
  let len := wbits h 23 0
  let es := gatherSize h
  match wbits h 63 60 with
  | 3 =>
    let ring := ((s.core core).mx.get {} ctx).rings.find (dst.toNat % 8)
    if !ok src len then some (tAperture, src)
    else if ring.all fun g => decide (len % g.slotsz ≠ 0) then some (tRing, 0#64)
    else none
  | 4 =>
    if !ok src (8 + 4 * len) then some (tAperture, src)
    else if !ok dst (es * len) then some (tAperture, dst)
    else if src.toNat % 8 ≠ 0 then some (tAlign, src)
    else if dst.toNat % es ≠ 0 then some (tAlign, dst)
    else none
  | _ =>
    if !ok src len then some (tAperture, src)
    else if !ok dst len then some (tAperture, dst)
    else none

/-- A copy instruction (R281): its three words enter q4 in one push. -/
def copyPush (op d a b : Nat) (mo : Option MemOrd) : M Unit := do
  let v ← operands (.src d) (.src a) (.src b) [(4, 3)]
  let h := wd (v.b.toNat % 2 ^ 60 + op * 2 ^ 60)
  let s ← get
  match s.copyCheck s.cur.core s.cur.ctx s.me h v.a v.d with
  | some (c, f) => trapM c f
  | none =>
    let t := (s.clock, max 4 (scopeOf mo))
    modify fun s => s.pushed { s.me with q4 := s.me.q4 ++ [(h, t), (v.a, t), (v.d, t)] }

/-- CPY (R281). -/
def execCpy (d a b : Nat) (mo : Option MemOrd) (s : State) : Out := finish (copyPush 1 d a b mo) s

/-- CPYL (R281). -/
def execCpyl (d a b : Nat) (mo : Option MemOrd) (s : State) : Out := finish (copyPush 2 d a b mo) s

/-- CPYR (R281). -/
def execCpyr (d a b : Nat) (mo : Option MemOrd) (s : State) : Out := finish (copyPush 3 d a b mo) s

/-- CPYG (R281). -/
def execCpyg (d a b : Nat) (mo : Option MemOrd) (s : State) : Out := finish (copyPush 4 d a b mo) s

/-- A posted operation on a signal (R287). -/
def sigPost (va : Nat) (neg : Bool) (amount : Nat) (mo : Option MemOrd) : M Unit := do
  checkGlobal va 8 8
  releaseFor mo
  let lop := LogOp.sig neg amount
  postOp va 3 lop.reaches lop fun s e => s.postNow s.cur.core s.cur.ctx s.me.part s.me.job va lop e

/-- SIGADD (R287). -/
def execSigadd (a b : Nat) (mo : Option MemOrd) (s : State) : Out :=
  finish (do
    let v ← operands .none (.src a) (.src b)
    sigPost v.a.toNat false (min v.b.toNat (2 ^ 63 - 1)) mo) s

/-- SIGABORT (R287). -/
def execSigabort (a : Nat) (mo : Option MemOrd) (s : State) : Out :=
  finish (do
    let v ← operands .none (.src a) .none
    sigPost v.a.toNat true 0 mo) s

/-- A signal read at the point of coherence, with its physical address (R258, R287). -/
def sigValue (va : Nat) : M (Word × Nat) := do
  checkGlobal va 8 8
  let e ← takeOp va 0 State.storable
  let pa := e.phys va
  match paKind pa with
  | .peer _ => return (wd (leNat (← loadPeer va pa 8)), pa)
  | _ =>
    modify fun s => s.flushFor s.cur.core pa
    let s ← get
    if s.ownPending s.cur.core s.cur.ctx (lineOf pa) (lineOf pa) then blockM (.ownReq (lineOf pa) (lineOf pa))
    match s.readPoc pa 8 with
    | some b => return (wd (leNat b), pa)
    | none =>
      set (s.noteLost s.me.part pa)
      trapM tSeal (wd va)

/-- SIGREAD (R287). -/
def execSigread (d a : Nat) (mo : Option MemOrd) (s : State) : Out :=
  finish (do
    let v ← operands (.dst d) (.src a) .none
    let (w, _) ← sigValue v.a.toNat
    acquireFor mo
    writeX d w) s

/-- SIGWAIT (R288). -/
def execSigwait (d a b : Nat) (mo : Option MemOrd) (s : State) : Out :=
  finish (do
    let v ← operands (.dst d) (.src a) (.src b)
    let (w, pa) ← sigValue v.a.toNat
    if sg w < 0 then trapM tSigabort v.a
    if sg v.b ≤ sg w then
      acquireFor mo
      writeX d w
    else
      let now := (← get).clock
      modMe fun x => { x with waitAt := some now, pend := [] }
      blockM (.signal pa)) s

/-- FENCE (R289, R341). -/
def execFence (mo : Option MemOrd) (s : State) : Out :=
  finish (do
    let _ ← operands .none .none .none
    awaitRelease (if orderOf mo = 1 then 0 else scopeOf mo)
    if orderOf mo ≠ 2 then acquireAt (scopeOf mo)) s

/-- PREF (R290): a line that translates to sealed memory begins to fill; nothing else happens. One that misses joins the walk of its page
that is in progress (R243). -/
def execPref (a : Nat) (s : State) : Out :=
  finish (do
    let v ← operands .none (.src a) .none
    let s ← get
    let va := v.a.toNat
    let x := s.me
    let cl := clusterOf s.cur.core
    if inGlobal va then
      match (s.cluster cl).hit x.part x.job va 0 with
      | some e => set (s.prefFill s.cur.core va e)
      | none =>
        if (s.walkOf (dieOf s.cur.core) x.part x.job (pageOf va)).isSome then
          set (s.joinWalk (dieOf s.cur.core) x.part x.job ⟨.pref s.cur.core s.cur.ctx, va, 0, true⟩ .running).2
        else match s.xlate x.part x.job va 0 with
          | .ok e => set ((s.modCluster cl fun c => c.learn e).prefFill s.cur.core va e)
          | out => set (s.noteMet x.part x.job va out)) s

/-- The physical pieces of the mapped pages of [lo, hi): the start and end of each (R290). -/
def State.mappedParts (s : State) (part job lo hi : Nat) : List (Nat × Nat) :=
  (List.range (pageOf (hi - 1) + 1 - pageOf lo)).filterMap fun i =>
    let p := (pageOf lo + i) * 2 ^ 16
    let a := max lo p
    let b := min hi (p + 2 ^ 16)
    if b ≤ a then none else (s.mapped part job a).map fun pa => (pa, pa + (b - a))

/-- The part of a range that lies in the global window. -/
def clipGlobal (a n : Nat) : Nat × Nat := (max a Config.globalBase, min (a + n) (2 ^ 57))

/-- Whether a line overlaps one of some physical pieces. -/
def inParts (parts : List (Nat × Nat)) (line : Nat) : Bool :=
  parts.any fun p => decide (p.1 < line * 64 + 64) && decide (line * 64 < p.2)

/-- The fetch-buffer lines of a cluster that meet a condition are invalidated (R97). -/
def State.dropCode (s : State) (cl : Nat) (p : FLine → Bool) : State :=
  let f := fun (c : Nat) (k : Core) => if clusterOf c = cl then { k with fetch := k.fetch.filter fun l => !p l } else k
  { s with cores := s.cores.map f }

/-- INVL and WBCL (R290): lines are written back, and dropped where drop holds, and the context waits until they are performed. -/
def maintain (drop : Bool) (a b : Nat) : M Unit := do
  let v ← operands .none (.src a) (.src b)
  let s ← get
  match s.me.relAt with
  | some _ => pure ()
  | none =>
    let x := s.me
    let cl := clusterOf s.cur.core
    let (lo, hi) := clipGlobal v.a.toNat v.b.toNat
    let parts := if lo < hi then s.mappedParts x.part x.job lo hi else []
    let hit := fun (l : Nat) => v.b == 0#64 || inParts parts l
    let lines := (s.cluster cl).cache.select fun l _ => hit l
    let dirty := lines.filter fun l => decide (((s.cluster cl).cache.get {} l).dirty ≠ 0#64)
    let t := lines.foldl (fun s l => s.pushLine cl l drop) s
    let t := if drop then t.dropCode cl fun f => hit (lineOf f.pa) else t
    set t
    modMe fun x => { x with relAt := some s.clock }
    if dirty ≠ [] then blockM (.writeBack dirty)

/-- INVL (R97, R290). -/
def execInvl (a b : Nat) (s : State) : Out := finish (maintain true a b) s

/-- WBCL (R290). -/
def execWbcl (a b : Nat) (s : State) : Out := finish (maintain false a b) s

end Sys2Proof.Machine
end

