-- ==== Sys2Proof/Machine/Coherence.lean ====
section
/-! DEFINITION. What seal engines and stack processors perform, in the order in which they serve it: fills, writes, atomics, ship
routines, exact cells and signals (R57, R189 to R192, R257 to R259, R275 to R279, R340, R429). -/

namespace Sys2Proof.Machine

/-- The words of a completion enter q5 in the places they claimed (R276, R286); those of a task that has ended are discarded. -/
def State.pushQ5 (s : State) (core ctx claimed : Nat) (words : List Word) : State :=
  if 16 ≤ ctx then s
  else s.modCtx core ctx fun x => { x with q5 := x.q5 ++ words, q5claim := x.q5claim - claimed }

/-- An answer to the context that made a request. -/
def State.answerReq (s : State) (r : PocReq) (a : Answer) : State :=
  match r.origin with
  | .ctx core ctx => if r.takes then s.answer core ctx r.id a else s
  | _ => s

def State.dropPoc (s : State) (i : Nat) : State := { s with poc := dropAt s.poc i }

/-- The target of an operation on a signal in a forwarding range (R429): the partition, and whether the window is still open. -/
def State.forwardOf (s : State) (pa : Nat) : Option (Nat × Bool) :=
  (s.parts.first fun _ p => p.moved && p.fwdrange.any fun e =>
      decide (wbits e.2 51 40 ≠ 0) && decide (wbits e.2 39 0 * 2 ^ 16 ≤ pa)
        && decide (pa < wbits e.2 39 0 * 2 ^ 16 + wbits e.2 51 40 * 2 ^ 16)).map fun p =>
    (p.1, decide (s.podNow / 1000 < wbits p.2.fwdtgt 47 16))

/-- Whether an operation on a signal waits at its tile; one that goes on to another device does not (R259, R429). -/
def State.sigWaits (s : State) (pa : Nat) : Bool := (s.forwardOf pa).isNone && s.tileWaits (tileOf pa)

/-- An operation on a signal. -/
def PocOp.isSig : PocOp → Bool
  | .sigAdd _ => true
  | .sigNeg => true
  | _ => false

/-- Whether a request that writes waits at its tile (R257, R259). -/
def State.reqWaits (s : State) (r : PocReq) : Bool :=
  paKind r.pa == .sealed && if r.op.isSig then s.sigWaits r.pa else s.tileWaits (tileOf r.pa)

/-- The request at a place whose turn at its seal engine it can be: none that it follows is before it, and if it writes, its tile can be
written (R257, R259). -/
def State.pocTurn (s : State) (i : Nat) (writes : Bool) : Option PocReq :=
  match s.poc[i]? with
  | none => none
  | some r => if s.pocFirst i && !(writes && s.reqWaits r) then some r else none

/-- Whether a context of a cluster waits for the fill of a line. -/
def State.awaitsFill (s : State) (cluster line : Nat) : Bool :=
  s.cores.any fun p => clusterOf p.1 == cluster && p.2.ctxs.any fun x => x.2.st == .blocked && x.2.why == some (.fill line)

/-- SEAL_FILL (R257, R258, R266): a fill of a cluster-cache line, once no byte of it is dirty and nothing of the cluster is on its way to
it. A fill that fails and that no context waits for is dropped (R290). -/
def execSealFill (cluster line : Nat) (s : State) : Out :=
  let c := s.cluster cluster
  stepIf (c.fills.contains line && !s.lineBusy cluster line && decide ((c.cache.get {} line).dirty = 0#64)) (fun s =>
    match s.readPoc (line * 64) 64 with
    | none => (s.noteLost c.part (line * 64)).modCluster cluster fun k =>
        { k with fills := k.fills.filter (· != line),
                 badLines := if s.awaitsFill cluster line then line :: k.badLines else k.badLines }
    | some b => (s.makeRoom cluster line).modCluster cluster fun k =>
        let n : CLine := { k.cache.get {} line with data := BitVec.ofNat 512 (leNat b), have_ := BitVec.allOnes 64, stamp := s.clock }
        { k with fills := k.fills.filter (· != line), badLines := k.badLines.filter (· != line), cache := k.cache.set line n }) s

/-- CLUSTER_CACHE_WRITE_BACK (R340): the dirty bytes of a line leave for their seal engine; the cache chooses whether it keeps the
line. -/
def execClusterCacheWriteBack (cluster line : Nat) (evict : Bool) (s : State) : Out :=
  stepIf ((s.cluster cluster).cache.find line).isSome (fun s => s.pushLine cluster line evict) s

/-- A write that its merge has dropped, told to the graph node that it is of (R258, R385). -/
def State.tellDrop (s : State) (o : Origin) : State :=
  match o with
  | .unit name => if name / 2 ^ 40 = 8 then s.modSeal fun z => { z with dropped := name :: z.dropped } else s
  | _ => s

/-- PARTIAL_WRITE (R257, R258). -/
def execPartialWrite (i : Nat) (s : State) : Out :=
  match s.pocTurn i true with
  | some r => match r.op with
    | .write cells =>
      let s := s.dropPoc i
      .next (match paKind r.pa with
        | .sealed =>
          let out := s.partialWrite r.pa r.part cells
          if out.2 then out.1 else out.1.tellDrop r.origin
        | _ => { s with mem := storeCells s.mem cells })
    | _ => .next s
  | none => .next s

/-- FULL_TILE_WRITE (R257, R258). -/
def execFullTileWrite (i : Nat) (s : State) : Out :=
  match s.pocTurn i true with
  | some r => match r.op with
    | .full data =>
      let out := (s.dropPoc i).fullWrite (tileOf r.pa) r.part data
      .next (if out.2 then out.1 else out.1.tellDrop r.origin)
    | _ => .next s
  | none => .next s

/-- A read-modify-write at a point of coherence: n bytes at an address become the first result of f, and the requester receives the
second; a failing tile writes nothing and is marked (R258, R275). -/
def State.rmw (s : State) (r : PocReq) (a n : Nat) (f : List Byte → List Byte × Answer) : State :=
  match paKind r.pa with
  | .sealed =>
    if s.tileFails (tileOf r.pa) then (s.poison r.part (tileOf r.pa)).answerReq r (.fault tSeal (wd r.va))
    else
      let out := f (s.mem.bytes a n)
      ({ s.touchTile (tileOf r.pa) r.part with mem := s.mem.store a (out.1.take n) }).answerReq r out.2
  | _ =>
    let out := f (s.mem.bytes a n)
    ({ s with mem := s.mem.store a (out.1.take n) }).answerReq r out.2

/-- ATOMIC_AT_POINT_OF_COHERENCE (R274, R275); a kick or control write of a queue's entry is one of its kind (R42). -/
def execAtomicAtPointOfCoherence (i : Nat) (s : State) : Out :=
  match s.pocTurn i true with
  | some r => match r.op with
    | .amo op size sgn arg cmp =>
      let n := 2 ^ size
      .next ((s.dropPoc i).rmw r r.pa n fun b =>
        let old := leNat b
        (leBytes n (amoNew op size sgn old arg.toNat cmp.toNat), .word (wd old)))
    | .kmax k => .next ((s.dropPoc i).rmw r r.pa 8 fun b => (leBytes 8 (kicked (leNat b) k), .word 0#64))
    | .ctrl c => .next ((s.dropPoc i).rmw r r.pa 1 fun b => (leBytes 1 (ctrlled (leNat b) c), .word 0#64))
    | _ => .next s
  | none => .next s

/-- What a built-in ship routine does to its n bytes: the new bytes and the result (R277). -/
def shipBuiltin (routine : Nat) (arg : Word) (b : List Byte) : List Byte × Word :=
  let old := leNat b
  let f := FFmt.f32
  let fp := fun (g : FV → FV → Nat × FlagBits) => leBytes 4 (g (f.decode (old % 2 ^ 32)) (f.decode (arg.toNat % 2 ^ 32))).1
  match routine with
  | 0 => (b, wd old)
  | 1 => (leBytes 8 (old + arg.toNat), wd old)
  | 2 => (fp fun x y => f.add .rne false x y, wd old)
  | 3 => (fp fun x y => f.minmax true x y, wd old)
  | 4 => (fp fun x y => f.minmax false x y, wd old)
  | 5 =>
    let h := FFmt.bf16
    ((List.range 4).flatMap fun j =>
      leBytes 2 (h.add .rne false (h.decode (old / 2 ^ (16 * j) % 2 ^ 16)) (h.decode (arg.toNat / 2 ^ (16 * j) % 2 ^ 16))).1, wd old)
  | 6 => (if old < arg.toNat then leBytes 8 (old + 1) else b, wd old)
  | _ => (leBytes 4 (old + 1), wd old)

/-- The bytes that a built-in ship routine reads and writes: their offset from the target and their number (R277). -/
def shipSpan (routine : Nat) (arg : Word) : Nat × Nat :=
  match routine with
  | 2 => (0, 4)
  | 3 => (0, 4)
  | 4 => (0, 4)
  | 7 => (4 * (arg.toNat % 16), 4)
  | _ => (0, 8)

/-- The result of a ship that returns one goes to q5 (R276, R286). -/
def State.shipDone (s : State) (r : PocReq) (ctl : Word) (status : Nat) (result : Word) : State :=
  match r.origin with
  | .ctx core ctx =>
    if r.takes then s.pushQ5 core ctx 2 [completion status 2 (wbits ctl 31 16) 0, result] else s
  | _ => s

/-- SHIP_ROUTINE (R276 to R278): a routine runs as one read-modify-write of its tile. -/
def execShipRoutine (i : Nat) (s : State) : Out :=
  match s.pocTurn i true with
  | some r => match r.op with
    | .ship arg ctl =>
      let s := s.dropPoc i
      let n := wbits ctl 7 0
      let run := fun (a n : Nat) (f : List Byte → List Byte × Word) =>
        let res := (f (s.mem.bytes a n)).2
        let fails := s.tileFails (tileOf r.pa)
        let t := s.rmw r a n fun b => ((f b).1, .word res)
        if fails then t else t.shipDone r ctl stOk res
      .next (if n < 8 then
          let (o, k) := shipSpan n arg
          run (r.pa + o) k (shipBuiltin n arg)
        else match s.seals.routines.find n with
          | some e => run (r.pa / 64 * 64) 64 (fun b => Config.routineRun e.image arg r.pa b)
          | none =>
            if r.takes then (s.answerReq r (.word 0#64)).shipDone r ctl stBadroutine 0#64
            else s.modSeal fun z =>
              let k := engineOf (tileOf r.pa)
              { z with shipDrops := z.shipDrops.set k (z.shipDrops.get 0 k + 1) })
    | _ => .next s
  | none => .next s

/-- ROUTINE_LOAD (R278): a signed image enters the routine table of every stack processor. -/
def execRoutineLoad (index align : Nat) (image sig : List Byte) (s : State) : Out :=
  stepIf (decide (16 ≤ index) && decide (index < 256) && decide (1 ≤ align) && decide (align ≤ 64)
      && Config.signatureValid image sig) (fun s =>
    s.modSeal fun z => { z with routines := z.routines.set index ⟨align, image⟩ }) s

/-- The format of an exact-cell value type (R279). -/
def cellFmt (t : Nat) : FFmt := if t = 2 then .f32 else if t = 9 then .bf16 else .f16

/-- The two's-complement integer of a cell (R189). -/
def cellInt (b : List Byte) : Int := intVal true 512 (leNat b)

/-- EXACT_CELL_ADD (R190). -/
def execExactCellAdd (i : Nat) (s : State) : Out :=
  match s.pocTurn i true with
  | some r => match r.op with
    | .xadd t v =>
      let s := s.dropPoc i
      let f := cellFmt t
      let x := f.decode (v.toNat % 2 ^ (if t = 2 then 32 else 16))
      let bad := x.isNan || x.isInf
      let u := if s.tileFails (tileOf r.pa) then s.rmw r r.pa 64 fun b => (b, .word 0#64)
        else
          let done := completion (if bad then stInvalid else stOk) 3 (r.va / 64) 0
          let w := if bad then s.answerReq r (.word 0#64)
            else s.rmw r r.pa 64 fun b => (leBytes 64 ((cellInt b + x.units (-150)) % (2 ^ 512 : Int)).toNat, .word 0#64)
          match r.origin with
          | .ctx core ctx => w.pushQ5 core ctx 1 [done]
          | _ => w
      .next u
    | _ => .next s
  | none => .next s

/-- EXACT_CELL_READ (R191). -/
def execExactCellRead (i : Nat) (s : State) : Out :=
  match s.pocTurn i false with
  | some r => match r.op with
    | .xread t =>
      let s := s.dropPoc i
      if s.tileFails (tileOf r.pa) then .next ((s.noteLost r.part r.pa).answerReq r (.fault tSeal (wd r.va)))
      else
        let f := cellFmt t
        let v := (f.roundInt .rne false false (cellInt (s.mem.bytes r.pa 64)) (-150)).1
        let s := s.answerReq r (.word 0#64)
        .next (match r.origin with
          | .ctx core ctx => s.pushQ5 core ctx 2 [completion stOk 4 (r.va / 64) 0, wd v]
          | _ => s)
    | _ => .next s
  | none => .next s

/-- An atomic for a partition that has moved goes to its new device, all of them on the one flow from core 0, so that they are performed in
the order in which they came; the old value that answers a peer's or the host's goes on to it (R429). Mark: DEDUCED (log entry 74). -/
def State.forward (s : State) (part pa : Nat) (op : AmoOp) (size : Nat) (sgn : Bool) (arg cmp : Word) (reply : Option PeerReq) :
    State :=
  let ep := wbits (s.part part).fwdtgt 15 0
  let (n, s) := match reply with
    | none => (0, s)
    | some req =>
      let (n, s) := s.fresh
      (n, { s with waits := s.waits ++
        [PeerWait.mk n ep req (s.clock + Config.us (fabRead (s.part part).fabpol))] })
  (s.openAtomic 0 ep).sendOnFlow 0 (isAtomicFlow ep) ep fun q => .atomic n 0 q part (peerAddr pa) op size sgn arg cmp

/-- Waits and barriers that watch a signal are evaluated again (R59, R288). -/
def State.poke (s : State) (pa : Nat) : State :=
  let wakeCtx := fun (_ : Nat) (x : Ctx) =>
    if x.st = .blocked ∧ x.why = some (.signal pa) then x.goOn else x
  let rids := (s.watches.filter fun w => w.pa == pa).map (·.rid)
  { s with cores := s.cores.map fun _ k => { k with ctxs := k.ctxs.map wakeCtx },
           running := s.running.map fun r => if rids.contains r.id then { r with pollAt := s.clock } else r }

/-- A signal's new value: an add that a negative one ignores, or its setting negative (R57). -/
def sigNew (neg : Bool) (amount old : Nat) : Nat :=
  if neg then old ||| 2 ^ 63
  else if old < 2 ^ 63 then min (old + amount) (2 ^ 63 - 1) else old

/-- An operation on a signal at its home quadrant; true unless its tile fails its seal check (R57, R258, R429). -/
def State.signalOp (s : State) (part pa : Nat) (neg : Bool) (amount : Nat) : State × Bool :=
  match s.forwardOf pa with
  | some (p, true) => (s.forward p pa (if neg then AmoOp.sigNeg else .sigAdd) 3 false (wd amount) 0#64 none, true)
  | some (_, false) => (s.epDrop (homeDie pa) EpDrop.addIsolated, true)
  | none =>
    if s.tileFails (tileOf pa) then (s.poison part (tileOf pa), false)
    else
      let new := sigNew neg amount (s.mem.num pa 8)
      (({ s.touchTile (tileOf pa) part with mem := s.mem.store pa (leBytes 8 new) }).poke pa, true)

/-- The unit that had a signal operation wait at its tile hears of its end. -/
def State.noteSig (s : State) (r : PocReq) (ok : Bool) : State :=
  match r.origin with
  | .unit name => s.modSeal fun z => { z with sigEnds := z.sigEnds ++ [⟨r.part, r.job, name, r.va, r.op == .sigNeg, ok⟩] }
  | _ => s

/-- SIGNAL_OPERATION (R57, R429). -/
def execSignalOperation (i : Nat) (s : State) : Out :=
  let go := fun (r : PocReq) (neg : Bool) (amount : Nat) =>
    let out := (s.dropPoc i).signalOp r.part r.pa neg amount
    Host.Outcome.next (out.1.noteSig r out.2)
  match s.pocTurn i true with
  | some r => match r.op with
    | .sigAdd amount => go r false amount
    | .sigNeg => go r true 0
    | _ => .next s
  | none => .next s

/-- The end of a signal operation that waited for a unit at its tile, which the unit now takes: whether it was performed. -/
def State.takeSigEnd (s : State) (name va : Nat) (neg : Bool) : Option (Bool × State) :=
  (s.seals.sigEnds.find? fun e => e.name == name && e.va == va && e.neg == neg).map fun e =>
    (e.ok, s.modSeal fun z => { z with sigEnds := z.sigEnds.erase e })

/-- A unit's operation on a signal (R57, R257): whether it has been performed, none while it waits at its tile, where it has its place
among the writes that wait. -/
def State.signalFor (s : State) (name part job va pa : Nat) (neg : Bool) (amount : Nat) : Option Bool × State :=
  let op : PocOp := if neg then .sigNeg else .sigAdd amount
  if s.poc.any fun r => r.origin == .unit name && r.va == va && r.op == op then (none, s)
  else if s.sigWaits pa then (none, (s.ask (.unit name) part job pa va op false).2)
  else
    let out := s.signalOp part pa neg amount
    (some out.2, out.1)

/-- A request served by its seal engine. -/
def State.servePoc (s : State) (i : Nat) : State :=
  let out := match (s.poc[i]?).map (·.op) with
    | none => Host.Outcome.next s
    | some (.write _) => execPartialWrite i s
    | some (.full _) => execFullTileWrite i s
    | some (.amo _ _ _ _ _) => execAtomicAtPointOfCoherence i s
    | some (.ship _ _) => execShipRoutine i s
    | some (.xadd _ _) => execExactCellAdd i s
    | some (.xread _) => execExactCellRead i s
    | some (.sigAdd _) => execSignalOperation i s
    | some .sigNeg => execSignalOperation i s
    | some (.kmax _) => execAtomicAtPointOfCoherence i s
    | some (.ctrl _) => execAtomicAtPointOfCoherence i s
  match out with
  | .next t => t
  | _ => s

/-- The writes that wait at a tile in a seal engine's hands are merged into it, in the order in which it serves them: partial and full
writes, atomics, ship routines, exact cells and signal operations (R257, R260). The fuel bounds the requests. -/
def State.mergeWaiting (t : Nat) : Nat → State → State
  | 0, s => s
  | fuel + 1, s =>
    match findPos (fun r => paKind r.pa == .sealed && tileOf r.pa == t) s.poc with
    | none => s
    | some i => State.mergeWaiting t fuel (s.servePoc i)

/-- REKEY (R260): the tile is verified under its old slot and takes the writes that wait for it, under the new slot. One command runs at a
time. A tile that fails its check is not written, and SEALFAIL is sent. -/
def execRekey (pa slot : Nat) (s : State) : Out :=
  let t := tileOf pa
  stepIf (decide (paKind pa = .sealed) && s.seals.cmd.isNone && decide (slot < 64)) (fun s =>
    let e := s.tile t
    if s.tileFails t then s.poison (s.kslot e.slot).part t
    else
      let s := if e.version = 0 then s else s.modKslot e.slot fun k => { k with tiles := k.tiles - 1 }
      let s := s.modTile t fun e => { e with version := 0, slot := slot, rekeydue := false, exhausted := none }
      let s := s.modSeal fun z => { z with buf := z.buf.set t { dirty := true, lastWrite := s.clock }, cmd := some (t, slot) }
      State.mergeWaiting t s.poc.length s) s

/-- The end of a REKEY, as the next step begins, once what waited outside the seal engine has been merged too: the tile is written at
version 1. Its place in the buffer is free once its path has been retagged (R256, R260). Mark: DEDUCED (log entry 26). -/
def State.endRekey (s : State) : State :=
  match s.seals.cmd with
  | none => s
  | some (t, _) =>
    let s := (State.mergeWaiting t s.poc.length s).modSeal fun z => { z with cmd := none }
    if (s.tile t).version = 0 then s.writeBack t else s

/-- Whether a write-back has to be performed now: 64 µs have passed since its first byte was stored (R340). -/
def PocReq.late (r : PocReq) (now : Nat) : Bool :=
  decide (r.born + Config.us 64 ≤ now) && (match r.origin with
    | .cache _ => true
    | _ => false)

/-- Write-backs whose time is over are performed, each after what its cluster sent to the same tile before; one at an exhausted tile waits
(R259, R340). The fuel bounds the requests. -/
def State.serveLate : Nat → State → State
  | 0, s => s
  | fuel + 1, s =>
    let now := fun (r : PocReq) => !s.reqWaits r && s.poc.any fun q => q.late s.clock && r.sameSource q && tileOf r.pa == tileOf q.pa
    match findPos now s.poc with
    | none => s
    | some i => State.serveLate fuel (s.servePoc i)

/-- A byte that a cluster's cache holds dirty is performed no later than 64 µs after its store (R340). -/
def State.dueBytes (s : State) : State :=
  let old := s.clusters.flatMap fun c => (c.2.cache.select fun _ l =>
    decide (l.dirty ≠ 0#64) && decide (l.since + Config.us 64 ≤ s.clock)).map fun l => (c.1, l)
  let t := old.foldl (fun s p => s.pushLine p.1 p.2 false) s
  State.serveLate t.poc.length t

/-- SIGWAIT_POLL (R288): every 4 µs a blocked SIGWAIT is evaluated again. -/
def execSigwaitPoll (core ctx : Nat) (s : State) : Out :=
  let x := s.ctx core ctx
  let waits := match x.why with
    | some (.signal _) => x.st == .blocked
    | _ => false
  stepIf (waits && (x.waitAt.any fun t => decide (t + Config.us 4 ≤ s.clock))) (fun s =>
    s.setCtx core ctx x.goOn) s

end Sys2Proof.Machine
end

