-- ==== Sys2Proof/Machine/UnitReads.lean ====
section
/-! DEFINITION. How units other than a context read memory: ranges translated page by page, and bytes of the device, the host or a peer
(R232, R245, R258, R267, R286, R364). -/

namespace Sys2Proof.Machine

/-- The outcome of a unit's access: a value, a failure with a status of R286, or a wait for the memory master. -/
inductive URes (α : Type) where
  | ok (a : α)
  | fail (status : Nat)
  | wait
  deriving DecidableEq, Repr

/-- The status of a translation that failed with a cause (R286). -/
def statusOf (cause : Nat) : Nat := if cause = tPage then stPage else stPerm

/-- A range translated page by page for an access: its pieces as virtual address, physical address and length (R267). -/
def State.unitMap (name die : Nat) (cl : Option Nat) (part job acc : Nat) :
    Nat → Nat → Nat → State → URes (List (Nat × Nat × Nat)) × State
  | 0, _, _, s => (.ok [], s)
  | fuel + 1, va, n, s =>
    if n = 0 then (.ok [], s)
    else
      let k := min n (2 ^ 16 - va % 2 ^ 16)
      match s.unitXlate name die cl part job va acc with
      | (.fail c, s) => (.fail (statusOf c), s)
      | (.wait, s) => (.wait, s)
      | (.ok e, s) =>
        if acc = 1 ∧ s.storable (e.phys va) = false then (.fail stPerm, s)
        else if paKind (e.phys va) = .invalid then (.fail stPerm, s)
        else match State.unitMap name die cl part job acc fuel (va + k) (n - k) s with
          | (.ok l, s) => (.ok ((va, e.phys va, k) :: l), s)
          | r => r

/-- The pages a range may touch. -/
def pagesIn (n : Nat) : Nat := n / 2 ^ 16 + 2

/-- Bytes read at the points of coherence from pieces of device and host memory; none where a tile fails its check. -/
def State.readPieces (s : State) (l : List (Nat × Nat × Nat)) : Option (List Byte) :=
  (l.mapM fun p => s.readPoc p.2.1 p.2.2).map List.flatten

/-- Whether a physical address is a peer's. -/
def isPeer (pa : Nat) : Bool :=
  match paKind pa with
  | .peer _ => true
  | _ => false

/-- Whether a range reaches a peer. -/
def anyPeer (l : List (Nat × Nat × Nat)) : Bool := l.any fun p => isPeer p.2.1

/-- A unit's read of a range that reaches a peer: its pieces are asked for, and it waits until every one is answered (R267, R364,
R366). -/
def State.readPeers (s : State) (name die part va n : Nat) (l : List (Nat × Nat × Nat)) : URes (List Byte) × State :=
  let mine := fun (u : UnitRead) => u.name == name && u.va == va && u.len == n
  let cut := l.flatMap fun p => splitAt 256 (p.2.2 / 256 + 2) p.2.1 p.2.2
  let far := cut.filter fun p => isPeer p.1
  match s.ureads.find? mine with
  | some u =>
    if u.owed ≠ 0 then (.wait, s)
    else
      let s := { s with ureads := s.ureads.filter fun u => !mine u }
      if u.status ≠ 0 then (.fail u.status, s)
      else match cut.mapM fun p => if isPeer p.1 then some (u.got.get [] p.1) else s.readPoc p.1 p.2 with
        | some b => (.ok b.flatten, s)
        | none => (.fail stSeal, cut.foldl (fun s p => s.noteLost part p.1) s)
  | none =>
    let cutOff := far.filter fun p => (s.reachPeer p.1).any fun q => q.isol
    if far.any fun p => (s.reachPeer p.1).isNone then (.fail stPerm, s)
    else if cutOff ≠ [] then (.fail stIsolated, cutOff.foldl (fun s _ => s.epDrop die EpDrop.addIsolated) s)
    else
      let ask := fun (s : State) (p : Nat × Nat) => match s.reachPeer p.1 with
        | none => s
        | some q => s.askPeer die part q.ep (.read name part die va n p.1) fun t => .readreq t part (peerAddr p.1) p.2
      (.wait, far.foldl ask { s with ureads := s.ureads ++ [⟨name, va, n, far.length, [], 0⟩] })

/-- A piece of a unit's read has been answered, or will not be (R364, R366). -/
def State.readPiece (s : State) (name va n : Nat) (f : UnitRead → UnitRead) : State :=
  { s with ureads := s.ureads.map fun u =>
      if u.name == name && u.va == va && u.len == n then f { u with owed := u.owed - 1 } else u }

/-- The reads of units whose work has been given up are forgotten. -/
def State.dropReads (s : State) (p : Nat → Bool) : State :=
  { s with ureads := s.ureads.filter (fun u => !p u.name),
           waits := s.waits.filter fun w => match w.req with
             | .read name _ _ _ _ _ => !p name
             | _ => true }

/-- Bytes read by a unit from device or host memory, or from a peer's (R267, R258). -/
def State.unitRead (s : State) (name die : Nat) (cl : Option Nat) (part job va n : Nat) : URes (List Byte) × State :=
  match State.unitMap name die cl part job 0 (pagesIn n) va n s with
  | (.fail c, s) => (.fail c, s)
  | (.wait, s) => (.wait, s)
  | (.ok l, s) =>
    if anyPeer l then s.readPeers name die part va n l
    else match s.readPieces l with
      | some b => (.ok b, s)
      | none => (.fail stSeal, (l.foldl (fun s p => s.noteLost part p.2.1) s))

/-- A range read by a unit that the window rule of an access holds for (R232, R267). -/
def State.globalRead (s : State) (name die part job va n : Nat) : URes (List Byte) × State :=
  if inGlobal va = false ∨ inGlobal (va + (n - 1)) = false then (.fail stAperture, s) else s.unitRead name die none part job va n

end Sys2Proof.Machine
end

