-- ==== Sys2Proof/Machine/Messages.lean ====
section
/-! DEFINITION. Sending, carrying, accepting and dispatching messages, the end of a task, and the stream table (R16 to R39, R80 to
R92, R148 to R165, R217 to R220, R359 to R361). -/

namespace Sys2Proof.Machine

/-- The destination that a word in the layout of R34 names. -/
def destOf (w : Word) : Dest := ⟨wbits w 23 0, wbit w 24, wbits w 29 25, wbits w 47 32⟩

/-- A destination with the bits that a core number ignores cleared (R13). -/
def Dest.norm (d : Dest) : Dest := if d.taddr then d else { d with dest := d.dest % 4096 }

/-- Whether a flow leads a priority to a destination, and whether it takes a send there (R156, R362, R378, R379). -/
def Flow.leads (f : Flow) (pri : Bool) (d : Dest) : Bool := f.dest.norm == d.norm && f.cls == (if pri then .h else .l)
@[inherit_doc Flow.leads] def Flow.takes (f : Flow) (pri : Bool) (d : Dest) : Bool := f.leads pri d && !f.broken && !f.closing

/-- The flow of a send: by its handle, or for a list by its destination (R156). -/
def flowFor (list : Bool) (handle : Nat) (pri : Bool) (d : Dest) (f : Flow) : Bool :=
  f.cls != .atomic && (list || f.handle == handle) && f.takes pri d

/-- The flow on which a message leaves q0: one that takes sends, else one that closes behind its last message or has broken since the push
(R362, R379). -/
def State.flowOut (s : State) (core : Nat) (w : SendWord) (d : Dest) : Option Flow :=
  ((s.flowsOf core).find? (flowFor w.list w.flow w.pri d)).orElse fun _ =>
    (s.flowsOf core).find? fun f => f.cls != .atomic && (w.list || f.handle == w.flow) && f.leads w.pri d

/-- Whether two flow records of a core are of one flow (R156, R359). -/
def Flow.same (f g : Flow) : Bool := g.handle == f.handle && g.dest == f.dest && g.cls == f.cls

/-- LID and LGEN that a send names (R151). -/
def launchOperand (x : Ctx) (b : Nat) (v : Word) : Nat × Nat :=
  if b = 0 then (x.lid, x.lgen) else (wbits v 11 0, wbits v 15 12)

/-- The launch operand's field (R151). -/
def launchField (b : Nat) : Opnd := if b = 0 then .none else .src b

/-- The checks of R152 and the push of the send word. -/
def pushSend (kind : MsgKind) (pri : Bool) (cw : Word) (lid lgen len : Nat) (list : Bool) (dests : List Dest) (mo : Option MemOrd) :
    M Unit := do
  let s ← get
  let x := s.me
  let ord := wbit cw 31
  let handle := wbits cw 63 56
  if ord && !(dests.all fun d => (s.flowsOf s.cur.core).any (flowFor list handle pri d)) then trapM tFlow
  if pri && decide (2 < x.hsent + dests.length) then trapM tQueue
  let w : SendWord := { kind := kind, pri := pri, ord := ord, flow := handle, handler := wbits cw 53 48, lid := lid, lgen := lgen,
                        len := len, list := list, dests := dests,
                        rel := if isRelease mo then some (scopeOf mo, s.clock) else none }
  setMe { x with hsent := x.hsent + (if pri then dests.length else 0), q0 := x.q0 ++ [.send w] }

/-- SEND (R150 to R152). A send has KIND TASK, so that no instruction sends the EVENT that R14 lets column firmware send. Mark: DESIGN
CHOICE (log entry 97). -/
def execSend (a b : Nat) (mo : Option MemOrd) (s : State) : Out :=
  finish (do
    let v ← operands .none (.src a) (launchField b) [(0, 1)]
    let (lid, lgen) := launchOperand (← getMe) b v.b
    pushSend .task (wbit v.a 30) v.a lid lgen 0 false [destOf v.a] mo) s

/-- SENDL (R153). -/
def execSendl (d a b : Nat) (mo : Option MemOrd) (s : State) : Out :=
  finish (do
    let v ← operands (.src d) (.src a) (launchField b) [(0, 1)]
    let s ← get
    let x := s.me
    let (lid, lgen) := launchOperand x b v.b
    let n := wbits v.a 6 0
    if n = 0 ∨ 64 < n then trapM tQueue
    if v.d.toNat % 8 ≠ 0 then trapM tAlign v.d
    match s.steer s.cur.core x v.d.toNat (8 * n) with
    | some .glob => trapM tAperture v.d
    | none => trapM tAperture v.d
    | some w =>
      let l := s.localBytes s.cur.core x w v.d.toNat (8 * n)
      pushSend .task (wbit v.a 30) v.a lid lgen 0 true ((List.range n).map fun i => destOf (wd (fieldAt l (8 * i) 8))) mo) s

/-- REPLY (R154). -/
def execReply (a : Nat) (mo : Option MemOrd) (s : State) : Out :=
  finish (do
    let v ← operands .none (.src a) .none [(0, 1)]
    let x ← getMe
    if x.ident.kind = 2 then trapM tQueue
    pushSend .task (wbit v.a 30) v.a x.lid x.lgen 0 false [⟨x.ident.score, false, x.part, x.ident.sdev⟩] mo) s

/-- SENDS (R155): LEN travels in DEST [93:88] of a STREAMEND (R13). -/
def execSends (d a b : Nat) (mo : Option MemOrd) (s : State) : Out :=
  finish (do
    let v ← operands (.src d) (.src a) (launchField b) [(0, 1)]
    let (lid, lgen) := launchOperand (← getMe) b v.b
    let n := v.d.toNat
    if 48 < n then trapM tQueue
    let dest : Dest := ⟨wbits v.a 11 0, false, wbits v.a 29 25, wbits v.a 47 32⟩
    pushSend (if n = 0 then .stream else .streamend) false v.a lid lgen n false [dest] mo) s

/-- The drops of NIDROP (R39). -/
inductive DropKind where
  | badkind | badpart | stale | badhandler | badstream | badtile
  deriving DecidableEq, Repr

/-- A field of NIDROP saturates at 1,023 (R39). -/
def sat1023 (n : Nat) : Nat := min (n + 1) 1023

def State.niDrop (s : State) (core : Nat) (d : DropKind) : State :=
  s.modCore core fun k =>
    let n := k.nidrop
    { k with nidrop := match d with
        | .badkind => { n with badkind := sat1023 n.badkind }
        | .badpart => { n with badpart := sat1023 n.badpart }
        | .stale => { n with stale := sat1023 n.stale }
        | .badhandler => { n with badhandler := sat1023 n.badhandler }
        | .badstream => { n with badstream := sat1023 n.badstream }
        | .badtile => { n with badtile := sat1023 n.badtile } }

/-- What a FREE context still holds: its registers as its task left them, until a dispatch sets them (R85, R87, R411). -/
def Ctx.freed (x : Ctx) : Ctx :=
  { pc := x.pc, rpc := x.rpc, regs := x.regs, taint := x.taint, masks := x.masks, vbase := x.vbase, vtype := x.vtype, fpctl := x.fpctl,
    fpflags := x.fpflags, srseed := x.srseed, gbound := x.gbound, super := x.super, trapcause := x.trapcause, trappc := x.trappc,
    trapaddr := x.trapaddr, trapctx := x.trapctx, pseq := x.pseq, tsel := x.tsel, tdata := x.tdata, tcmd := x.tcmd }

/-- The acquires of a context that leaves its core count for those that share a scope with it (R335). -/
def Core.keepAcq (x : Ctx) (k : Core) : Core := { k with acqStamp := max k.acqStamp x.acqStamp }

/-- A context leaves its place FREE and is retired from its launch's count (R87, R92). -/
def State.freeCtx (s : State) (core ctx : Nat) : State :=
  let x := s.ctx core ctx
  let s := (s.setCtx core ctx x.freed).modCore core (Core.keepAcq x)
  if s.isFw core then s else s.count x.lkey core (· - 1)

/-- An EXITING context with nothing left to send or to be acknowledged becomes FREE (R87, R148). -/
def State.tryFree (s : State) (core ctx : Nat) : State :=
  let x := s.ctx core ctx
  if x.st = .exiting ∧ x.q0 = [] ∧ x.acks = 0 then s.freeCtx core ctx else s

/-- The tile coordinate's slot under an affine map, or the linear index of its table entry (R23). -/
def TileMap.inside (t : TileMap) (x y z : Nat) : Bool := decide (x < t.xn) && decide (y < t.yn) && decide (z < t.zn)

def TileMap.affine (t : TileMap) (x y z : Nat) : Int :=
  t.off + ((x / t.bx : Nat) : Int) * t.sx + ((y / t.by_ : Nat) : Int) * t.sy + ((z / t.bz : Nat) : Int) * t.sz

/-- The outcome of a tile lookup (R23, R24). -/
inductive TileRes where
  | core (c : Nat)
  | none_
  | wait
  deriving DecidableEq, Repr

/-- A tile coordinate resolved through a launch's map by a unit of a name, on a die (R23, R24). A slot table that lies in a peer's memory is
read there (R267). -/
def State.tileCore (s : State) (name die : Nat) (l : Launch) (dest : Nat) : TileRes × State :=
  let x := dest % 1024
  let y := dest / 1024 % 1024
  let z := dest / 2 ^ 20 % 16
  let t := l.tmap
  let pick := fun (slot : Int) (s : State) =>
    if slot < 0 then (TileRes.none_, s)
    else match l.cores[slot.toNat]? with
      | some c => (.core c, s)
      | none => (.none_, s)
  if !t.inside x y z then (.none_, s)
  else if t.form = 0 then pick (t.affine x y z) s
  else
    let va := t.tbl + 2 * (x + t.xn * (y + t.yn * z))
    match s.unitRead name die none l.key.part l.job va 2 with
    | (.wait, s) => (.wait, s)
    | (.fail _, s) => (.none_, s)
    | (.ok b, s) => if leNat b = 0xFFFF then (.none_, s) else pick (leNat b) s

/-- Whether every NI is stopped, for a graceful warm reset (R452). -/
def State.niStopped (s : State) : Bool := s.board.graceful.isSome

/-- Whether L messages to a core wait, or all of them (R82). -/
def Core.pressed (k : Core) : Bool := k.held.isSome || k.resvs.any fun r => r.pressed

/-- The leading staged words of q0, its first send word and what follows. -/
def headOf : List Q0Item → Option (List Word × SendWord × List Q0Item)
  | [] => none
  | .data w :: t => (headOf t).map fun h => (w :: h.1, h.2)
  | .send w :: t => some ([], w, t)

/-- The message of a send word toward one destination (R152). SEQ is written as it is taken. -/
def sendMsg (core : Nat) (w : SendWord) (data : List Word) (d : Dest) : Msg :=
  { kind := w.kind, pri := w.pri, taddr := d.taddr, ord := w.ord, flow := 0, ddev := d.ddev, dpart := d.dpart, handler := w.handler,
    lgen := w.lgen, lid := w.lid, dest := d.norm.dest + (if w.kind = .streamend then w.len * 2 ^ 12 else 0), sdev := selfEp,
    score := core, payload := (data ++ List.replicate 6 0#64).take 6 }

/-- q0 after one message of its head send word has been taken: the copies left keep the word and its payload. -/
def afterTake (data : List Word) (w : SendWord) (rest : List Q0Item) : List Q0Item :=
  match w.dests.drop 1 with
  | [] => rest
  | ds => data.map .data ++ [.send { w with dests := ds }] ++ rest

/-- Contexts of a core in the order in which the NI considers their heads: those with an H head first, each round-robin (R157). One pointer serves both priorities, and every message
taken moves it. Mark: DESIGN CHOICE (log entry 112). -/
def Core.niOrder (k : Core) : List Nat :=
  let heads := k.ctxs.filterMap fun p => (headOf p.2.q0).map fun h => (p.1, h.2.1.pri)
  let turn := fun (l : List (Nat × Bool)) =>
    (l.filter fun p => decide (k.niAt ≤ p.1)).map (·.1) ++ (l.filter fun p => decide (p.1 < k.niAt)).map (·.1)
  turn (heads.filter fun p => p.2) ++ turn (heads.filter fun p => !p.2)

/-- What becomes of a head message: it goes to a core, to another device, is dropped by the sending NI, is dropped as ISOLATED, or
waits. -/
inductive Way where
  | local_ (core : Nat)
  | remote
  | dropped (d : DropKind)
  | isolated
  | wait
  deriving DecidableEq, Repr

/-- Whether a launch identifier is known under some generation: in use, or freed (R32). -/
def State.lidKnown (s : State) (part lid : Nat) : Bool :=
  (s.launches.any fun l => l.key.part == part && l.key.lid == lid) || s.freed.any fun f => !f.job && f.part == part && f.id == lid

/-- The drop of a tile-addressed message to a launch that its device does not hold, which has no map: STALE where its LID is known under
another generation (R32), else BADTILE (R24). The spec names no drop for it. Mark: DESIGN CHOICE (log entry 98). -/
def State.noMap (s : State) (part lid : Nat) : DropKind := if s.lidKnown part lid then .stale else .badtile

/-- The route of a message of a core on its flow, if it is ordered (R24, R82, R347, R360, R366). One whose flow has broken since its push
is dropped as ISOLATED. Mark: DESIGN CHOICE (log entry 99). -/
def State.route (s : State) (core : Nat) (w : SendWord) (d : Dest) (fl : Option Flow) : Way × State :=
  let cut := w.ord && fl.all fun f => f.broken
  let full := w.ord && fl.any Flow.full
  if d.ddev = selfEp then
    if cut then (.isolated, s)
    else if full then (.wait, s)
    else
      let enter := fun (r : TileRes × State) => match r with
        | (.wait, s) => (Way.wait, s)
        | (.none_, s) => (.dropped .badtile, s)
        | (.core c, s) => (if !w.pri && (s.core c).pressed then .wait else .local_ c, s)
      if d.taddr then match s.launch ⟨d.dpart, w.lid, w.lgen⟩ with
        | some l => enter (s.tileCore (unitName 1 core) (dieOf core) l d.dest)
        | none => (.dropped (s.noMap d.dpart w.lid), s)
      else enter (.core (d.dest % 4096), s)
  else if cut || !(s.peerAt d.ddev).any fun p => p.2.feotte && !p.2.isol then (.isolated, s)
  else (if full then .wait else .remote, s)

/-- A numbered message on a flow of a core toward a core of this device (R156, R360). -/
def State.localFlow (s : State) (core c : Nat) (f : Flow) (m : Msg) (who : Sender) : State :=
  let m := { m with flow := f.handle, seq := f.seq }
  let pkt : Pkt := { body := .message m }
  (s.modFlow core f.same fun f =>
    { f with seq := (f.seq + 1) % 2 ^ 16, unacked := f.unacked ++ [pkt], since := s.clock }).toMesh m c who

/-- Whether a core still has a send word in q0 for a flow. -/
def Core.uses (k : Core) (f : Flow) : Bool :=
  k.ctxs.any fun p => p.2.q0.any fun i => match i with
    | .send w => w.ord && (w.dests.any fun d => d.norm == f.dest.norm) && (w.list || w.flow == f.handle)
    | .data _ => false

/-- A closing flow sends its close packet once its last message has left and it takes a packet (R360, R379); one within the device is gone
once nothing of it is unacknowledged, and a broken one at once. -/
def State.sendCloses (s : State) (core : Nat) : State :=
  let due := (s.flowsOf core).filter fun f => f.closing && !f.closeSent && !f.broken && !f.full && !(s.core core).uses f
  let s := due.foldl (fun s f =>
    let s := s.modFlow core f.same fun g => { g with closeSent := true }
    if f.dest.ddev = selfEp then s
    else s.sendOnFlow core f.same f.dest.ddev fun q => .flowclose core f.handle f.cls.code q) s
  { s with flows := s.flows.set core ((s.flowsOf core).filter fun f =>
      !(f.closing && (f.broken || (f.closeSent && f.unacked.isEmpty)))) }

/-- The partition that owns a core's cluster, whatever the core's role (R72, R73). -/
def State.ownerOf (s : State) (core : Nat) : Option Nat :=
  let k := s.cluster (clusterOf core)
  if k.valid then some k.part else none

/-- Whether every engine command pushed up to a time has left its port, taken by its engine (R158): of q1 a waiting DEQW counts as taken,
and of q7 a request with its result. A command of which words have still to be pushed does not hold the send back. Mark: DEDUCED (log
entry 100). -/
def Ctx.pushesTaken (x : Ctx) (since : Nat) : Bool :=
  !(x.q1.any fun c => decide (c.since ≤ since) && c.waiting.isNone && !(wbits c.word 13 12 == 0 && c.item.isNone))
    && !((wholeQ2 x.q2).any fun c => decide (c.2.2 ≤ since))
    && !((wholeQ4 x.q4).any fun c => decide (c.2.1 ≤ since))
    && !(x.q6.any fun p => decide (p.since ≤ since))
    && !(x.q7.any fun r => decide (r.seq ≤ since) && r.done.isNone)

/-- The release condition of a send of a context, which after EXIT covers what its task left behind (R148, R158). -/
def State.sendReleased (s : State) (core ctx : Nat) (r : Nat × Nat) : Bool :=
  (ctx :: (s.ctx core ctx).left.toList).all fun n => s.released core n r.1 r.2 && (s.ctx core n).pushesTaken r.2

/-- One message of a context's head send word leaves, if it can (R149, R157). One to a column core carries the partition that owns the
sender's cluster in DPART (R73); where none does, DPART stays as it was named. Mark: DESIGN CHOICE (log entry 101). -/
def State.takeHead (s : State) (core ctx : Nat) : Option State × State :=
  let x := s.ctx core ctx
  match headOf x.q0 with
  | none => (none, s)
  | some (data, w, rest) =>
    match w.dests with
    | [] => (none, s)
    | d :: _ =>
      if s.niStopped || (w.rel.any fun r => !s.sendReleased core ctx r) then (none, s)
      else
        let fl := s.flowOut core w d
        let (way, s) := s.route core w d fl
        let m := sendMsg core w data d
        let sent := fun (s : State) (acks : Nat) =>
          let s := s.modCtx core ctx fun x => { x with q0 := afterTake data w rest, acks := x.acks + acks }
          some (((s.modCore core fun k => { k with niAt := (ctx + 1) % 16 }).sendCloses core).tryFree core ctx)
        match way with
        | .wait => (none, s)
        | .local_ c =>
          let m := if s.isFw c then { m with dpart := (s.ownerOf core).getD m.dpart } else m
          (sent (match w.ord, fl with
            | true, some f => s.localFlow core c f m (.ctx core ctx)
            | _, _ => s.toMesh m c (.ctx core ctx)) 1, s)
        | .remote =>
          let body := fun (f : Nat) (q : Nat) => PktBody.message { m with flow := f, seq := q }
          (sent (match w.ord, fl with
            | true, some f => s.sendOnFlow core f.same d.ddev (body f.handle)
            | _, _ => s.emit (dieOf core) d.ddev (body 0 0)) 0, s)
        | .dropped k => (sent (s.niDrop core k) 0, s)
        | .isolated => (sent (s.epDrop (dieOf core) EpDrop.addIsolated) 0, s)

/-- The first of some contexts whose head message can leave sends it; the state keeps what the lookups of the others have begun. -/
def State.takeFirst (core : Nat) : List Nat → State → State
  | [], s => s
  | c :: t, s => match s.takeHead core c with
    | (some u, _) => u
    | (none, u) => State.takeFirst core t u

/-- NI_TAKE_SEND (R157): one message leaves a core. -/
def execNiTakeSend (core : Nat) (s : State) : Out :=
  .next (State.takeFirst core (s.core core).niOrder s)

/-- Whether FWALL of a die admits a message (R73). -/
def State.fwAdmits (s : State) (core : Nat) (m : Msg) : Bool :=
  let w := (s.die (dieOf core)).fwall
  match m.kind with
  | .event => true
  | .trap => wbit w 1
  | .task => wbit w (2 + m.dpart) && m.handler == 0
  | _ => false

/-- The handler address of a launch's table, or of the firmware's (R25, R73). -/
def State.handlerOf (s : State) (core : Nat) (l : LKey) (h : Nat) : Option Nat :=
  let table := if s.isFw core then (s.core core).fwHandlers else match s.launch l with
    | some x => x.handlers
    | none => []
  match table[h]? with
  | none => none
  | some a => if a = 0 ∨ a % 2 = 1 then none else some a

/-- A stream-table entry as a message finds it: that of the core, or of the save of a launch of which only a stub is left (R423,
R426). -/
def State.streamEnt (s : State) (core : Nat) (r : Resv) (i : Nat) : StreamEnt :=
  if r.stub then
    let mine := fun (c : SavedCore) => c.core == core && c.resv.part == r.part && c.resv.lid == r.lid && c.resv.lgen == r.lgen
    (((s.saves.flatMap (·.cores)).find? mine).map fun c => c.streams.get {} i).getD {}
  else (s.core core).streams.get {} i

/-- The checks of R18 on an arriving message: the drop, if one fails. On a column core FWALL comes ahead of them and stands for checks 2
and 3, and check 4 is not made of an EVENT (R73). -/
def State.checkMsg (s : State) (core : Nat) (m : Msg) : Option DropKind :=
  let key : LKey := ⟨m.dpart, m.lid, m.lgen⟩
  if s.isFw core then
    if !s.fwAdmits core m then some .badpart
    else if m.kind ≠ .event ∧ (s.handlerOf core key m.handler).isNone = true then some .badhandler
    else none
  else match m.kind with
  | .reserved _ => some .badkind
  | .event => some .badkind
  | k =>
    if s.partOf core ≠ some m.dpart then some .badpart
    else match (s.core core).resv key with
      | none => some .stale
      | some r =>
        if r.mark.isSome ∨ ((s.launch key).any fun l => l.ended) = true then some .stale
        else if k = .stream ∨ k = .streamend then
          let e := s.streamEnt core r m.handler
          let len := m.dest / 2 ^ 12 % 64
          if 16 ≤ m.handler ∨ m.ord = false ∨ ¬(e.st = .bound ∨ e.st = .active)
              ∨ e.lid ≠ m.lid ∨ e.lgen ≠ m.lgen ∨ e.part ≠ m.dpart
              ∨ (k = .streamend ∧ (len = 0 ∨ 48 < len))
          then some .badstream else none
        else if (s.handlerOf core key m.handler).isNone then some .badhandler
        else none

/-- The reservation that a message counts on: its launch's, or the firmware's on a column core. -/
def State.msgResv (s : State) (core : Nat) (m : Msg) : Option Resv :=
  if s.isFw core then (s.core core).resvs.head? else (s.core core).resv ⟨m.dpart, m.lid, m.lgen⟩

/-- The bytes of a message on their way to a place of the job's overflow pool (R80): true while its translation waits. A pool that cannot be
written keeps its bytes. The ring's messages are kept with the reservation, and what else is stored to the pool is not read back.
Mark: DESIGN CHOICE (log entry 49). -/
def State.spillBytes (s : State) (core : Nat) (r : Resv) (off : Nat) (b : List Byte) : Bool × State :=
  match s.job r.part r.job with
  | none => (false, s)
  | some j =>
    let va := j.desc.ovfpool + r.ring + off
    match s.unitXlate (unitName 1 (2 ^ 20 + core)) (dieOf core) none r.part r.job va 1 with
    | (.wait, s) => (true, s)
    | (.fail _, s) => (false, s)
    | (.ok e, s) => (false, if paKind (e.phys va) = .sealed then s.writePoc (e.phys va) r.part b 2 else s)

/-- The bytes that still wait for a translation are tried again, in order (R80). -/
def State.dueSpill (s : State) (core : Nat) (r : Resv) : State :=
  match r.unwritten with
  | [] => s
  | (off, b) :: _ => match s.spillBytes core r off b with
    | (true, s) => s
    | (false, s) => s.modCore core fun k => k.modResv ⟨r.part, r.lid, r.lgen⟩ fun q => { q with unwritten := q.unwritten.drop 1 }

@[inherit_doc State.dueSpill]
def State.dueSpills (s : State) : State :=
  s.cores.foldl (fun s p => (p.2.resvs.filter fun r => !r.unwritten.isEmpty).foldl (fun s r => s.dueSpill p.1 r) s) s

/-- An accepted message enters an inbound entry of its priority, its launch's overflow ring, or is held at a full ring (R80, R82). -/
def State.enqueue (s : State) (core : Nat) (im : InMsg) : State :=
  let k := s.core core
  match s.msgResv core im.msg with
  | none => s
  | some r =>
    let pri := im.msg.pri
    let same := r.ringQ.any fun q => q.msg.pri == pri
    let room := if pri then decide (k.hq.length < 16) else decide (k.lq.length < 32)
    if room && !same && !r.stub then
      s.modCore core fun k => if pri then { k with hq := k.hq ++ [im] } else { k with lq := k.lq ++ [im] }
    else
      let cap := r.ringBytes / 64
      if cap ≤ r.ringQ.length then
        { s.modCore core (fun k => { k with held := some im.msg }) with
            pfaults := s.pfaults ++ (if s.isFw core then [] else [(r.part, tOverflowring)]) }
      else
        s.modCore core fun k => { k with resvs := k.resvs.map fun q =>
          if q.part == r.part && q.lid == r.lid && q.lgen == r.lgen then
            { q with unwritten := q.unwritten ++ [(q.ringTail, msgBytes im.msg)], ringQ := q.ringQ ++ [im], ringTail := (q.ringTail + 64) % max 64 q.ringBytes,
                     pressed := q.pressed || decide (3 * cap < 4 * (q.ringQ.length + 1)) }
          else q }

/-- A message's acceptance: it is counted before its acknowledgement leaves (R90, R92). -/
def State.accept (s : State) (core : Nat) (im : InMsg) (who : Sender) : State :=
  let m := im.msg
  let s := if s.isFw core then s else s.count ⟨m.dpart, m.lid, m.lgen⟩ core (· + 1)
  let s := s.enqueue core im
  { s with acks := s.acks ++ [who] }

/-- A message is lost at the NI of a core, which counts it (R18, R38); of a TRAP the NI raises TRAPLOST (R406). -/
def State.loseMsg (s : State) (core : Nat) (d : DropKind) (m : Msg) : State :=
  let s := s.niDrop core d
  if m.kind = .trap then s.trapLost (dieOf core) (s.isFw m.score) m.dpart m.payload else s

/-- A message's drop: it is lost, and acknowledged (R19). -/
def State.dropMsg (s : State) (core : Nat) (m : Msg) (d : DropKind) (who : Sender) : State :=
  let s := s.loseMsg core d m
  { s with acks := s.acks ++ [who] }

/-- Whether a message on the mesh can arrive: none passes a message held at a full ring, an L message waits for back-pressure, and one
on a flow waits for those before it (R82, R331, R361). -/
def State.canArrive (s : State) (i : Nat) : Option Flight :=
  match s.mesh[i]? with
  | none => none
  | some f =>
    let k := s.core f.core
    let behind := f.msg.ord && (s.mesh.take i).any fun g =>
      g.msg.ord && g.msg.sdev == f.msg.sdev && g.msg.score == f.msg.score && g.msg.flow == f.msg.flow && g.core == f.core
    if s.niStopped || k.held.isSome || (!f.msg.pri && k.pressed) || behind then none else some f

/-- The sender's count of its flow's unacknowledged messages goes down, for a flow within the device (R360). -/
def State.flowDone (s : State) (f : Flight) : State :=
  if f.msg.ord && f.msg.sdev == selfEp then
    let me := fun (g : Flow) => g.handle == f.msg.flow && (g.unacked.any fun p => p.body == .message f.msg)
    (s.modFlow f.msg.score me fun g => { g with unacked := g.unacked.drop 1 }).sendCloses f.msg.score
  else s

/-- A message leaves the mesh at its destination. -/
def State.leaveMesh (s : State) (i : Nat) (f : Flight) : State := ({ s with mesh := dropAt s.mesh i }).flowDone f

/-- MESSAGE_ARRIVAL (R18, R19, R80, R92): a message that is not of a stream is checked, and accepted or dropped. -/
def execMessageArrival (i : Nat) (s : State) : Out :=
  match s.canArrive i with
  | none => .next s
  | some f =>
    if f.msg.kind = .stream ∨ f.msg.kind = .streamend then .next s
    else
      let s := s.leaveMesh i f
      let (n, s) := s.fresh
      .next (match s.checkMsg f.core f.msg with
        | some d => s.dropMsg f.core f.msg d f.sender
        | none => s.accept f.core ⟨f.msg, n, none⟩ f.sender)

/-- The data bytes of a message's payload. -/
def msgData (m : Msg) (n : Nat) : List Byte := (m.payload.flatMap fun w => leBytes 8 w.toNat).take n

/-- A stream-table entry after its chain has taken a packet's data, with the bytes it writes: outputs past the window are suppressed
(R89, R220). -/
def StreamEnt.take (e : StreamEnt) (data : List Byte) : StreamEnt × List (Nat × List Byte) :=
  match e.chain with
  | none => ({ e with bytes := e.bytes + data.length }, [])
  | some c =>
    let outs := (c.run data).map (·.1)
    let r := outs.foldl (fun (a : Nat × Bool × List (Nat × List Byte)) o =>
      if a.1 + o.length ≤ e.wlen then (a.1 + o.length, a.2.1, a.2.2 ++ [(e.wbase + a.1, o)])
      else (a.1 + o.length, true, a.2.2)) (e.cursor, e.overrun, [])
    ({ e with bytes := e.bytes + data.length, cursor := r.1, overrun := r.2.1 }, r.2.2)

/-- A stream packet's data goes through its entry's chain into the launch's scratchpad (R37, R220); a STREAM message leaves the entry
ACTIVE, and a STREAMEND leaves its state (R89). Data of a next stream that comes before the end handler of the last is dispatched goes on with
BYTES and the chain's destination pointer as they stand. Mark: DESIGN CHOICE (log entry 124). -/
def State.streamData (s : State) (core : Nat) (m : Msg) (n : Nat) : State × StreamEnt :=
  let k := s.core core
  let (e, writes) := (k.streams.get {} m.handler).take (msgData m n)
  let e := if m.kind = .stream then { e with st := .active } else e
  let base := ((k.resv ⟨m.dpart, m.lid, m.lgen⟩).map (·.spBase)).getD 0
  let k := { k with streams := k.streams.set m.handler e, sp := writes.foldl (fun sp w => sp.store (base + w.1) w.2) k.sp }
  (s.setCore core k, e)

/-- An entry as the end handler of a stream of n bytes is dispatched: OVER and the chain's destination pointer are reset, and BYTES too but
for what a next stream has brought, without which the entry is BOUND again (R89). Mark: DESIGN CHOICE for the next stream (log entry
124). -/
def StreamEnt.ended (e : StreamEnt) (n : Nat) : StreamEnt :=
  { e with st := if e.bytes ≤ n then .bound else e.st, bytes := e.bytes - n, due := e.due - n, overrun := false, cursor := 0 }

/-- A stream's last packet goes through its chain; its end handler's message, with the bytes of this one stream, is the answer, and the entry
stays in its state until that is dispatched (R37, R89). -/
def State.streamEnd (s : State) (core : Nat) (m : Msg) (n : Nat) : State × InMsg :=
  let (t, e) := s.streamData core m (m.dest / 2 ^ 12 % 64)
  let bytes := e.bytes - e.due
  (t.modCore core fun k => { k with streams := k.streams.set m.handler { e with due := e.bytes } },
   ⟨{ m with handler := e.endh, payload := [wd bytes, wd m.handler, 0#64, 0#64, 0#64, 0#64] }, n, some bytes⟩)

/-- Whether only a stub of a message's launch is left on a core; its packets wait in the ring (R423). -/
def State.stubbed (s : State) (core : Nat) (m : Msg) : Bool := (s.msgResv core m).any fun r => r.stub

/-- STREAM_ARRIVAL (R37, R89). -/
def execStreamArrival (i : Nat) (s : State) : Out :=
  match s.canArrive i with
  | none => .next s
  | some f =>
    if f.msg.kind ≠ .stream then .next s
    else
      let s := s.leaveMesh i f
      .next (match s.checkMsg f.core f.msg with
        | some d => s.dropMsg f.core f.msg d f.sender
        | none =>
          let (n, s) := s.fresh
          let t := if s.stubbed f.core f.msg then s.enqueue f.core ⟨f.msg, n, none⟩ else (s.streamData f.core f.msg 48).1
          { t with acks := t.acks ++ [f.sender] })

/-- STREAMEND_ARRIVAL (R37, R89): the stream's end handler becomes a waiting message. -/
def execStreamendArrival (i : Nat) (s : State) : Out :=
  match s.canArrive i with
  | none => .next s
  | some f =>
    if f.msg.kind ≠ .streamend then .next s
    else
      let s := s.leaveMesh i f
      let (n, s) := s.fresh
      .next (match s.checkMsg f.core f.msg with
        | some d => s.dropMsg f.core f.msg d f.sender
        | none =>
          if s.stubbed f.core f.msg then s.accept f.core ⟨f.msg, n, none⟩ f.sender
          else
            let (t, im) := s.streamEnd f.core f.msg n
            t.accept f.core im f.sender)

/-- The name of a flow's receive record, by source, core, handle and class (R361). -/
def RecvRec.named (r : RecvRec) (sdev score flow cls : Nat) : Bool :=
  r.sdev == sdev && r.score == score && r.flow == flow && r.cls.code == cls

/-- A FLOWACK with the highest SEQ delivered in order (R362). -/
def State.sendFlowAck (s : State) (r : RecvRec) : State :=
  s.emit r.die r.sdev (.flowack r.score r.flow r.cls.code ((r.done + 2 ^ 16 - 1) % 2 ^ 16))

/-- A packet of a flow from another device has been accepted: a FLOWACK follows every 8 of them, and the record is gone once all
before its close packet are (R361, R362). -/
def State.flowAccepted (s : State) (sdev score flow cls : Nat) : State :=
  match s.recvs.find? fun r => r.named sdev score flow cls with
  | none => s
  | some r =>
    let r := { r with done := (r.done + 1) % 2 ^ 16, unsent := r.unsent + 1, ackAt := some (s.clock + Config.us 10) }
    let others := s.recvs.filter fun r => !r.named sdev score flow cls
    if r.closed && (r.done + 1) % 2 ^ 16 == r.next then
      ({ s with recvs := others }).sendFlowAck { r with done := r.next }
    else if 8 ≤ r.unsent then
      ({ s with recvs := others ++ [{ r with unsent := 0, ackAt := none }] }).sendFlowAck r
    else { s with recvs := others ++ [r] }

/-- A message of a seeding has been accepted or dropped (R55, R91, R92). -/
def State.seedingAck (s : State) (id : Nat) : State :=
  let f := fun (z : Seeding) => if z.id == id then { z with outstanding := z.outstanding - 1 } else z
  let s := { s with seedings := s.seedings.map f }
  match s.seedings.find? fun z => z.id == id with
  | none => s
  | some z => s.noteEnd z.key

/-- The number by which the messages on their way of a SAVED context name it. -/
def savedName (r : Resv) (n : Nat) : Nat := 2 ^ 40 + ((r.part * 2 ^ 16 + r.lgen * 2 ^ 12 + r.lid) * 16 + n)

/-- A SAVED context that was EXITING has ended once nothing of it is unacknowledged (R92). -/
def SavedCore.settle (c : SavedCore) : SavedCore :=
  { c with ctxs := c.ctxs.filter fun p => !(c.was.get .free p.1 == .exiting && p.2.acks == 0) }

/-- An acknowledgement for a SAVED context (R92). -/
def State.savedAck (s : State) (core name : Nat) : State :=
  let hit := fun (c : SavedCore) (n : Nat) => c.core == core && savedName c.resv n == name
  let f := fun (c : SavedCore) =>
    ({ c with ctxs := c.ctxs.map fun n x => if hit c n then { x with acks := x.acks - 1 } else x } : SavedCore)
  let ended := (s.saves.flatMap (·.cores)).filter fun c => (f c).settle.ctxs.length < c.ctxs.length
  let s := { s with saves := s.saves.map fun j => { j with cores := j.cores.map fun c => (f c).settle } }
  ended.foldl (fun s c => s.count ⟨c.resv.part, c.resv.lid, c.resv.lgen⟩ core (· - 1)) s

/-- ACKNOWLEDGEMENT_ARRIVAL (R87, R91, R92). -/
def execAcknowledgementArrival (i : Nat) (s : State) : Out :=
  match s.acks[i]? with
  | none => .next s
  | some who =>
    let s := { s with acks := dropAt s.acks i }
    .next (match who with
      | .ctx core ctx =>
        if 2 ^ 40 ≤ ctx then s.savedAck core ctx else (s.modCtx core ctx fun x => { x with acks := x.acks - 1 }).tryFree core ctx
      | .seeding id => s.seedingAck id
      | .landing _ cluster part lid lgen => s.count ⟨part, lid, lgen⟩ (cluster * 16) (· - 1)
      | .node g n => { s with graphs := s.graphs.map fun x => if x.key == g then
          { x with inst := x.inst.map fun y => { y with nodes := if y.nodes[n]? = some .running then putAt y.nodes n .ended
                                                                else y.nodes } } else x }
      | .flow sdev score flow cls => s.flowAccepted sdev score flow cls
      | .hw => s)

/-- INBOUND_REFILL (R81, R82): a free inbound entry takes the oldest ring message of the next launch in turn, H before L. -/
def execInboundRefill (core : Nat) (s : State) : Out :=
  let k := s.core core
  let turn := k.resvs.drop k.refillAt ++ k.resvs.take k.refillAt
  let pick := fun (pri : Bool) => turn.findSome? fun r => if r.stub then none else (r.ringQ.find? fun q => q.msg.pri == pri).map fun q => (r, q)
  let move := fun (r : Resv) (q : InMsg) (k : Core) =>
    let cap := r.ringBytes / 64
    let left := r.ringQ.erase q
    let at_ := ((findPos (fun o => o == r) k.resvs).getD 0 + 1) % max 1 k.resvs.length
    { k with refillAt := at_, resvs := k.resvs.map fun o => if o == r then
                { o with ringQ := left, pressed := o.pressed && decide (cap < 2 * left.length) } else o }
  if k.hq.length < 16 && (pick true).isSome then
    .next (match pick true with
      | some (r, q) => s.setCore core { move r q k with hq := k.hq ++ [q] }
      | none => s)
  else if k.lq.length < 32 then
    .next (match pick false with
      | some (r, q) => s.setCore core { move r q k with lq := k.lq ++ [q] }
      | none => s)
  else .next s

/-- High places of a launch on a core (R78): their number, of which the rule does not say which places they are. They are the lowest of
the launch. Mark: DESIGN CHOICE (log entry 48). -/
def highPlaces (places : Nat) : Nat := (places + 3) / 4

/-- The places that a task of a priority may take, in the order in which they are tried (R78, R84). -/
def Resv.order (r : Resv) (pri : Bool) : List Nat :=
  let n := r.spots.length
  let h := highPlaces n
  if n ≤ 1 then List.range n
  else if pri then List.range n
  else (List.range (n - h)).map (· + h)

/-- The free place for a task of a priority: its index within the launch (R84). -/
def Core.freePlace (k : Core) (r : Resv) (pri : Bool) : Option Nat :=
  (r.order pri).find? fun i => (k.ctx (r.spots.getD i 0)).st == .free

/-- The identity word's parts of a message (R20). -/
def msgIdent (m : Msg) : Ident :=
  { tile := if m.taddr then m.dest else 0, score := m.score, sdev := m.sdev, kind := (MsgKind.code m.kind), pri := m.pri, taddr := m.taddr }

/-- The identity word (R20). -/
def Ident.word (i : Ident) : Word :=
  wd (i.tile + i.score * 2 ^ 24 + i.sdev * 2 ^ 36 + i.kind * 2 ^ 52 + (if i.pri then 2 ^ 56 else 0) + (if i.taddr then 2 ^ 57 else 0))

/-- Whether a waiting message can be dispatched now: no save holds it, and no masked window holds H tasks back (R84, R86, R422). -/
def State.dispatchable (s : State) (core : Nat) (im : InMsg) : Option (Resv × Nat) :=
  let k := s.core core
  match s.msgResv core im.msg with
  | none => none
  | some r =>
    let masked := im.msg.pri && k.ctxs.any fun p => p.2.masked.isSome
    if s.niStopped || masked || r.hold || r.stub then none else (k.freePlace r im.msg.pri).map fun i => (r, i)

/-- A context as dispatch sets it (R17, R29, R85). A column core's has no LAUNCH packet: its VTYPE, FPCTL, PHASE and GRAPH are those of a live
launch that the message's header names, else 0, and its SUPER that of partition 0, job 0. Mark: DESIGN CHOICE (log entry 113). -/
def State.newCtx (s : State) (core : Nat) (r : Resv) (idx : Nat) (im : InMsg) (pc : Nat) : Ctx :=
  let m := im.msg
  let l := s.launch ⟨m.dpart, m.lid, m.lgen⟩
  let n := r.spots.getD idx 0
  let id := msgIdent m
  { st := .running, pc := wd pc,
    regs := ((List.range 6).map fun i => (i + 1, m.payload.getD i 0#64)) ++ [(7, id.word)],
    masks := (List.range 8).map fun i => (i, BitVec.allOnes 256),
    alloc := r.regs, rowBase := r.rowBase + idx * r.rows, rows := r.rows, index := idx, pri := m.pri, part := r.part, job := r.job,
    lid := r.lid, lgen := r.lgen, header := if s.isFw core then some (m.dpart, m.lid, m.lgen) else none, phase := (l.map (·.phase)).getD 0, graph := l.bind (·.graph), ident := id,
    vtype := (l.map (·.vtype)).getD 0 % 32, fpctl := BitVec.ofNat 9 ((l.map (·.fpctl)).getD 0),
    srseed := BitVec.ofNat 32 (0x2545F491 ^^^ (core * 16) ^^^ n),
    super := ((s.job r.part r.job).map fun j => j.desc.super).getD 0#64 &&& 0x3FFFFFFFF#64,
    runAt := if (s.core core).halted then none else some s.clock, acqStamp := s.clock }

/-- The stream-table entries of a core as an end handler is dispatched: its stream's entry, while it is still of the launch, is ready for
the next (R89). -/
def endStream (m : InMsg) (streams : Tab StreamEnt) : Tab StreamEnt :=
  let i := (m.msg.payload.getD 1 0#64).toNat
  let e := streams.get {} i
  let n := m.bytes.getD 0
  if m.bytes.isSome && decide (n ≤ e.due) && (e.st == .bound || e.st == .active) && e.part == m.msg.dpart && e.lid == m.msg.lid && e.lgen == m.msg.lgen then
    streams.set i (e.ended n)
  else streams

/-- DISPATCH (R84 to R86, R89): the oldest H message whose launch has a place, else the oldest such L message. -/
def execDispatch (core : Nat) (s : State) : Out :=
  let k := s.core core
  let go := fun (q : List InMsg) => q.findSome? fun im => (s.dispatchable core im).map fun p => (im, p)
  match (go k.hq).orElse fun _ => go k.lq with
  | none => .next s
  | some (im, r, idx) =>
    let pc := (s.handlerOf core ⟨im.msg.dpart, im.msg.lid, im.msg.lgen⟩ im.msg.handler).getD 0
    .next (s.setCore core { k with hq := k.hq.erase im, lq := k.lq.erase im, streams := endStream im k.streams,
                                   ctxs := k.ctxs.set (r.spots.getD idx 0) (s.newCtx core r idx im pc) })

end Sys2Proof.Machine
end

