-- ==== Sys2Proof/Machine/Settle.lean ====
section
/-! DEFINITION. When the cause of a BLOCKED context has cleared (R87): the check that every step begins with. -/

namespace Sys2Proof.Machine

/-- Whether a walk still holds a request of a context; a posted one is let go once the walk waits for the memory master (R247). -/
def State.walkHolds (s : State) (core ctx tag : Nat) (posted : Bool) : Bool :=
  s.walks.any fun w => w.tag == tag && !(posted && w.st == .waiting)
    && (w.reqs.any fun r => r.asker == .ctx core ctx && r.posted == posted)

/-- Whether a rod is in a state that a RODWAIT waits for (R374). -/
def Rod.ready (r : Rod) : Bool :=
  match r.st with
  | .armed => false
  | .beamed => false
  | .sent => false
  | .done => !r.rearm
  | _ => true

/-- Whether any command of a context has been taken by an engine and not completed (R424). -/
def State.enginesBusy (s : State) (core ctx : Nat) : Bool :=
  let cl := s.cluster (clusterOf core)
  (cl.copies.any fun r => r.core == core && r.ctx == ctx && r.ls.isNone)
    || (cl.mx.any fun p => p.1 == core && p.2.ctx == ctx && p.2.ls.isNone)
    || ((s.core core).runs.any fun p => p.2.ctx == ctx)
    || (s.poc.any fun r => r.origin == .ctx core ctx && r.takes)
    || (s.getrs.any fun g => g.core == core && g.ctx == ctx)

/-- Whether nothing is left in the ports toward the engines. -/
def Ctx.portsIdle (x : Ctx) : Bool := x.q1.isEmpty && x.q2.isEmpty && x.q4.isEmpty && x.q6.isEmpty && x.q7.isEmpty

/-- Whether an engine, a request, an endpoint's bead or the side log still names a context. -/
def State.named (s : State) (core ctx : Nat) : Bool :=
  s.enginesBusy core ctx || ((s.core core).log.any fun e => e.ctx == ctx) || (s.poc.any fun r => r.origin == .ctx core ctx)
    || ((s.cluster (clusterOf core)).mx.any fun p => p.1 == core && p.2.ctx == ctx)
    || ((s.cluster (clusterOf core)).copies.any fun r => r.core == core && r.ctx == ctx)
    || (s.puts.any fun p => p.2.core == some core && p.2.ctx == ctx)

/-- Whether a context's ports have drained (R424): no message, no whole command and no request is left; words that no send or header
has completed stay, and a DEQW that waits in its unit is withdrawn. -/
def State.drained (s : State) (core ctx : Nat) : Bool :=
  let x := s.ctx core ctx
  let item := fun (i : Q0Item) => match i with
    | .send _ => true
    | .data _ => false
  let owed := fun (w : PeerWait) => match w.req with
    | .atomic c n _ _ _ => c == core && n == ctx
    | _ => false
  !s.enginesBusy core ctx && !(x.q0.any item) && (x.q1.all fun c => c.waiting.isSome || (wbits c.word 13 12 == 0 && c.item.isNone))
    && (wholeQ2 x.q2).isEmpty && (wholeQ4 x.q4).isEmpty && x.q6.isEmpty && (x.q7.all fun c => c.done.isSome) && !(s.waits.any owed)

/-- The rings that a matrix command reads, as ring, whether as A, and its KEEP bit (R307, R311); i is its core's number in the
cluster. -/
def mxReads (i : Nat) (h w : Word) : List (Nat × Bool × Bool) :=
  let a := (wbits h 26 24, true, wbit h 5)
  let b := (wbits h 29 27, false, wbit h 6)
  match wbits h 3 0 with
  | 1 => [a, b]
  | 2 => if wbits w 19 16 = i then [a, b] else [b]
  | 3 => [b]
  | 4 => [b]
  | 5 => [b]
  | _ => []

/-- Whether a taken command of a context reads a ring: one whose steps have not ended (R303), or any that has not completed (R292,
R302). -/
def State.ringRead (s : State) (core ctx n : Nat) : Bool :=
  (s.cluster (clusterOf core)).mx.any fun p => p.1 == core && p.2.ctx == ctx && p.2.done.isNone
    && (mxReads (core % 16) p.2.header (p.2.extra.headD 0#64)).any fun r => r.1 == n
@[inherit_doc State.ringRead] def State.ringTaken (s : State) (core ctx n : Nat) : Bool :=
  (s.cluster (clusterOf core)).mx.any fun p => p.1 == core && p.2.ctx == ctx
    && (mxReads (core % 16) p.2.header (p.2.extra.headD 0#64)).any fun r => r.1 == n

/-- The headers and destinations of whole queued copies. -/
def cpQueued : List (Word × Nat × Nat) → List (Word × Word)
  | h :: a :: b :: t =>
    if wbits h.1 63 60 = 0 ∨ 4 < wbits h.1 63 60 then cpQueued (a :: b :: t) else (h.1, b.1) :: cpQueued t
  | _ => []

/-- Whether a queued or taken copy of a context fills a ring (R302, R303). -/
def State.ringFilled (s : State) (core ctx n : Nat) : Bool :=
  let k := s.core core
  let fills := fun (h d : Word) => wbits h 63 60 == 3 && d.toNat % 8 == n
  ((cpQueued (wholeQ4 (k.ctx ctx).q4)).any fun p => fills p.1 p.2)
    || ((s.cluster (clusterOf core)).copies.any fun r => r.core == core && r.ring == some (ctx, n))
    || ((k.runs.filter fun p => p.2.ctx == ctx).any fun p => p.2.copyQ.any fun q => fills (q.2.headD 0#64) (q.2.getD 2 0#64))

/-- Whether T = F in a ring, or no taken command reads it (R303). -/
def State.ringFree (s : State) (core ctx n : Nat) (fill : Bool) : Bool :=
  if fill then (((s.core core).mx.get {} ctx).rings.find n).all fun g => g.t == g.f
  else !s.ringRead core ctx n

/-- Whether a cancelled level's counters have settled: nothing that is being cancelled is left of it (R64, R438). -/
def State.cancelSettled (s : State) (level part job id inst : Nat) : Bool :=
  match level with
  | 1 => !(s.launches.any fun l => l.key == ⟨part, id % 2 ^ 12, id / 2 ^ 12⟩ && l.cancelled)
  | 2 => !(s.graphs.any fun g => g.key == ⟨part, job, id⟩ && g.inst.any fun i => i.aborted.isSome && (inst == 0xFFFF || i.num == inst))
  | 3 => !(s.phases.any fun p => p.part == part && p.job == job && p.phase == id && p.cancelled)
  | _ => (s.job part job).all fun j => j.phases == 0

/-- Whether the cause of a BLOCKED context has cleared. A signal wait is evaluated again by the steps of R288. -/
def State.cleared (s : State) (core ctx : Nat) (x : Ctx) : Block → Bool
  | .pop q n => decide (n ≤ x.avail q)
  | .room q n => decide (n ≤ x.room q)
  | .walk tag => !s.walkHolds core ctx tag false
  | .walkPosted tag => !s.walkHolds core ctx tag true
  | .fill line => !((s.cluster (clusterOf core)).fills.contains line)
  | .answer => x.pend.all fun p => p.ans.isSome
  | .logFull => decide ((s.core core).log.length < 64)
  | .logPage page => !(s.core core).logged ctx page
  | .release scope => s.released core ctx scope (x.relAt.getD 0)
  | .ownReq lo hi => !s.ownPending core ctx lo hi
  | .signal _ => false
  | .event mask => decide ((s.core core).latch &&& mask ≠ 0#64)
  | .drain => s.drained core ctx
  | .saving => false
  | .backPressure => true
  | .flow d => !((s.flowsOf core).any fun f => isAtomicFlow d f && f.full)
  | .residency => true
  | .writeBack lines => !(s.poc.any fun r => r.origin == .cache (clusterOf core) && lines.any fun l => r.touches l l)
  | .rod r => (s.rod r).ready
  | .rekey => s.seals.cmd.isNone
  | .ring n fill => s.ringFree core ctx n fill
  | .acquire _ va => !s.postedLeft core ctx va
  | .puts => decide ((s.puts.filter fun p => p.2.core == some core).length < 16)
  | .cancelled level part job id inst => s.cancelSettled level part job id inst
  | .graph part job handle num => !(s.graphs.any fun g => g.key == ⟨part, job, handle⟩
      && g.inst.any fun i => i.num == num && i.startAt.isSome)

/-- A context whose cause has cleared is RUNNING again (R87); one that waited for a posted acquire has acquired (R341). -/
def State.wake (s : State) (core ctx : Nat) (x : Ctx) : Ctx :=
  if x.st = .blocked ∧ (x.why.any (s.cleared core ctx x)) = true ∧ (x.q1.any fun c => c.missed) = false then
    { x with st := .running, why := none,
             acqStamp := match x.why with
               | some (.acquire scope _) => s.acqTimeOf core x scope
               | _ => x.acqStamp }
  else x

/-- A core without what an ended task left there once nothing names it (R148). -/
def State.clearGhosts (s : State) (core : Nat) (k : Core) : Core :=
  let gone := fun (n : Nat) (x : Ctx) => decide (16 ≤ n) && x.portsIdle && !s.named core n
  if k.ctxs.any fun p => gone p.1 p.2 then
    { k with ctxs := k.ctxs.filter fun p => !gone p.1 p.2, mx := k.mx.filter fun p => !(k.ctxs.any fun q => q.1 == p.1 && gone q.1 q.2) }
  else k

/-- Every BLOCKED context whose cause has cleared runs again, and what ended tasks left is gone once it has ended. -/
def State.settle (s : State) : State :=
  { s with cores := s.cores.map fun c k => s.clearGhosts c { k with ctxs := k.ctxs.map fun n x => s.wake c n x } }

end Sys2Proof.Machine
end

