-- ==== Sys2Proof/Machine/Task.lean ====
section
/-! DEFINITION. Special registers read by SRD, the end of a task and what it leaves behind, the stream table and VCHAIN (R88, R89,
R125, R126, R147, R148, R164, R165, R217 to R220). -/

namespace Sys2Proof.Machine

/-- The assigned special registers, and those whose Access is RO (R125, R126, R29, R39, R184, R250, R407). -/
def specialKnown (n : Nat) : Bool := decide (n < 0x14) || [0x120, 0x121, 0x122, 0x130, 0x131, 0x132].contains n
@[inherit_doc specialKnown] def specialRO (n : Nat) : Bool :=
  [0x000, 0x001, 0x002, 0x003, 0x004, 0x005, 0x006, 0x00C, 0x00D, 0x00F, 0x010, 0x011, 0x012, 0x013].contains n

/-- NIDROP (R39). -/
def NiDrop.word (n : NiDrop) : Word :=
  wd (n.badkind + n.badpart * 2 ^ 10 + n.stale * 2 ^ 20 + n.badhandler * 2 ^ 30 + n.badstream * 2 ^ 40 + n.badtile * 2 ^ 50)

/-- SIDELOG (R250). -/
def Core.sidelog (k : Core) : Word :=
  let pend := ((List.range 16).filter fun c => k.log.any fun e => e.ctx % 16 == c).map fun c => 2 ^ (8 + c)
  wd (k.log.length % 128 + pend.sum)

/-- LAUNCH (R29). On a column core it delivers DPART, LID and LGEN of the message (R73). Mark: DESIGN CHOICE (log entry 113). -/
def Ctx.launchWord (x : Ctx) : Word :=
  let h := x.header.getD (x.part, x.lid, x.lgen)
  wd (h.2.1 + h.2.2 * 2 ^ 12 + h.1 * 2 ^ 16 + x.job * 2 ^ 24 + x.phase * 2 ^ 32
    + (match x.graph with
      | some h => h * 2 ^ 40 + 2 ^ 50
      | none => 0))

/-- The partition whose flag union a context's FLAGOR names; a context of a column core is in no partition, so that its read returns 0
and clears nothing (R73, R184). Mark: DESIGN CHOICE (log entry 91). -/
def State.flagPart (s : State) (core ctx : Nat) : Option Nat := if s.isFw core then none else some (s.ctx core ctx).part

/-- The value of a special register for a context of a core (R126, R29, R39, R184, R250, R407). -/
def State.special (s : State) (core ctx n : Nat) : Word :=
  let x := s.ctx core ctx
  match n with
  | 0x000 => wd (ctx % 16)
  | 0x001 => wd (x.ident.tile % 2 ^ 24 + (if x.ident.taddr then 2 ^ 24 else 0))
  | 0x002 => x.launchWord
  | 0x003 => wd (core + selfEp * 2 ^ 12)
  | 0x004 => wd s.clock
  | 0x005 => wd x.alloc
  | 0x006 => wd (x.rows + x.rowBase * 2 ^ 8)
  | 0x007 => wd x.vbase
  | 0x008 => wd x.vtype
  | 0x009 => wd x.fpctl.toNat
  | 0x00A => wd x.fpflags.toNat
  | 0x00B => wd x.srseed.toNat
  | 0x00C => wd Config.spWin
  | 0x00D => wd Config.stkWin
  | 0x00E => x.gbound
  | 0x00F => x.super
  | 0x010 => x.trapcause
  | 0x011 => x.trappc
  | 0x012 => x.trapaddr
  | 0x013 => x.trapctx
  | 0x120 => (s.core core).nidrop.word
  | 0x121 => match s.flagPart core ctx with
    | some p => wd (s.part p).flagor.toNat
    | none => 0#64
  | 0x122 => (s.core core).sidelog
  | 0x130 => wd x.tsel.toNat
  | 0x131 => x.tdata
  | 0x132 => wd (x.tcmd &&& 0x1DFFF#17).toNat
  | _ => 0#64

/-- A read of an RC register clears it (R7). -/
def State.clearRead (s : State) (core ctx n : Nat) : State :=
  match n with
  | 0x120 => s.modCore core fun k => { k with nidrop := {} }
  | 0x121 => match s.flagPart core ctx with
    | some p => s.modPart p fun q => { q with flagor := 0#5 }
    | none => s
  | _ => s

/-- A write to an RW register of R126, or the cause of the trap that an SWR of it takes (R412). -/
def Ctx.putSpecial (x : Ctx) (n : Nat) (v : Word) : Except Nat Ctx :=
  match n with
  | 0x007 => if x.rows = 0 then .error tRowbound else .ok { x with vbase := v.toNat % x.rows }
  | 0x008 => if isAny (v.toNat % 32) then .ok { x with vtype := v.toNat % 32 } else .error tIllegal
  | 0x009 => .ok { x with fpctl := v.setWidth 9 }
  | 0x00A => .ok { x with fpflags := v.setWidth 5 }
  | 0x00B => .ok { x with srseed := if v.setWidth 32 = 0#32 then 1#32 else v.setWidth 32 }
  | 0x00E => .ok { x with gbound := v &&& 0xC0000000FFFFFFFF#64 }
  | _ => .error tPriv

/-- The checks of R125. -/
def checkSpecial (n : Nat) (write : Bool) : M Unit := do
  guardM (decide (1024 ≤ n)) tIllegal
  if 0x200 ≤ n then needLevel .firmware else if 0x100 ≤ n then needLevel .supervisor else pure ()
  guardM (!specialKnown n) tIllegal
  guardM (write && specialRO n) tPriv

/-- SRD (R147). The ILLEGAL of an unassigned number comes with the other checks of R125, ahead of the operand checks of d, as PRIV does in
R109; the spec orders only PRIV. Mark: DESIGN CHOICE (log entry 92). -/
def execSrd (d sr : Nat) (s : State) : Out :=
  finish (do
    checkSpecial sr false
    let _ ← operands (.dst d) .none .none
    let s ← get
    set (s.clearRead s.cur.core s.cur.ctx sr)
    writeX d (s.special s.cur.core s.cur.ctx sr)) s

/-- The commands of a context that outlive its task: of q1 all but waiting dequeues, of q7 the requests with no result (R148). An ENQ
command word whose item word was never pushed is dropped with it, as is a q2 or q4 command of which words were never pushed. Mark: DESIGN CHOICE
(log entry 93). -/
def Ctx.residue (x : Ctx) : Ctx :=
  { st := .free, alloc := x.alloc, rowBase := x.rowBase, rows := x.rows, index := x.index, pri := x.pri, part := x.part,
    job := x.job, lid := x.lid, lgen := x.lgen, phase := x.phase, vbase := x.vbase, fpctl := x.fpctl, super := x.super,
    trapcause := x.trapcause, trappc := x.trappc, trapaddr := x.trapaddr, trapctx := x.trapctx, pseq := x.pseq,
    q1 := x.q1.filter fun c => wbits c.word 13 12 != 2 && !(wbits c.word 13 12 == 0 && c.item.isNone),
    q2 := wholeQ2 x.q2, q4 := wholeQ4 x.q4, q6 := x.q6,
    q7 := x.q7.filter fun c => c.done.isNone }

/-- The lowest number from 16 up that is congruent to a place and not in use: the name of what a task leaves behind. -/
def Core.ghost (k : Core) (ctx : Nat) : Nat :=
  let top := k.ctxs.foldl (fun m p => max m p.1) 0
  (top / 16 + 1) * 16 + ctx % 16

/-- A command stream renamed. -/
def Stream.rename (old new : Nat) : Stream → Stream
  | .ctx c => .ctx (if c = old then new else c)
  | .run r => .run r

/-- Everything that engines, requests and the side log hold for a context goes on under another number. -/
def State.renameCtx (s : State) (core old new : Nat) : State :=
  let s := s.modCore core fun k =>
    let mx := match k.mx.find old with
      | some m => (k.mx.del old).set new m
      | none => k.mx
    { k with mx := mx, runs := k.runs.map fun _ r => if r.ctx = old then { r with ctx := new } else r,
             log := k.log.map fun e => if e.ctx = old then { e with ctx := new } else e }
  let s := s.modCluster (clusterOf core) fun c =>
    { c with copies := c.copies.map fun r => if r.core = core ∧ r.ctx = old then
                 { r with ctx := new, ring := r.ring.map fun g => (new, g.2) } else r,
             mx := c.mx.map fun p =>
               if p.1 = core ∧ p.2.ctx = old then (p.1, { p.2 with ctx := new, stream := p.2.stream.rename old new }) else p,
             coops := c.coops.map fun _ o => { o with members := o.members.map fun m =>
               if m.1 = core then (m.1, m.2.rename old new) else m } }
  { s with poc := s.poc.map fun r => if r.origin = .ctx core old then { r with origin := .ctx core new } else r,
           getrs := s.getrs.map fun g => if g.core = core ∧ g.ctx = old then { g with ctx := new } else g,
           puts := s.puts.map fun p => if p.2.core = some core ∧ p.2.ctx = old then (p.1, { p.2 with ctx := new }) else p }

/-- What a task leaves behind goes on under a number of its own until it has ended (R148, R230). -/
def State.leaveBehind (s : State) (core ctx : Nat) : State :=
  let x := s.ctx core ctx
  if x.residue.portsIdle && !s.named core ctx then
    s.modCore core fun k => { k with mx := k.mx.del ctx, lsLast := k.lsLast.del ctx }
  else
    let g := (s.core core).ghost ctx
    let s := (s.renameCtx core ctx g).setCtx core g x.residue
    (s.modCore core fun k => { k with lsLast := k.lsLast.del ctx }).modCtx core ctx fun x => { x with left := some g }

/-- q0 without the staged words that no send follows (R148). -/
def sendsOf (l : List Q0Item) : List Q0Item :=
  (l.reverse.dropWhile fun i => match i with
    | .data _ => true
    | .send _ => false).reverse

/-- A task is over: it issues nothing more, its sends are still taken, and its context is FREE once they are acknowledged (R87,
R148). -/
def State.endTask (s : State) (core ctx : Nat) : State :=
  let s := s.leaveBehind core ctx
  let y := fun (x : Ctx) =>
    { x with st := .exiting, why := none, q0 := sendsOf x.q0, q1 := [], q1r := [], q2 := [], q3 := [], q4 := [], q5 := [], q5claim := 0,
             q6 := [], q7 := [], latch := [], pend := [], xans := [], masked := none, runAt := none, relAt := none, waitAt := none }
  ((s.modCtx core ctx y).sendCloses core).tryFree core ctx

/-- EXIT (R148). -/
def execExit (s : State) : Out :=
  finish (do
    modify fun s => s.endTask s.cur.core s.cur.ctx
    throw .ended) s

/-- The 40 bytes of a chain descriptor, read as a load, and what they say (R217, R219). -/
def loadChain (a : Word) (tainted : Bool) : M ChainDesc := do
  let w ← checkAccess a.toNat 40 8
  let b ← loadWin ((← getMe).stampFor tainted) w a.toNat 40
  match ChainDesc.parse b with
  | some c => return c
  | none => trapM tFmt

/-- VCHAIN (R219). The flags of popped words are raised with its own (R182). -/
def execVchain (d a n : Nat) (s : State) : Out :=
  finish (do
    let x ← getMe
    let v ← operandsRaw (.both d) (.src a) (.row n)
    let c ← loadChain v.a (x.tainted a)
    let outs := c.run (leBytes 256 (← readRow n).toNat)
    let bytes := (outs.map (·.1)).flatten
    let dst := v.d.toNat
    if dst % (laneBits c.otyp / 8) ≠ 0 then trapM tAlign v.d
    let s ← get
    if s.steer s.cur.core s.me dst bytes.length ≠ some .scratch then trapM tAperture v.d
    raiseWith ((List.range outs.length).zip (outs.map (·.2)))
    storeWin .scratch dst bytes
    writeX d (v.d + wd bytes.length)) s

/-- The entry word of the stream table (R88). -/
def StreamSt.code : StreamSt → Nat
  | .free => 0
  | .reserved => 1
  | .bound => 2
  | .active => 3

@[inherit_doc StreamSt.code]
def StreamEnt.word (e : StreamEnt) : Word :=
  wd (e.st.code + (if e.overrun then 4 else 0) + e.lid * 2 ^ 8 + e.lgen * 2 ^ 20 + e.endh * 2 ^ 24 + e.bytes % 2 ^ 32 * 2 ^ 32)

/-- Whether an entry belongs to a context's launch. -/
def StreamEnt.ownedBy (e : StreamEnt) (x : Ctx) : Bool := e.part == x.part && e.lid == x.lid && e.lgen == x.lgen

/-- STBIND (R164): its checks come before x[d] is written, so ahead of a seventh staged word. -/
def execStbind (d a b : Nat) (s : State) : Out :=
  finish (do
    let x0 ← getMe
    let v ← operandsLate (.dst d) (.src a) (.src b)
    raiseWith []
    let base := wbits v.a 39 16
    let len := wbits v.a 63 40
    let at_ := wd (Config.spWin + base)
    if base % 8 ≠ 0 ∨ len % 8 ≠ 0 ∨ len = 0 then trapM tAlign at_
    let s ← get
    if (s.resvOf s.cur.core s.me).spBytes < base + len then trapM tAperture at_
    let c ← loadChain v.b (x0.tainted b)
    needStage [.dst d]
    let s ← get
    let x := s.me
    let i := wbits v.a 3 0
    let endh := wbits v.a 9 4
    let e := s.myCore.streams.get {} i
    if e.st = .bound ∨ e.st = .active then writeX d 1#64
    else if e.st = .reserved ∧ e.ownedBy x = false then writeX d 2#64
    else if (s.handlerOf s.cur.core x.lkey endh).isNone then writeX d 3#64
    else
      let n : StreamEnt := { st := .bound, part := x.part, lid := x.lid, lgen := x.lgen, endh := endh, gang := e.gang, chain := some c,
                             wbase := base, wlen := len }
      modify fun s => s.modMyCore fun k => { k with streams := k.streams.set i n }
      writeX d 0#64) s

/-- An entry after STFREE: free again, or reserved to the pipe (R89, R165). -/
def StreamEnt.freed (e : StreamEnt) : StreamEnt :=
  if e.gang then { st := .reserved, part := e.part, lid := e.lid, lgen := e.lgen, gang := true } else {}

/-- STFREE (R165). -/
def execStfree (d a : Nat) (s : State) : Out :=
  finish (do
    let v ← operands (.dst d) (.src a) .none
    let s ← get
    let i := v.a.toNat % 16
    let e := s.myCore.streams.get {} i
    if (e.st = .bound ∨ e.st = .active) ∧ e.ownedBy s.me = true then
      modify fun s => s.modMyCore fun k => { k with streams := k.streams.set i e.freed }
    writeX d e.word) s

end Sys2Proof.Machine
end

