-- ==== Sys2Proof/Machine/Units.lean ====
section
/-! DEFINITION. How units other than a context reach memory: ranges translated page by page, read, and written at the points of
coherence; and the signal actions that the machine makes on its own account (R52, R58, R245, R257, R267, R282, R460). -/

namespace Sys2Proof.Machine

/-- Bytes of one piece on their way to their seal engines, whole aligned tiles as full-tile writes; a peer receives stores (R257,
R282, R364). -/
def State.askWrites (o : Origin) (part job die : Nat) : Nat → Nat → Nat → List Byte → State → State
  | 0, _, _, _, s => s
  | fuel + 1, va, pa, data, s =>
    match data with
    | [] => s
    | _ =>
      let k := 4096 - pa % 4096
      let now := data.take k
      let s := match paKind pa with
        | .peer _ => match s.reachPeer pa with
          | none => s
          | some p => (runsOf (cellsAt pa now)).foldl (fun s r =>
              s.emit die p.ep (.store part (peerAddr ((r.head?.map (·.1)).getD 0)) (r.map (·.2)))) s
        | .sealed => (s.ask o part job pa va (if now.length = 4096 then .full now else .write (cellsAt pa now)) false).2
        | _ => (s.ask o part job pa va (.write (cellsAt pa now)) false).2
      State.askWrites o part job die fuel (va + now.length) (pa + now.length) (data.drop k) s

/-- Bytes written by a unit over pieces that it has translated. -/
def State.writePieces (o : Origin) (part job die : Nat) : List (Nat × Nat × Nat) → List Byte → State → State
  | [], _, s => s
  | p :: t, data, s =>
    State.writePieces o part job die t (data.drop p.2.2)
      (State.askWrites o part job die (p.2.2 / 4096 + 2) p.1 p.2.1 (data.take p.2.2) s)

/-- Whether requests of a unit are still on their way. -/
def State.asking (s : State) (o : Origin) : Bool := s.poc.any fun r => r.origin == o

/-- The levels that make signal actions (R460). -/
inductive SigLevel where
  | packet | launch | graph | xall | run | phase | job
  deriving DecidableEq, Repr

def SigLevel.code : SigLevel → Nat
  | .packet => 0
  | .launch => 1
  | .graph => 2
  | .xall => 3
  | .run => 4
  | .phase => 5
  | .job => 6

/-- EVENT SIGLOST (R460): cause 1 translation, 2 not device memory, 3 seal. -/
def State.sigLost (s : State) (die part job : Nat) (lvl : SigLevel) (va : Nat) (neg : Bool) (amount w3 cause : Nat) : State :=
  s.event roleFault (some die) part die
    [wd (0x42 + part * 2 ^ 10 + job * 2 ^ 15 + lvl.code * 2 ^ 21 + cause * 2 ^ 24), wd va,
     wd (if neg then 2 ^ 64 - 1 else amount), wd w3, 0#64, 0#64]

/-- The outcome of a signal action: made, lost, or waiting for the memory master. -/
inductive SigRes where
  | done | lost | wait
  deriving DecidableEq, Repr

/-- A signal action that the machine makes on its own account, which waits for the memory master and at its tile; an address of zero names no signal (R52, R57, R460). -/
def State.sigAct (s : State) (name die part job : Nat) (lvl : SigLevel) (va : Nat) (neg : Bool) (amount w3 : Nat) : SigRes × State :=
  if va = 0 then (.done, s)
  else
    let lost := fun (s : State) (c : Nat) => (SigRes.lost, s.sigLost die part job lvl va neg amount w3 c)
    match s.takeSigEnd name va neg with
    | some (true, s) => (.done, s)
    | some (false, s) => lost s 3
    | none => match s.unitXlate name die none part job va 3 with
      | (.wait, s) => (.wait, s)
      | (.fail _, s) => lost s 1
      | (.ok e, s) =>
        if paKind (e.phys va) ≠ .sealed then lost s 2
        else match s.signalFor name part job va (e.phys va) neg amount with
          | (none, s) => (.wait, s)
          | (some true, s) => (.done, s)
          | (some false, s) => lost s 3

/-- Whether an address can name a signal: 8-byte aligned and in the global window (R50, R57). -/
def signalAddr (va : Nat) : Bool := decide (va % 8 = 0) && inGlobal va

/-- Whether everything the cores of some clusters did for a partition is visible at pod scope: nothing dirty, logged or on its way
(R52, R330, R341). -/
def State.podReleased (s : State) (part : Nat) (clusters : List Nat) : Bool :=
  clusters.all fun c =>
    !((s.cluster c).cache.any fun p => decide (p.2.dirty ≠ 0#64) && p.2.part == part)
      && !(s.poc.any fun r => r.origin.cluster? == some c && r.part == part)

end Sys2Proof.Machine
end

