-- ==== Sys2Proof/Machine/Queues.lean ====
section
/-! DEFINITION. Command and work queues: their entries, residency, kicks and control writes, reading packets, and the work-queue unit
(R40 to R47, R49, R50, R65, R68, R159 to R163, R441). -/

namespace Sys2Proof.Machine

def State.queue (s : State) (k : QKey) : Option RQueue := s.queues.find? fun q => q.key == k
def State.modQueue (s : State) (k : QKey) (f : RQueue → RQueue) : State :=
  { s with queues := s.queues.map fun q => if q.key == k then f q else q }

/-- The name of a queue's front end or unit for its walks. -/
def queueName (k : QKey) : Nat := unitName 4 (k.part * 2 ^ 20 + k.job * 2 ^ 12 + k.handle)

/-- The job that a notify page reaches: live, of the generation it was mapped for, and not closed (R47, R75). -/
def State.openJob (s : State) (part job jgen : Nat) : Option Job :=
  (s.job part job).filter fun j => j.desc.jgen == jgen && !j.closed && !j.cancelled

/-- The job descriptor's 64 bytes (R74). -/
def JobDesc.bytes (d : JobDesc) : List Byte :=
  leBytes 1 d.job ++ leBytes 1 d.jgen ++ leBytes 2 d.qtlen ++ leBytes 1 d.floor ++ leBytes 1 d.part ++ leBytes 2 0
    ++ leBytes 8 d.super.toNat ++ leBytes 8 d.qtab ++ leBytes 8 d.phsig ++ leBytes 8 d.ovfpool ++ leBytes 8 d.ovflen
    ++ leBytes 8 d.s1root ++ leBytes 8 d.jobsig

/-- A job's descriptor read again from its bytes; its names stay (R74). -/
def State.reread (s : State) (part job : Nat) : State :=
  { s with jobs := s.jobs.map fun j =>
      if j.desc.part = part ∧ j.desc.job = job then
        match s.readPoc j.addr 64 with
        | none => j
        | some b => { j with desc := { j.desc with
            qtlen := fieldAt b 2 2, floor := byteAt b 4 % 4, super := wd (fieldAt b 8 8), qtab := fieldAt b 16 8,
            phsig := fieldAt b 24 8, ovfpool := fieldAt b 32 8, ovflen := fieldAt b 40 8, s1root := fieldAt b 48 8,
            jobsig := fieldAt b 56 8 } }
      else j }

/-- A queue-table entry read by a unit of a name (R40): its physical address and its 64 bytes, with what the front ends have written there and is still on its
way. -/
def State.readEntryAs (s : State) (name : Nat) (k : QKey) (j : Job) (die : Nat) : URes (Nat × List Byte) × State :=
  let va := j.desc.qtab + 64 * k.handle
  match s.unitXlate name die none k.part k.job va 3 with
  | (.wait, s) => (.wait, s)
  | (.fail c, s) => (.fail (statusOf c), s)
  | (.ok e, s) => match s.readOwn (e.phys va) 64 with
    | some b => (.ok (e.phys va, b), s)
    | none => (.fail stSeal, s.noteLost k.part (e.phys va))

@[inherit_doc State.readEntryAs]
def State.readEntry (s : State) (k : QKey) (j : Job) (die : Nat) : URes (Nat × List Byte) × State := s.readEntryAs (queueName k) k j die

/-- KIND of an entry, whether the entry may be made resident, and whether any access to it raises BADENTRY: one that is not free and may
not be (R40, R41). -/
def entryKind (b : List Byte) : Nat := byteAt b 0 % 4
@[inherit_doc entryKind] def entryGood (b : List Byte) : Bool :=
  let n := byteAt b 2
  (entryKind b == 1 && decide (4 ≤ n) && decide (n ≤ 16)) || (entryKind b == 2 && decide (6 ≤ n) && decide (n ≤ 20))
@[inherit_doc entryKind] def entryBad (b : List Byte) : Bool := entryKind b != 0 && !entryGood b

/-- Bytes of a queue's entry or ring written by the front end. -/
def State.putEntry (s : State) (part pa : Nat) (b : List Byte) : State := s.writePoc pa part b 8

/-- The kinds of access to a queue that is not resident (R42): a kick, a control write, a work command by its OP, and a swap-in of an entry
that cannot be made resident. -/
inductive MissKind where
  | kick | ctrl
  | work (op : Nat)
  | swapIn
  deriving DecidableEq, Repr

def MissKind.code : MissKind → Nat
  | .work op => op % 4
  | .kick => 4
  | .ctrl => 5
  | .swapIn => 6

/-- The queue-miss event to the scheduler core of the entry's HOMEDIE (R41, R42). It carries the job, the handle, the kind of access and
whether the entry is bad; the words that hold them are free values, since no layout is given (log entry 41). -/
def State.queueMiss (s : State) (k : QKey) (b : List Byte) (kind : MissKind) : State :=
  let die := byteAt b 3 % 4
  s.event roleSched (some die) k.part die
    ((List.range 6).map (Config.queueMissWord k.job k.handle kind.code (entryBad b)))

/-- RESUME and STOP of a queue (R65). -/
def RQueue.resume (q : RQueue) : RQueue :=
  if q.st = .aborted ∨ q.st = .stopped then
    { q with reason := 0, st := if q.kmax ≤ q.ridx ∧ q.ready = [] then .idle else .running }
  else q
@[inherit_doc RQueue.resume] def RQueue.stop (q : RQueue) : RQueue := { q with st := .stopped }

/-- A kick of a resident queue (R44, R46). -/
def RQueue.kick (q : RQueue) (k now : Nat) : RQueue :=
  let n := kicked q.kmax k
  { q with kmax := n, pollAt := q.pollAt.map fun t => min t now, st := if q.st = .idle ∧ q.ridx < n then .running else q.st }

/-- What a write to the registers of a resident queue does: CMD 0 and 3 do nothing (R46, R47, R65). -/
def NoticeOp.act (op : NoticeOp) (now : Nat) (q : RQueue) : RQueue :=
  match op with
  | .kick k => q.kick k now
  | .ctrl 1 => q.resume
  | .ctrl 2 => q.stop
  | .ctrl _ => q

/-- What a write to the registers of a queue that is not resident does to its entry, and its kind of access (R42). It is one operation at the
entry's tile; where writes to that wait, it waits there too, and finds what has been written by then (R257, R259). -/
def NoticeOp.record (op : NoticeOp) (part pa : Nat) (b : List Byte) (s : State) : State :=
  let waits := paKind pa == .sealed && s.writeWaits (tileOf pa)
  match op with
  | .kick k => if waits then s.askPlain part (pa + 16) (.kmax k) else s.putEntry part (pa + 16) (leBytes 8 (kicked (fieldAt b 16 8) k))
  | .ctrl c => if waits then s.askPlain part (pa + 50) (.ctrl c) else s.putEntry part (pa + 50) (leBytes 1 (ctrlled (byteAt b 50) c))
@[inherit_doc NoticeOp.record] def NoticeOp.kind : NoticeOp → MissKind
  | .kick _ => .kick
  | .ctrl _ => .ctrl

def Notice.key (n : Notice) : QKey := ⟨n.part, n.job, n.handle⟩

/-- A write to a command queue's register takes effect (R42, R46, R47). True while its entry's translation waits. -/
def State.notifyNow (s : State) (n : Notice) : Bool × State :=
  match s.openJob n.part n.job n.jgen with
  | none => (false, s)
  | some j =>
    if j.desc.qtlen ≤ n.handle then (false, s)
    else match s.queue n.key with
      | some q => (false, if q.work then s else s.modQueue n.key (n.op.act s.clock))
      | none => match s.readEntry n.key j 0 with
        | (.wait, s) => (true, s)
        | (.fail _, s) => (false, s)
        | (.ok (pa, b), s) =>
          let s' := if entryKind b = 1 then n.op.record n.part pa b s else s
          (false, if entryKind b = 1 ∨ entryBad b = true then s'.queueMiss n.key b n.op.kind else s)

/-- A write to a command queue's register; one that waits is kept, and those after it to the same queue wait behind it (R42). -/
def State.notify (s : State) (n : Notice) : State :=
  if s.notices.any fun o => o.key == n.key then { s with notices := s.notices ++ [n] }
  else match s.notifyNow n with
    | (true, s) => { s with notices := s.notices ++ [n] }
    | (false, s) => s

/-- Kicks and control writes that wait are tried again (R42). -/
def State.dueNotices (s : State) : State := s.notices.foldl State.notify { s with notices := [] }

/-- KICK (R46, R42): only a write of 8 bytes to a command queue's register acts. -/
def execKick (part job jgen handle size : Nat) (k : Word) (s : State) : Out :=
  stepIf (size == 8) (fun s => s.notify ⟨part, job, jgen, handle, .kick k.toNat⟩) s

/-- CTRL_RESUME (R65): a write of the whole register with CMD 1. -/
def execCtrlResume (part job jgen handle : Nat) (s : State) : Out := .next (s.notify ⟨part, job, jgen, handle, .ctrl 1⟩)

/-- CTRL_STOP (R65): a write of the whole register with CMD 2. -/
def execCtrlStop (part job jgen handle : Nat) (s : State) : Out := .next (s.notify ⟨part, job, jgen, handle, .ctrl 2⟩)

/-- The fields of a packet header (R48). -/
def pktType (b : List Byte) : Nat := byteAt b 0
@[inherit_doc pktType] def pktBarrier (b : List Byte) : Bool := byteAt b 1 % 2 == 1
@[inherit_doc pktType] def pktPhaseEnd (b : List Byte) : Bool := byteAt b 1 / 2 % 2 == 1
@[inherit_doc pktType] def pktPhase (b : List Byte) : Nat := byteAt b 2
@[inherit_doc pktType] def pktVal (b : List Byte) : Nat := fieldAt b 4 4
@[inherit_doc pktType] def pktSig (b : List Byte) : Nat := fieldAt b 8 8

/-- Whether the packets read so far are a gang that lacks members (R66); a LAUNCH with a GANGN that is out of range is malformed by itself
(R54). -/
def collectingGang (ready : List ReadPkt) : Bool :=
  match ready with
  | [] => false
  | p :: _ =>
    let g := byteAt p.bytes 56
    pktType p.bytes == 1 && g != 0 && decide (2 ≤ byteAt p.bytes 57) && decide (byteAt p.bytes 57 ≤ 16)
      && (ready.all fun r => pktType r.bytes == 1 && byteAt r.bytes 56 == g && byteAt r.bytes 57 == byteAt p.bytes 57)
      && decide (ready.length < byteAt p.bytes 57)
@[inherit_doc collectingGang] def RQueue.collecting (q : RQueue) : Bool := collectingGang q.ready

/-- A packet type, or its flag, that lets no later packet start while it is incomplete (R51). -/
def pktBars (b : List Byte) : Bool := pktBarrier b || [4, 6, 9].contains (pktType b)

/-- Whether a packet of a queue has not yet counted as started: a LAUNCH whose seeds have not all been sent, a GRAPH whose instance
waits for its block, or an XALL that waits for a layout-map engine or its spacing (R387, R396, R439). -/
def State.starting (s : State) (r : RunPkt) : Bool :=
  (!r.begun && [1, 7, 8].contains (pktType r.bytes))
    || (s.xalls.any fun x => x.owner == .packet r.id && !x.started && !x.failed)

/-- Whether a job is being saved or is saved: its queues start no packets (R422). -/
def State.jobSaved (s : State) (part job : Nat) : Bool := s.saves.any fun v => v.part == part && v.job == job && !v.void

/-- Whether an identifier may be used now: none when it is in use, false while it is in quarantine (R32, R434). Within 2 ms of its last
freeing only the generation after the freed one may be used. -/
def State.lidFree (s : State) (key : LKey) : Option Bool :=
  let taken := fun (o : LKey) => o.part == key.part && o.lid == key.lid
  if (s.launches.any fun l => taken l.key) || s.placing.any fun p => p.launches.any fun l => taken l.1 then none
  else some (match (s.freed.filter fun f => !f.job && f.part == key.part && f.id == key.lid).getLast? with
    | none => true
    | some f => decide (f.time + Config.ms 2 ≤ s.clock) || key.lgen == (f.gen + 1) % 16)

/-- Whether the LAUNCH packets at a queue's head wait for a resource or for the quarantine of an identifier (R32, R65). -/
def State.lacking (s : State) (q : RQueue) : Bool :=
  q.short || q.ready.any fun p => pktType p.bytes == 1
    && s.lidFree ⟨q.key.part, fieldAt p.bytes 36 2 % 2 ^ 12, fieldAt p.bytes 36 2 / 2 ^ 12⟩ == some false

/-- Whether the front ends are stopped for a partition: by a graceful warm reset, or while the partition's reset goes on (R420, R421, R452). -/
def State.frontStopped (s : State) (part : Nat) : Bool := s.board.graceful.isSome || s.resets.any fun r => r.part == part

/-- Whether R51 lets the packet at the head of a queue start: a FENCE waits for every earlier packet, and a GRAPH for an active
instance of its handle (R384). -/
def State.mayStart (s : State) (q : RQueue) : Bool :=
  match q.ready with
  | [] => false
  | p :: _ =>
    let mine := s.running.filter fun r => r.key == q.key
    let name := queueName q.key
    let waits := s.walks.any fun w => w.st == .waiting && w.reqs.any fun r => r.asker == .unit name
    let busy := pktType p.bytes == 7 && s.graphs.any fun g =>
      g.key == ⟨q.key.part, q.key.job, fieldAt p.bytes 16 2 % 2 ^ 10⟩ && g.inst.isSome
    !s.frontStopped q.key.part && !s.jobSaved q.key.part q.key.job && q.st != .aborted && q.st != .stopped && !q.collecting && !waits && !busy
      && !s.lacking q && !(mine.any fun r => pktBars r.bytes || s.starting r) && (pktType p.bytes != 6 || mine.isEmpty)

/-- The state of a queue as STATUS and QSTATE show it (R65): BLOCKED while its next packet cannot start, a gang is collected,
resources are short or a slot is unpublished. -/
def State.shown (s : State) (q : RQueue) : QSt :=
  match q.st with
  | .aborted => .aborted
  | .stopped => .stopped
  | _ =>
    let begins := s.running.any fun r => r.key == q.key && pktType r.bytes != 1 && s.starting r
    if q.ready = [] then (if q.pollAt.isSome || begins then .blocked else if q.kmax ≤ q.ridx then .idle else .running)
    else if q.granted || !s.mayStart q then .blocked else .running

/-- QSTATE of a queue as it is written back, with no control command pending (R40). -/
def State.qstate (s : State) (q : RQueue) : Nat :=
  (s.shown q).code + q.reason * 2 ^ 8 + (if q.recorded then 2 ^ 18 else 0) + q.fseq % 2 ^ 32 * 2 ^ 32

/-- A DEQW that waits in the unit, by core and context, with its arrival number, for a queue (R161). -/
def State.waiters (s : State) (k : QKey) : List (Nat × Nat × Nat) :=
  s.cores.flatMap fun p => p.2.ctxs.filterMap fun c =>
    match c.2.q1.head? with
    | some w =>
      if c.2.part = k.part ∧ c.2.job = k.job ∧ wbits w.word 11 0 = k.handle then w.waiting.map fun n => (p.1, c.1, n) else none
    | none => none

/-- STATUS of a handle of a job as a notify page reads it (R47, R75); none while its entry's translation waits. An entry that cannot be
read names no queue. Mark: DESIGN CHOICE (log entry 46). -/
def State.statusWord (s : State) (part job jgen handle : Nat) : Option Word × State :=
  let noq : Word := 16#64
  let word := fun (st reason ridx resident : Nat) => wd (st % 8 + resident * 2 ^ 3 + reason % 2 ^ 8 * 2 ^ 8 + ridx % 2 ^ 48 * 2 ^ 16)
  match s.openJob part job jgen with
  | none => (some 0#64, s)
  | some j =>
    let key : QKey := ⟨part, job, handle⟩
    if j.desc.qtlen ≤ handle then (some noq, s)
    else match s.queue key with
      | some q => (some (if q.work then noq else word (s.shown q).code q.reason q.ridx 1), s)
      | none => match s.readEntry key j 0 with
        | (.wait, s) => (none, s)
        | (.fail _, s) => (some noq, s)
        | (.ok (_, b), s) => (some (if entryKind b = 1 then word (byteAt b 48 % 8) (byteAt b 49) (fieldAt b 24 8) 0 else noq), s)

/-- The 8-byte register at an offset of a job's notify pages as it reads, the handle by its page (R47); none while it waits. -/
def State.notifyReg (s : State) (part job jgen off : Nat) : Option Word × State :=
  let o := off % 4096
  if 0x200 ≤ o ∧ o < 0x400 then s.statusWord part job jgen (off / 4096 * 64 + (o - 0x200) / 8) else (some 0#64, s)

/-- The registers of n places of 8 bytes in turn. -/
def State.notifyRegs (part job jgen : Nat) : Nat → Nat → State → Option (List Byte) × State
  | 0, _, s => (some [], s)
  | n + 1, off, s => match s.notifyReg part job jgen off with
    | (none, s) => (none, s)
    | (some w, s) => match State.notifyRegs part job jgen n (off + 8) s with
      | (none, s) => (none, s)
      | (some l, s) => (some (leBytes 8 w.toNat ++ l), s)

/-- A read of a job's notify pages: each byte as it reads in the register that holds it (R47). -/
def State.notifyRead (s : State) (part job jgen off len : Nat) : Option (List Byte) × State :=
  match State.notifyRegs part job jgen ((off % 8 + len + 7) / 8) (off / 8 * 8) s with
  | (none, s) => (none, s)
  | (some b, s) => (some ((b.drop (off % 8)).take len), s)

/-- A write to a job's notify pages: it acts only on exactly one register that can be written (R47). -/
def State.notifyWrite (s : State) (part job jgen off : Nat) (data : List Byte) : State :=
  let o := off % 4096
  let handle := off / 4096 * 64 + o % 0x200 / 8
  if off % 8 ≠ 0 ∨ data.length ≠ 8 then s
  else if o < 0x200 then s.notify ⟨part, job, jgen, handle, .kick (leNat data)⟩
  else if 0x400 ≤ o ∧ o < 0x600 ∧ (leNat data % 4 = 1 ∨ leNat data % 4 = 2) then
    s.notify ⟨part, job, jgen, handle, .ctrl (leNat data % 4)⟩
  else s

/-- A queue leaves the front end: KMAX, RIDX and QSTATE are written back (R41). What software has written to those three meanwhile is lost,
and what it has written to the other fields is applied at the next swap-in. Mark: DESIGN CHOICE (log entry 103). -/
def State.swapOut (s : State) (q : RQueue) : State :=
  let s := s.putEntry q.key.part (q.entry + 16) (leBytes 8 q.kmax ++ leBytes 8 q.ridx)
  let s := s.putEntry q.key.part (q.entry + 48) (leBytes 8 (s.qstate q))
  { s with queues := s.queues.filter fun o => o.key != q.key,
           readAhead := if q.ready = [] then s.readAhead else s.readAhead ++ [(q.key, q.ready)] }

/-- The response words of a command enter q1; those of a task that has ended are discarded (R148, R160, R161). -/
def State.wqRespond (s : State) (core ctx : Nat) (words : List Word) : State :=
  if 16 ≤ ctx then s.modCtx core ctx fun x => { x with q1 := x.q1.drop 1 }
  else s.modCtx core ctx fun x => { x with q1 := x.q1.drop 1, q1r := x.q1r ++ words }

/-- The status word of a response (R161). -/
def wqStatus (status op count log2 : Nat) : Word := wd (status + op * 2 ^ 12 + count % 2 ^ 21 * 2 ^ 32 + log2 % 32 * 2 ^ 56)

/-- The commands that wait for a queue to be made resident, by core, context and OP (R162). -/
def State.missers (s : State) (k : QKey) : List (Nat × Nat × Nat) :=
  s.cores.flatMap fun p => p.2.ctxs.filterMap fun c =>
    match c.2.q1.head? with
    | some w =>
      if c.2.part = k.part ∧ c.2.job = k.job ∧ wbits w.word 11 0 = k.handle ∧ w.missed = true then some (p.1, c.1, wbits w.word 13 12) else none
    | none => none

/-- Response words of an operation: DEQ and DEQW have an item word (R160, R161). -/
def wqWordsOf (op : Nat) (w item : Word) : List Word := if op = 1 ∨ op = 2 then [w, item] else [w]

/-- QUEUE_SWAP_OUT (R41, R162): every DEQW waiting on the queue completes with EVICTED. Of a queue that is not resident, it is the
scheduler's refusal to make it so: the commands that wait for it complete with BADHANDLE. Mark: DESIGN CHOICE (log entry 104). -/
def execQueueSwapOut (key : QKey) (s : State) : Out :=
  match s.queue key with
  | none => .next ((s.missers key).foldl (fun s w => s.wqRespond w.1 w.2.1 (wqWordsOf w.2.2 (wqStatus 3 w.2.2 0 0) 0#64)) s)
  | some q => .next ((s.waiters key).foldl (fun s w => s.wqRespond w.1 w.2.1 [wqStatus 4 2 0 0, 0#64]) (s.swapOut q))

/-- Misses of a queue's work commands are over. -/
def State.clearMisses (s : State) (k : QKey) : State :=
  let f := fun (x : Ctx) => if x.part = k.part ∧ x.job = k.job then
      { x with q1 := x.q1.map fun c => if wbits c.word 11 0 = k.handle then { c with missed := false } else c } else x
  { s with cores := s.cores.map fun _ c => { c with ctxs := c.ctxs.map fun _ x => f x } }

/-- The queue that an entry describes, with a control command that waited (R40, R42, R69). FENCEREC is the one that stands in the entry at
the swap-in: a change of it while the queue is resident is seen at the next. Mark: DESIGN CHOICE (log entry 103). -/
def queueOf (key : QKey) (floor pa : Nat) (b : List Byte) (ready : List ReadPkt) : RQueue :=
  let qs := fieldAt b 48 8
  let kmax := fieldAt b 16 8
  let ridx := fieldAt b 24 8
  let st := match QSt.decode (qs % 8) with
    | .aborted => QSt.aborted
    | .stopped => .stopped
    | _ => if kmax ≤ ridx ∧ ready = [] then .idle else .running
  let q : RQueue := { key := key, die := byteAt b 3 % 4, work := entryKind b == 2, cls := max (byteAt b 0 / 4 % 4) floor,
                      weight := max 1 (byteAt b 1), log2 := byteAt b 2, base := fieldAt b 8 8, fencerec := fieldAt b 40 8,
                      entry := pa, kmax := kmax, ridx := ridx, st := st, reason := qs / 2 ^ 8 % 2 ^ 8,
                      recorded := decide (qs / 2 ^ 18 % 2 = 1), fseq := qs / 2 ^ 32, ready := ready }
  if q.work then { q with st := .idle }
  else match qs / 2 ^ 16 % 4 with
    | 1 => q.resume
    | 2 => q.stop
    | _ => q

/-- A command queue of a job that is not resident changed in its entry (R40); an entry that cannot be read stays as it is. -/
def State.modEntry (s : State) (j : Job) (handle : Nat) (f : State → RQueue → RQueue) : State :=
  let key : QKey := ⟨j.desc.part, j.desc.job, handle⟩
  if (s.queue key).isSome then s
  else match s.xlate key.part key.job (j.desc.qtab + 64 * handle) 3 with
    | .ok e =>
      let pa := e.phys (j.desc.qtab + 64 * handle)
      match s.readOwn pa 64 with
      | some b => if entryKind b = 1 then s.swapOut (f s (queueOf key 0 pa b [])) else s
      | none => s
    | _ => s

/-- Every command queue of a job that is not resident changed in its entry. -/
def State.modEntries (s : State) (j : Job) (f : State → RQueue → RQueue) : State :=
  (List.range j.desc.qtlen).foldl (fun s h => s.modEntry j h f) s

/-- QUEUE_SWAP_IN (R41, R42): a queue becomes resident in a free place of its die, or in that of a queue that may be evicted. -/
def execQueueSwapIn (key : QKey) (evict : Option QKey) (s : State) : Out :=
  match s.job key.part key.job, s.queue key with
  | some _, none =>
    let s := s.reread key.part key.job
    match s.job key.part key.job with
    | none => .next s
    | some j =>
      if j.desc.qtlen ≤ key.handle || s.frontStopped key.part then .next s
      else match s.readEntry key j 0 with
        | (.ok (pa, b), s) =>
          let die := byteAt b 3 % 4
          let victim := evict.bind fun k => (s.queue k).filter fun q => q.die == die && (s.waiters q.key).isEmpty
          let full := decide (512 ≤ (s.queues.filter fun q => q.die == die).length)
          if !entryGood b then .next (s.queueMiss key b .swapIn)
          else if full && victim.isNone then .next s
          else
            let s := match full, victim with
              | true, some q => s.swapOut q
              | _, _ => s
            let ready := ((s.readAhead.find? fun r => r.1 == key).map (·.2)).getD []
            let n := queueOf key j.desc.floor pa b ready
            let n := if j.cancelled && !n.work then { n with st := .aborted, reason := 6 } else n
            .next ({ s with queues := s.queues ++ [n],
                            readAhead := s.readAhead.filter fun r => r.1 != key }.clearMisses key)
        | (_, s) => .next s
  | _, _ => .next s

/-- An abort cause (R65): a STOP that came with it keeps the queue stopped, as does one that came before it; REASON is that of the cause.
Mark: DESIGN CHOICE for the latter (log entry 105). -/
def RQueue.abort (q : RQueue) (reason : Nat) : RQueue :=
  { q with reason := reason, st := if q.st = .stopped then .stopped else .aborted, granted := false, pollAt := none }

/-- The signal of a packet that is consumed without starting is set negative, none while that waits: of one that is skipped as R460 gives, of
a malformed one where it can be and unchanged elsewhere (R50, R436, R441, R460). -/
def State.failSig (s : State) (k : QKey) (die : Nat) (skip : Bool) (b : List Byte) : Option State × State :=
  let va := pktSig b
  if va = 0 ∨ signalAddr va = false then (some s, s)
  else if skip then match s.sigAct (queueName k) die k.part k.job .packet va true 0 k.handle with
    | (.wait, s) => (none, s)
    | (_, s) => (some s, s)
  else
    let made := fun (s : State) (ok : Bool) =>
      let t := if ok then s else s.sigLost die k.part k.job .packet va true 0 k.handle 3
      (some t, t)
    match s.takeSigEnd (queueName k) va true with
    | some (ok, s) => made s ok
    | none => match s.unitXlate (queueName k) die none k.part k.job va 3 with
      | (.wait, s) => (none, s)
      | (.fail _, s) => (some s, s)
      | (.ok e, s) =>
        if paKind (e.phys va) ≠ .sealed then (some s, s)
        else match s.signalFor (queueName k) k.part k.job va (e.phys va) true 0 with
          | (none, s) => (none, s)
          | (some ok, s) => made s ok

/-- The signals of a queue's packets that do not start are set negative, but for that of the spare one; none while one waits (R50,
R441). -/
def State.negHeads (k : QKey) (die : Nat) (skip : Bool) (spare : Option Nat) : Nat → List ReadPkt → State → Option State × State
  | _, [], s => (some s, s)
  | i, p :: t, s =>
    if spare = some i then State.negHeads k die skip spare (i + 1) t s
    else match s.failSig k die skip p.bytes with
      | (none, s) => (none, s)
      | (some s, _) => State.negHeads k die skip spare (i + 1) t s

/-- Packets at the head of a queue are consumed without starting, their signals set negative but for that of the spare one; an abort follows
for a reason. What was reserved for them is released. They stay while a signal waits (R50, R66, R76, R436). -/
def State.dropHeads (s : State) (q : RQueue) (n : Nat) (spare : Option Nat) (reason : Option Nat) : State :=
  match State.negHeads q.key q.die reason.isNone spare 0 (q.ready.take n) s with
  | (none, s) => s
  | (some s, _) => (s.unplace fun e => e.name == queueName q.key).modQueue q.key fun q =>
      let q := { q with ready := q.ready.drop n, granted := false }
      match reason with
      | some r => q.abort r
      | none => q

/-- The slots of a packet type (R49). -/
def pktSlots (t : Nat) : Nat := if t = 1 then 2 else 1

/-- The address of a slot of a queue's ring (R43). -/
def RQueue.slot (q : RQueue) (i : Nat) : Nat := q.base + 64 * (i % 2 ^ q.log2)

/-- The bytes of the slots from an index on; they wait while their clearing or the write-back of RIDX would (R44, R257, R259). -/
def State.readSlots (s : State) (q : RQueue) : Nat → Nat → URes (List (Nat × List Byte)) × State
  | _, 0 => (.ok [], s)
  | i, n + 1 =>
    match s.unitXlate (queueName q.key) q.die none q.key.part q.key.job (q.slot i) 3 with
    | (.wait, s) => (.wait, s)
    | (.fail c, s) => (.fail (statusOf c), s)
    | (.ok e, s) =>
      if s.tilesWait [e.phys (q.slot i), q.entry] then (.wait, s)
      else match s.readPoc (e.phys (q.slot i)) 64 with
      | none => (.fail stSeal, s.noteLost q.key.part (e.phys (q.slot i)))
      | some b => match State.readSlots s q (i + 1) n with
        | (.ok l, s) => (.ok ((e.phys (q.slot i), b) :: l), s)
        | r => r

/-- A read packet has left its slots: their type bytes are cleared and RIDX is written back (R44). -/
def State.consume (s : State) (q : RQueue) (slots : List (Nat × List Byte)) : State :=
  let s := slots.foldl (fun s p => s.putEntry q.key.part p.1 [0#8]) s
  let n := q.ridx + slots.length
  (s.putEntry q.key.part (q.entry + 24) (leBytes 8 n)).modQueue q.key fun q => { q with ridx := n, pollAt := none }

/-- The slots of a packet, which waits until they can all be cleared and RIDX written back at once (R44). -/
def State.readWhole (s : State) (q : RQueue) (n : Nat) : URes (List (Nat × List Byte)) × State :=
  match s.readSlots q q.ridx n with
  | (.ok l, s) => (if s.tilesWait (q.entry :: l.map (·.1)) then .wait else .ok l, s)
  | r => r

/-- Whether the front end reads the queue's next packet now, which it does only while RIDX < KMAX (R44, R65, R66); after a slot
that could not be read it waits for RESUME (R45). -/
def RQueue.reads (q : RQueue) : Bool :=
  !q.work && q.st != .stopped && !(q.st == .aborted && q.reason == 4) && decide (q.ridx < q.kmax)
    && (q.ready.isEmpty || q.collecting || q.st == .aborted)

/-- A read packet is consumed: it waits to be started; in ABORTED, or where it is malformed by itself, it does not start (R49, R50, R441).
The members of a gang that it breaks are discarded first (R66). -/
def State.takePkt (s : State) (q : RQueue) (l : List (Nat × List Byte)) (bad : Option Nat) : State :=
  let b := l.flatMap (·.2)
  if q.st ≠ .aborted ∧ bad.isSome = true ∧ q.ready ≠ [] then s.dropHeads q q.ready.length none none
  else if q.st = .aborted ∨ bad.isSome = true then
    match s.failSig q.key q.die (q.st == .aborted) b with
    | (none, s) => s
    | (some s, _) => (s.consume q l).modQueue q.key fun q => if q.st = .aborted then q else q.abort (bad.getD 3)
  else (s.consume q l).modQueue q.key fun o =>
    { o with ready := o.ready ++ [⟨q.ridx, b⟩], st := if o.st = .blocked then .blocked else .running }

/-- A queue of a job that collects a gang of a number, resident or swapped out with the members that it has read, but for one queue (R66). -/
def State.collector (s : State) (key : QKey) (gang : Nat) : Option (QKey × List ReadPkt) :=
  ((s.queues.map fun q => (q.key, q.ready)) ++ s.readAhead).find? fun o =>
    o.1 != key && o.1.part == key.part && o.1.job == key.job && collectingGang o.2 && o.2.any fun p => byteAt p.bytes 56 == gang

/-- What a queue has read of a gang is discarded, the signals of its members set negative, as soon as they can be (R66). -/
def State.discardGang (s : State) (die : Nat) (k : QKey) (ready : List ReadPkt) : State :=
  match State.negHeads k die true none 0 ready s with
  | (none, s) => s
  | (some s, _) =>
    let s := s.modQueue k fun q => { q with ready := [], granted := false }
    { s with readAhead := s.readAhead.filter fun r => r.1 != k }

/-- The next packet of a queue is read (R44, R45, R49, R441). A LAUNCH with the number of a gang that another queue of the job is
collecting is malformed, and what that queue has read is discarded first (R66). That queue is not aborted. Mark: DEDUCED (log entry
115). -/
def State.readPacket (s : State) (q : RQueue) : State :=
  if s.frontStopped q.key.part then s
  else match s.readSlots q q.ridx 1 with
  | (.wait, s) => s
  | (.fail _, s) => s.modQueue q.key fun q => { q.abort 4 with pollAt := none }
  | (.ok l, s) =>
    let t := pktType (l.flatMap (·.2))
    if t = 0 then s.modQueue q.key fun q =>
      { q with pollAt := some (s.clock + Config.us 4), st := if q.st = .aborted then .aborted else .blocked }
    else match s.readWhole q (pktSlots t) with
      | (.wait, s) => s
      | (.fail _, s) => s.modQueue q.key fun q => { q.abort 4 with pollAt := none }
      | (.ok l, s) =>
        let b := l.flatMap (·.2)
        let gang := byteAt b 56
        match (if t = 1 ∧ gang ≠ 0 ∧ q.ready = [] ∧ q.st ≠ .aborted then s.collector q.key gang else none) with
        | none => s.takePkt q l (if 10 < t then some 2 else none)
        | some o =>
          let s := s.discardGang q.die o.1 o.2
          if (s.collector q.key gang).isSome then s else s.takePkt q l (some 3)

/-- In ABORTED a packet that was read and not started is skipped first, and what was reserved for it is released (R76, R441). -/
def State.skipReady (s : State) (q : RQueue) (p : ReadPkt) : State :=
  if s.frontStopped q.key.part then s
  else match s.failSig q.key q.die true p.bytes with
  | (none, s) => s
  | (some s, _) => (s.unplace fun e => e.name == queueName q.key).modQueue q.key fun q => { q with ready := q.ready.drop 1, short := false }

/-- PACKET_READ (R44, R441). -/
def execPacketRead (key : QKey) (s : State) : Out :=
  match s.queue key with
  | none => .next s
  | some q =>
    match q.st, q.ready with
    | .aborted, p :: _ => .next (s.skipReady q p)
    | _, _ => stepIf (q.reads && q.pollAt.isNone) (fun s => s.readPacket q) s

/-- SLOT_REREAD_POLL (R44): an unpublished slot is read again 4 µs after the last read, or at a kick. -/
def execSlotRereadPoll (key : QKey) (s : State) : Out :=
  match s.queue key with
  | none => .next s
  | some q => stepIf (q.reads && (q.pollAt.any fun t => decide (t ≤ s.clock))) (fun s =>
      s.readPacket { q with pollAt := none }) s

/-- A command at the head of a context's q1 (R159). -/
structure WqHead where
  key : QKey
  cmd : WqCmd
  deriving DecidableEq, Repr

/-- The command of an operation that a context's unit would serve next. -/
def State.wqHead (s : State) (core ctx op : Nat) : Option WqHead :=
  let x := s.ctx core ctx
  match x.q1 with
  | [] => none
  | c :: _ =>
    if wbits c.word 13 12 = op ∧ (op ≠ 0 ∨ c.item.isSome = true) then
      some ⟨⟨x.part, x.job, wbits c.word 11 0⟩, c⟩
    else none

/-- Whether a save that is pending on a context's core is of its job (R422). -/
def Core.saving (k : Core) (x : Ctx) : Bool := k.save.any fun p => p.1 == x.part && p.2.1 == x.job

/-- The DEQW commands that wait in the unit are withdrawn from it (R424). -/
def Ctx.withdrawDeqw (x : Ctx) : Ctx :=
  { x with withdrawn := x.withdrawn ++ x.q1.takeWhile (·.waiting.isSome), q1 := x.q1.dropWhile (·.waiting.isSome) }

/-- Whether a context's ports drain for a save, so that no DEQW of it may wait any more (R424, R425). -/
def State.draining (s : State) (core ctx : Nat) : Bool :=
  let x := s.ctx core ctx
  (s.core core).saving x && (x.st == .parked || x.st == .exiting || x.why == some .drain || x.why == some .saving)

/-- The head command of a context changed. -/
def State.modWqHead (s : State) (core ctx : Nat) (f : WqCmd → WqCmd) : State :=
  s.modCtx core ctx fun x => { x with q1 := match x.q1 with
    | c :: t => f c :: t
    | [] => [] }

/-- The address of an item of a work queue (R68). -/
def RQueue.itemVa (q : RQueue) (n : Nat) : Nat := q.base + 8 * (n % 2 ^ q.log2)

/-- The name of a core's work-queue unit that serves a context, for its walks (R245). -/
def wqName (core ctx : Nat) : Nat := unitName 5 (core * 2 ^ 20 + ctx)

/-- An item of a queue read or written by the unit for a command of a context: its physical address. It waits while the item or the queue's
entry cannot be written at once (R68, R257, R259). -/
def State.itemPa (s : State) (q : RQueue) (core ctx n acc : Nat) : URes Nat × State :=
  match s.unitXlate (wqName core ctx) q.die none q.key.part q.key.job (q.itemVa n) acc with
  | (.wait, s) => (.wait, s)
  | (.fail c, s) => (.fail (statusOf c), s)
  | (.ok e, s) =>
    let pa := e.phys (q.itemVa n)
    if s.tilesWait [q.entry, pa] then (.wait, s) else (.ok pa, s)

/-- A response whose status the spec does not give, since the ring could not be reached: a free value (R161). -/
def State.wqFree (s : State) (core ctx op : Nat) : State :=
  let (w, s) := s.draw
  s.wqRespond core ctx (wqWordsOf op (wd (w.toNat % 8 + op * 2 ^ 12)) 0#64)

/-- An item leaves the head of a queue toward a context, and RIDX is written back (R41, R161). -/
def State.dequeue (s : State) (q : RQueue) (core ctx op : Nat) : State :=
  match s.itemPa q core ctx q.ridx 0 with
  | (.wait, s) => s
  | (.fail _, s) => s.wqFree core ctx op
  | (.ok pa, s) => match s.readPoc pa 8 with
    | none => (s.noteLost q.key.part pa).wqFree core ctx op
    | some b => ((s.putEntry q.key.part (q.entry + 24) (leBytes 8 (q.ridx + 1))).modQueue q.key fun q =>
        { q with ridx := q.ridx + 1 }).wqRespond core ctx
        (wqWordsOf op (wqStatus 0 op 0 0) (wd (leNat b)))

/-- The DEQW that has waited longest on a queue. -/
def State.firstWaiter (s : State) (k : QKey) : Option (Nat × Nat × Nat) :=
  (s.waiters k).foldl (fun a w => match a with
    | none => some w
    | some v => if w.2.2 < v.2.2 then some w else some v) none

/-- An item enters a queue, and a waiting DEQW takes the item at its head (R161). -/
def State.enqueueItem (s : State) (q : RQueue) (core ctx : Nat) (item : Word) : State :=
  match s.itemPa q core ctx q.kmax 1 with
  | (.wait, s) => s
  | (.fail _, s) => s.wqFree core ctx 0
  | (.ok pa, s) =>
    if paKind pa = .sealed ∧ s.tileFails (tileOf pa) = true then (s.poison q.key.part (tileOf pa)).wqFree core ctx 0
    else
      let s := s.writePoc pa q.key.part (leBytes 8 item.toNat) 2
      let q := { q with kmax := q.kmax + 1 }
      let s := (s.modQueue q.key fun _ => q).wqRespond core ctx [wqStatus 0 0 0 0]
      match s.firstWaiter q.key with
      | none => s
      | some (c, n, _) => s.dequeue q c n 2

/-- A work-queue command served at the unit of its queue's home die (R161, R162). Of a queue whose entry cannot be read it answers
BADHANDLE. Mark: DESIGN CHOICE (log entry 46). -/
def State.wqServe (s : State) (core ctx op : Nat) : State :=
  match s.wqHead core ctx op with
  | none => s
  | some h =>
    let bad := fun (s : State) => s.wqRespond core ctx (wqWordsOf op (wqStatus 3 op 0 0) 0#64)
    match s.queue h.key with
    | some q =>
      let first := s.firstWaiter q.key
      if !q.work then bad s
      else match op with
        | 0 => if q.kmax - q.ridx = 2 ^ q.log2 then s.wqRespond core ctx [wqStatus 1 0 0 0]
          else s.enqueueItem q core ctx (h.cmd.item.getD 0#64)
        | 1 =>
          if q.kmax = q.ridx then s.wqRespond core ctx [wqStatus 2 1 0 0, 0#64] else if first.isSome then s else s.dequeue q core ctx 1
        | 2 =>
          let mine := first.any fun w => w.1 == core && w.2.1 == ctx
          if q.kmax ≠ q.ridx ∧ (first.isNone = true ∨ mine = true) then s.dequeue q core ctx 2
          else if h.cmd.waiting.isSome then s
          else
            let n := (s.die q.die).wqSeq
            let t := (s.modDie q.die fun d => { d with wqSeq := n + 1 }).modWqHead core ctx fun c => { c with waiting := some n }
            if s.draining core ctx then t.modCtx core ctx Ctx.withdrawDeqw else t
        | _ => s.wqRespond core ctx [wqStatus 0 3 (q.kmax - q.ridx) q.log2]
    | none => match s.job h.key.part h.key.job with
      | none => bad s
      | some j =>
        if j.desc.qtlen ≤ h.key.handle then bad s
        else match s.readEntryAs (wqName core ctx) h.key j (dieOf core) with
          | (.wait, s) => s
          | (.fail _, s) => bad s
          | (.ok (_, b), s) =>
            if entryKind b ≠ 2 then bad (if entryBad b then s.queueMiss h.key b (.work op) else s)
            else if h.cmd.missed then (if entryGood b then s else bad s)
            else
              let s := (s.modWqHead core ctx fun c => { c with missed := true }).queueMiss h.key b (.work op)
              s.modCtx core ctx fun x =>
                if x.st = .running then { x with st := .blocked, why := some .residency } else x

/-- A command at the head of q1 served, once what came before its push is visible at device scope (R161, R163, R328). -/
def State.wqStep (core ctx op : Nat) (s : State) : Out :=
  let since := ((s.ctx core ctx).q1.head?.map (·.since)).getD 0
  stepIf ((s.wqHead core ctx op).isSome && s.released core ctx 4 since) (fun s => s.wqServe core ctx op) s

/-- WQ_ENQ (R161, R163). -/
def execWqEnq (core ctx : Nat) (s : State) : Out := State.wqStep core ctx 0 s

/-- WQ_DEQ (R161). -/
def execWqDeq (core ctx : Nat) (s : State) : Out := State.wqStep core ctx 1 s

/-- WQ_DEQW (R161). -/
def execWqDeqw (core ctx : Nat) (s : State) : Out := State.wqStep core ctx 2 s

/-- WQ_WQSTAT (R161). -/
def execWqWqstat (core ctx : Nat) (s : State) : Out := State.wqStep core ctx 3 s

/-- A command word of q1 (R159, R160). -/
def wqCommand (a : Word) (op : Nat) : Word := wd (a.toNat % 2 ^ 12 + op * 2 ^ 12)

/-- Words pushed to q1 in one push (R160). -/
def pushWqWords (ws : List Word) : M Unit := do
  let now := (← get).clock
  modMe fun x => { x with q1 := ws.foldl (fun q w => pushWq now w q) x.q1 }

/-- ENQ (R160, R163). -/
def execEnq (a b : Nat) (s : State) : Out :=
  finish (do
    let v ← operands .none (.src a) (.src b) [(1, 2)]
    pushWqWords [wqCommand v.a 0, v.b]) s

/-- DEQ (R160). -/
def execDeq (a : Nat) (s : State) : Out :=
  finish (do
    let v ← operands .none (.src a) .none [(1, 1)]
    pushWqWords [wqCommand v.a 1]) s

/-- DEQW (R160). -/
def execDeqw (a : Nat) (s : State) : Out :=
  finish (do
    let v ← operands .none (.src a) .none [(1, 1)]
    pushWqWords [wqCommand v.a 2]) s

/-- WQSTAT (R160). -/
def execWqstat (a : Nat) (s : State) : Out :=
  finish (do
    let v ← operands .none (.src a) .none [(1, 1)]
    pushWqWords [wqCommand v.a 3]) s

end Sys2Proof.Machine
end

