-- ==== Sys2Proof/Machine/Copy.lean ====
section
/-! DEFINITION. The copy engines: taking commands, moving bytes, filling ring slots, gathering, and completions (R280 to R286). -/

namespace Sys2Proof.Machine

/-- The stream that an event's number names: a context's own port, or from 2^16 on a sequencer run of the core. -/
def streamOf (n : Nat) : Stream := if n < 2 ^ 16 then .ctx n else .run (n - 2 ^ 16)

/-- A copy command at the head of a stream: its context, its words, and the run and iteration of a sequencer (R226, R280). whole is
false for a command with words missing. -/
structure CopyCmd where
  ctx : Nat
  header : Word
  src : Word
  dst : Word
  whole : Bool
  ls : Option (Nat × Nat)
  deriving DecidableEq, Repr

/-- OP of a copy header, and whether it is a copy's (R280). -/
def copyOp (h : Word) : Nat := wbits h 63 60
@[inherit_doc copyOp] def copyKnown (h : Word) : Bool := decide (1 ≤ copyOp h) && decide (copyOp h ≤ 4)

/-- The command at the head of a stream that an engine can take: one of a context once its release has been made at its scope for what came
before its last word, whole or malformed (R280, R282, R328). A core that the cluster's engines do not serve has none (R71). A sequencer's record that is not the three words
of a command is taken as malformed. Mark: DESIGN CHOICE (log entry 94). -/
def State.copyHead (s : State) (core : Nat) (st : Stream) : Option CopyCmd :=
  if !s.served core then none else match st with
  | .ctx c =>
    let x := s.ctx core c
    match x.q4 with
    | [] => none
    | (h, t, sc) :: rest =>
      if !copyKnown h then (if s.released core c sc t then some ⟨c, h, 0#64, 0#64, false, none⟩ else none)
      else match rest with
        | (a, _) :: (b, u, _) :: _ => if s.released core c sc u then some ⟨c, h, a, b, true, none⟩ else none
        | _ => none
  | .run r =>
    match (s.core core).runs.find r with
    | none => none
    | some u => match u.copyQ with
      | [] => none
      | (j, ws) :: _ => match ws with
        | [h, a, b] => some ⟨u.ctx, h, a, b, copyKnown h, some (r, j)⟩
        | h :: _ => some ⟨u.ctx, h, 0#64, 0#64, false, some (r, j)⟩
        | [] => some ⟨u.ctx, 0#64, 0#64, 0#64, false, some (r, j)⟩

/-- The head command leaves its stream; a malformed one consumes only its header (R280). -/
def State.copyPop (s : State) (core : Nat) (st : Stream) (c : CopyCmd) : State :=
  match st with
  | .ctx n => s.modCtx core n fun x => { x with q4 := x.q4.drop (if c.whole then 3 else 1) }
  | .run r => s.modCore core fun k => { k with runs := match k.runs.find r with
      | some u => k.runs.set r { u with copyQ := u.copyQ.drop 1 }
      | none => k.runs }

/-- A part of a source: its offset, and its bytes or the place at a peer they are asked from. -/
structure SrcPart where
  off : Nat
  data : List Byte := []
  peer : Option Nat := none
  len : Nat
  deriving DecidableEq, Repr

/-- The parts of a translated source range from an offset on; a piece at a peer is asked for in 256-byte blocks. -/
def State.srcParts (s : State) : Nat → List (Nat × Nat × Nat) → Option (List SrcPart)
  | _, [] => some []
  | off, p :: t => match State.srcParts s (off + p.2.2) t with
    | none => none
    | some rest => match paKind p.2.1 with
      | .peer _ => some (((splitAt 256 (p.2.2 + 1) p.2.1 p.2.2).map fun q =>
          { off := off + (q.1 - p.2.1), peer := some q.1, len := q.2 }) ++ rest)
      | _ => (s.readPoc p.2.1 p.2.2).map fun b => { off := off, data := b, len := p.2.2 } :: rest

/-- A source range of a copy, in the scratchpad window or the global window. -/
def State.copyRead (s : State) (name core : Nat) (x : Ctx) (off a n : Nat) : URes (List SrcPart) × State :=
  if n = 0 then (.ok [], s)
  else match s.steer core x a n with
    | some .scratch => (.ok [{ off := off, data := s.localBytes core x .scratch a n, len := n }], s)
    | some .glob =>
      match State.unitMap name (dieOf core) (some (clusterOf core)) x.part x.job 0 (pagesIn n) a n s with
      | (.fail c, s) => (.fail c, s)
      | (.wait, s) => (.wait, s)
      | (.ok l, s) => match s.srcParts off l with
        | some p => (.ok p, s)
        | none => (.fail stSeal, l.foldl (fun s p => s.noteLost x.part p.2.1) s)
    | _ => (.fail stAperture, s)

/-- The elements of a gather in order (R285). -/
def State.gatherRead (name core : Nat) (x : Ctx) (base es : Nat) : List (Nat × Nat) → State → URes (List SrcPart) × State
  | [], s => (.ok [], s)
  | (j, ix) :: t, s =>
    let a := (base + ix * es) % 2 ^ 64
    let r := s.resvOf core x
    if Machine.steer r.spBytes r.stkBytes a es ≠ winOf r.spBytes r.stkBytes base then (.fail stAperture, s)
    else match s.copyRead name core x (j * es) a es with
      | (.ok p, s) => match State.gatherRead name core x base es t s with
        | (.ok q, s) => (.ok (p ++ q), s)
        | z => z
      | z => z

/-- The destination of a copy: the scratchpad, or translated pieces. -/
def State.copyDst (s : State) (name core : Nat) (x : Ctx) (a n : Nat) : URes (Option (List (Nat × Nat × Nat))) × State :=
  if n = 0 then (.ok none, s)
  else match s.steer core x a n with
    | some .scratch => (.ok none, s)
    | some .glob =>
      match State.unitMap name (dieOf core) (some (clusterOf core)) x.part x.job 1 (pagesIn n) a n s with
      | (.ok l, s) => (.ok (some l), s)
      | (.fail c, s) => (.fail c, s)
      | (.wait, s) => (.wait, s)
    | _ => (.fail stAperture, s)

/-- The part of translated pieces from an offset, of a length. -/
def slicePieces : List (Nat × Nat × Nat) → Nat → Nat → List (Nat × Nat × Nat)
  | [], _, _ => []
  | p :: t, off, n =>
    if n = 0 then []
    else if p.2.2 ≤ off then slicePieces t (off - p.2.2) n
    else
      let k := min n (p.2.2 - off)
      (p.1 + off, p.2.1 + off, k) :: slicePieces t 0 (n - k)

/-- Bytes of a copy written at an offset of its destination (R282). -/
def State.copyWrite (s : State) (r : CopyRun) (off : Nat) (data : List Byte) : State :=
  match r.dstMap with
  | some l => State.writePieces (.copy (clusterOf r.core) r.id) r.part r.job (dieOf r.core) (slicePieces l off data.length) data s
  | none =>
    if data = [] then s else s.storeLocal r.core (s.ctx r.core r.ctx) .scratch (r.dst.toNat + off) data

/-- The bytes that a command has gathered go out in one piece, so that whole tiles are written as such (R282). -/
def State.copyFlush (s : State) (r : CopyRun) : State × CopyRun :=
  (if r.status = 0 then s.copyWrite r ((r.got.head?.map (·.1)).getD 0) (r.got.flatMap (·.2)) else s, { r with got := [] })

/-- The parts of a source gathered, those at a peer asked for (R282, R364); without a peer the bytes go out at once. -/
def State.copyMove (s : State) (r : CopyRun) (parts : List SrcPart) : State × CopyRun :=
  let (s, r) := parts.foldl (fun a p => match p.peer with
      | none => (a.1, { a.2 with got := Tab.set a.2.got p.off p.data })
      | some pa => match a.1.reachPeer pa with
        | none => (a.1, { a.2 with status := if a.2.status = 0 then stPerm else a.2.status })
        | some q =>
          if q.isol then (a.1.epDrop (dieOf r.core) EpDrop.addIsolated, { a.2 with status := if a.2.status = 0 then stIsolated else a.2.status })
          else
            let req := PeerReq.copy (clusterOf r.core) r.id p.off p.len
            (a.1.askPeer (dieOf r.core) r.part q.ep req fun t => .readreq t r.part (peerAddr pa) p.len,
             { a.2 with owed := a.2.owed + 1 })) (s, r)
  if r.owed = 0 && !r.listing then s.copyFlush r else (s, r)

def State.modCopy (s : State) (cl id : Nat) (f : CopyRun → CopyRun) : State :=
  s.modCluster cl fun k => { k with copies := k.copies.map fun r => if r.id == id then f r else r }

/-- A command as an engine takes it. -/
def CopyCmd.run (c : CopyCmd) (core id : Nat) (x : Ctx) : CopyRun :=
  { id := id, core := core, ctx := c.ctx, header := c.header, src := c.src, dst := c.dst, part := x.part, job := x.job, lid := x.lid,
    lgen := x.lgen, ls := c.ls }

/-- A command whose outcome is known from the start, or which is in progress, stands with its cluster's engines. -/
def State.addCopy (s : State) (r : CopyRun) : State :=
  s.modCluster (clusterOf r.core) fun k => { k with copies := k.copies ++ [r] }

/-- The status of a check of R281 that a raw push fails. -/
def copyStatus (cause : Nat) : Nat :=
  if cause = tAperture then stAperture else if cause = tAlign then stAlign else stRing

/-- The elements of a gather whose list has been read are moved (R285). -/
def State.gatherGo (s : State) (name : Nat) (x : Ctx) (r : CopyRun) (list : List Byte) : URes CopyRun × State :=
  let len := wbits r.header 23 0
  let es := gatherSize r.header
  match State.gatherRead name r.core x (fieldAt list 0 8) es ((List.range len).map fun j => (j, fieldAt list (8 + 4 * j) 4)) s with
  | (.fail n, s) => (.fail n, s)
  | (.wait, s) => (.wait, s)
  | (.ok parts, s) => match s.copyDst name r.core x r.dst.toNat (es * len) with
    | (.fail n, s) => (.fail n, s)
    | (.wait, s) => (.wait, s)
    | (.ok m, s) =>
      let (s, q) := s.copyMove { r with dstMap := m, listing := false, got := [] } parts
      (.ok q, s)

/-- The start of a copy: the range or the gather list is read, and the bytes move as far as no peer has to answer (R282, R285). -/
def State.copyStart (s : State) (name : Nat) (x : Ctx) (r : CopyRun) : URes CopyRun × State :=
  let len := wbits r.header 23 0
  if copyOp r.header = 4 then
    if len = 0 then (.ok r, s)
    else match s.copyRead name r.core x 0 r.src.toNat (8 + 4 * len) with
      | (.fail n, s) => (.fail n, s)
      | (.wait, s) => (.wait, s)
      | (.ok p, s) =>
        if p.any fun q => q.peer.isSome then
          let (s, q) := s.copyMove { r with listing := true } p
          (.ok q, s)
        else s.gatherGo name x r (p.flatMap (·.data))
  else match s.copyRead name r.core x 0 r.src.toNat len with
    | (.fail n, s) => (.fail n, s)
    | (.wait, s) => (.wait, s)
    | (.ok parts, s) => match s.copyDst name r.core x r.dst.toNat len with
      | (.fail n, s) => (.fail n, s)
      | (.wait, s) => (.wait, s)
      | (.ok m, s) =>
        let (s, q) := s.copyMove { r with dstMap := m } parts
        (.ok q, s)

/-- A command is taken: CPY and CPYL of a range, CPYG of a list (R282, R283, R285). It stays in its port while a translation waits for
the memory master. -/
def State.copyTake (s : State) (core : Nat) (st : Stream) (c : CopyCmd) : State :=
  let x := s.ctx core c.ctx
  let (id, s1) := s.fresh
  let r := c.run core id x
  let fail := fun (s : State) (n : Nat) => (s.copyPop core st c).addCopy { r with status := n }
  if !c.whole then fail s1 stMalformed
  else match s1.copyCheck core c.ctx x c.header c.src c.dst with
    | some (cause, _) => fail s1 (copyStatus cause)
    | none =>
      match s1.copyStart (unitName 2 (core * 2 ^ 20 + c.ctx)) x r with
      | (.fail n, s) => fail s n
      | (.wait, s) => s
      | (.ok q, s) => (s.copyPop core st c).addCopy q

/-- A copy event of an operation at a stream; a malformed header is taken by any of them. -/
def copyEvent (op core n : Nat) (s : State) : Out :=
  match s.copyHead core (streamOf n) with
  | none => .next s
  | some c => stepIf (decide (copyOp c.header = op) || !c.whole) (fun s => s.copyTake core (streamOf n) c) s

/-- COPY_OP_CPY (R282). -/
def execCopyOpCpy (core ctx : Nat) (s : State) : Out := copyEvent 1 core ctx s

/-- COPY_OP_CPYL (R283). -/
def execCopyOpCpyl (core ctx : Nat) (s : State) : Out := copyEvent 2 core ctx s

/-- A command in progress of a stream's context that meets a condition. -/
def State.copyOf (s : State) (core : Nat) (st : Stream) (p : CopyRun → Bool) : Option CopyRun :=
  (s.cluster (clusterOf core)).copies.find? fun r => r.core == core && p r && (match st, r.ls with
    | .ctx c, none => r.ctx == c
    | .run n, some (m, _) => n == m
    | _, _ => false)

/-- COPY_OP_CPYG (R285): a gather whose list a peer has answered goes on with its elements, or the command at the head is taken. -/
def execCopyOpCpyg (core ctx : Nat) (s : State) : Out :=
  match s.copyOf core (streamOf ctx) fun r => r.listing && decide (r.owed = 0) && decide (r.status = 0) with
  | none => copyEvent 4 core ctx s
  | some r =>
    let set := fun (s : State) (q : CopyRun) => s.modCopy (clusterOf core) r.id fun _ => q
    .next (match s.gatherGo (unitName 2 (core * 2 ^ 20 + r.ctx)) (s.ctx core r.ctx) r (r.got.flatMap (·.2)) with
      | (.fail n, s) => set s { r with listing := false, got := [], status := n }
      | (.wait, s) => s
      | (.ok q, s) => set s q)

/-- A ring of a context, and its change. -/
def State.ring (s : State) (core ctx n : Nat) : Option Ring := ((s.core core).mx.get {} ctx).rings.find n
def State.modRing (s : State) (core ctx n : Nat) (f : Ring → Ring) : State :=
  s.modCore core fun k =>
    let m := k.mx.get {} ctx
    match m.rings.find n with
    | some g => { k with mx := k.mx.set ctx { m with rings := m.rings.set n (f g) } }
    | none => k

/-- The scratchpad-window address of a slot of a ring (R300). -/
def Ring.slotAddr (g : Ring) (i : Nat) : Nat := Config.spWin + g.base + i % g.nslot * g.slotsz

/-- A claimed slot whose pieces have all ended: the tail passes it where its bytes are all written (R284, R304). The claim of a slot that
failed is given back, which leaves no slot claimed that nothing fills. Mark: DESIGN CHOICE (log entry 95). -/
def State.slotEnd (s : State) (r : CopyRun) : State :=
  match r.ring with
  | none => s
  | some (ctx, n) => s.modRing r.core ctx n fun g => if r.status = 0 then { g with t := g.t + 1 } else { g with f := g.f - 1 }

/-- Whether a CPYR can claim its next slot (R284, R304): the ring has room for it, and no copy that started before has slots of the ring
still to fill. -/
def State.mayFill (s : State) (r : CopyRun) : Bool :=
  match r.ring with
  | none => false
  | some (ctx, n) =>
    decide (r.filled < r.slots) && decide (r.owed = 0)
      && !(((s.cluster (clusterOf r.core)).copies.takeWhile fun q => q.id != r.id).any fun q =>
        q.core == r.core && q.ring == r.ring && (decide (q.filled < q.slots) || decide (q.owed ≠ 0)))
      && (s.ring r.core ctx n).all fun g => decide (g.f < g.h + g.nslot)

/-- The next slot of a CPYR is claimed and filled (R284, R304). -/
def State.fillSlot (s : State) (r : CopyRun) : State :=
  match r.ring with
  | none => s
  | some (ctx, n) =>
    match s.ring r.core ctx n with
    | none => s.modCopy (clusterOf r.core) r.id fun r => { r with slots := r.filled, status := stRing }
    | some g =>
      let x := s.ctx r.core r.ctx
      let name := unitName 2 (r.core * 2 ^ 20 + r.ctx)
      match s.copyRead name r.core x 0 (r.src.toNat + r.filled * g.slotsz) g.slotsz with
      | (.wait, s) => s
      | (.fail c, s) => s.modCopy (clusterOf r.core) r.id fun r => { r with slots := r.filled, status := c }
      | (.ok parts, s) =>
        let (s, q) := s.copyMove { r with filled := r.filled + 1, dst := wd (g.slotAddr g.f), dstMap := none } parts
        let s := s.modRing r.core ctx n fun g => { g with f := g.f + 1 }
        let s := if q.owed = 0 then s.slotEnd q else s
        s.modCopy (clusterOf r.core) r.id fun _ => { q with slots := if q.status = 0 then q.slots else q.filled }

/-- A command of a stream in progress that can fill a slot. -/
def State.filling (s : State) (core : Nat) (st : Stream) : Option CopyRun := s.copyOf core st s.mayFill

/-- COPY_OP_CPYR (R284, R304): a command in progress that can fill a slot fills its next, or the command at the head is taken, so that
one that waits for a full ring holds no other behind it. -/
def execCopyOpCpyr (core ctx : Nat) (s : State) : Out :=
  let st := streamOf ctx
  match s.filling core st with
  | some r => .next (s.fillSlot r)
  | none => match s.copyHead core st with
    | none => .next s
    | some c =>
      if c.whole = false ∨ copyOp c.header ≠ 3 then .next s
      else
        let x := s.ctx core c.ctx
        let n := c.dst.toNat % 8
        let (id, s) := s.fresh
        let r := c.run core id x
        match s.copyCheck core c.ctx x c.header c.src c.dst, s.ring core c.ctx n with
        | none, some g =>
          let r := { r with ring := some (c.ctx, n), slots := wbits c.header 23 0 / g.slotsz }
          let s := (s.copyPop core st c).addCopy r
          .next (if s.mayFill r then s.fillSlot r else s)
        | some (cause, _), _ => .next ((s.copyPop core st c).addCopy { r with status := copyStatus cause })
        | none, none => .next ((s.copyPop core st c).addCopy { r with status := stRing })

/-- The completion word of a copy (R286). -/
def CopyRun.word (r : CopyRun) : Word :=
  completion r.status 1 (wbits r.header 47 32) (if r.status = 0 then wbits r.header 23 0 else 0)

/-- The LANDING message of a CPYL (R283). -/
def CopyRun.landingMsg (r : CopyRun) : Msg :=
  { kind := .landing, ddev := selfEp, dpart := r.part, handler := wbits r.header 31 26, lgen := r.lgen, lid := r.lid, dest := r.core,
    sdev := selfEp, score := r.core, payload := [r.header, r.src, r.dst, r.word, 0#64, 0#64] }

/-- A sequencer hears of the end of a command (R226). -/
def State.tellRun (s : State) (core run j : Nat) (isCopy ok : Bool) : State :=
  s.modCore core fun k => match k.runs.find run with
    | some u => { k with runs := k.runs.set run { u with ended := u.ended ++ [(j, isCopy, ok)] } }
    | none => k

/-- COPY_COMPLETION (R283, R286): a command whose reads and writes are all done tells its context, its landing handler or its
sequencer. -/
def execCopyCompletion (cluster run : Nat) (s : State) : Out :=
  match (s.cluster cluster).copies.find? fun r => r.id == run with
  | none => .next s
  | some r =>
    let lands := copyOp r.header = 2 ∧ r.status ≠ stMalformed
    let ready := decide (r.owed = 0) && decide (r.slots ≤ r.filled) && !(r.listing && decide (r.status = 0)) && !s.asking (.copy cluster run)
      && (lands || r.ls.isSome || decide (16 ≤ r.ctx) || decide (1 ≤ (s.ctx r.core r.ctx).room 5))
    stepIf ready (fun s =>
      let s := s.modCluster cluster fun k => { k with copies := k.copies.filter fun q => q.id != run }
      let s := if lands then s.toMesh r.landingMsg r.core (.landing r.core cluster r.part r.lid r.lgen) else s
      match r.ls with
      | some (u, j) => s.tellRun r.core u j true (r.status == 0)
      | none => if lands then s else s.pushQ5 r.core r.ctx 0 [r.word]) s

end Sys2Proof.Machine
end

