-- ==== Sys2Proof/Machine/Engines.lean ====
section
/-! DEFINITION. The special-function unit and the loop sequencer (R221 to R230). -/

namespace Sys2Proof.Machine

/-- The type code of a special-function TYPE (R221). -/
def sfuType (t : Nat) : Nat := if t = 0 then 1 else if t = 1 then 2 else 3

/-- A special-function instruction: one request enters q7 (R221, R223), under the FPCTL.FTZ of its push. Mark: DESIGN CHOICE (log entry
125). -/
def sfuPush (fn : SfuFn) (v t d a k : Nat) : M Unit := do
  let x ← getMe
  let ty := sfuType t
  if v = 1 then
    let _ ← operands (.row d) (.row a) .none [(7, 1)]
    let r ← readRow a
    let now := (← get).clock
    modMe fun y => { y with q7 := y.q7 ++ [{ fn := fn, vec := true, typ := ty, ftz := x.fpEnv.ftz, src := r.toNat,
                                             mask := x.governing k, dnum := d, drow := x.rowIdx x.vbase d, seq := now }] }
  else
    let w ← operands .none (.src a) .none [(7, 1)]
    let now := (← get).clock
    modMe fun y => { y with q7 := y.q7 ++ [{ fn := fn, typ := ty, ftz := x.fpEnv.ftz, src := w.a.toNat % 2 ^ laneBits ty, seq := now }] }

/-- SEXP2 (R221). -/
def execSexp2 (v t d a k : Nat) (s : State) : Out := finish (sfuPush .exp2 v t d a k) s

/-- SLOG2 (R221). -/
def execSlog2 (v t d a k : Nat) (s : State) : Out := finish (sfuPush .log2 v t d a k) s

/-- SRCP (R221). -/
def execSrcp (v t d a k : Nat) (s : State) : Out := finish (sfuPush .rcp v t d a k) s

/-- SRSQ (R221). -/
def execSrsq (v t d a k : Nat) (s : State) : Out := finish (sfuPush .rsq v t d a k) s

/-- SSIN (R221). -/
def execSsin (v t d a k : Nat) (s : State) : Out := finish (sfuPush .sin v t d a k) s

/-- SCOS (R221). -/
def execScos (v t d a k : Nat) (s : State) : Out := finish (sfuPush .cos v t d a k) s

/-- STANH (R221). -/
def execStanh (v t d a k : Nat) (s : State) : Out := finish (sfuPush .tanh v t d a k) s

/-- SSIG (R221). -/
def execSsig (v t d a k : Nat) (s : State) : Out := finish (sfuPush .sig v t d a k) s

/-- One value of a request (R222). -/
def SfuSlot.value (q : SfuSlot) (code : Nat) : Nat × FlagBits :=
  let f := fmtOf q.typ
  f.sfu q.fn q.ftz (f.read q.ftz code)

/-- The lanes of a vector request. -/
def SfuSlot.lanes (q : SfuSlot) : LaneOut :=
  let w := laneBits q.typ
  lanesOf (laneCount q.typ) q.mask fun i => q.value (q.src / 2 ^ (w * i) % 2 ^ w)

/-- The word a request leaves in its place (R221, R223). -/
def SfuSlot.result (q : SfuSlot) : PWord :=
  if q.fn = .ident then ⟨wd q.src, []⟩
  else if q.vec then ⟨wd (2 ^ 63 + q.dnum), flagLanes q.lanes⟩
  else
    let r := q.value q.src
    ⟨wd r.1, if r.2 = 0#5 then [] else [(0, r.2)]⟩

/-- The first request in a list that has no result is served. -/
def serveSlot : List SfuSlot → List SfuSlot
  | [] => []
  | q :: t => if q.done.isSome then q :: serveSlot t else { q with done := some q.result } :: t

/-- The request of a core served next: of its contexts the one that was pushed first; R223 orders the cores alone. Mark: DESIGN CHOICE (log
entry 125). -/
def Core.nextSfu (k : Core) : Option (Nat × SfuSlot) :=
  (k.ctxs.filterMap fun p => (p.2.q7.find? fun q => q.done.isNone).map fun q => (p.1, q)).foldl
    (fun a p => match a with
      | none => some p
      | some o => if p.2.seq < o.2.seq then some p else some o) none

/-- SFU_RESULT (R71, R223): the unit serves one request of the next core of its cluster that has one and that it serves.
A vector request writes its active lanes; the result of a task that has ended is discarded. -/
def execSfuResult (cluster : Nat) (s : State) : Out :=
  let at_ := (s.cluster cluster).sfuAt
  let order := ((List.range 16).map fun i => cluster * 16 + (at_ + i) % 16).filter s.served
  match order.findSome? fun c => (s.core c).nextSfu.map fun p => (c, p) with
  | none => .next s
  | some (c, n, q) =>
    let s := s.modCluster cluster fun k => { k with sfuAt := (c % 16 + 1) % 16 }
    .next (s.modCore c fun k =>
      let k := if q.vec then k.setRow q.drow (putLanes (laneBits q.typ) (k.row q.drow) q.lanes) else k
      k.setCtx n { k.ctx n with q7 := if 16 ≤ n then (k.ctx n).q7.filter fun r => r != q else serveSlot (k.ctx n).q7 })

/-- The bytes of a loop descriptor's records (R225). -/
def lsRecBytes (head : List Byte) : Nat := 32 * (byteAt head 12 + byteAt head 13)

/-- Whether a loop descriptor's header is malformed (R225). -/
def lsBad (b : List Byte) : Bool :=
  let cw := byteAt b 12
  let mw := byteAt b 13
  let depth := byteAt b 14
  decide (cw + mw = 0) || decide (4 < cw) || decide (4 < mw) || decide (depth = 0) || decide (16 < depth)
    || decide (2 ^ 48 ≤ fieldAt b 0 4 * fieldAt b 4 4 * fieldAt b 8 4) || decide (fieldAt b 24 8 % 8 ≠ 0)

/-- A loop descriptor from its bytes (R225). -/
def LsDesc.parse (b : List Byte) : LsDesc :=
  { n0 := fieldAt b 0 4, n1 := fieldAt b 4 4, n2 := fieldAt b 8 4, cw := byteAt b 12, mw := byteAt b 13, depth := byteAt b 14,
    mwait := byteAt b 15 % 2 == 1, tag := fieldAt b 16 2, endsig := fieldAt b 24 8,
    recs := (List.range (byteAt b 12 + byteAt b 13)).map fun k =>
      let o := 32 + 32 * k
      ⟨fieldAt b o 8, fieldAt b (o + 8) 8, fieldAt b (o + 16) 8, fieldAt b (o + 24) 8⟩ }

/-- The iterations of a run (R226). -/
def LsDesc.total (d : LsDesc) : Nat := d.n0 * d.n1 * d.n2

/-- The words of iteration j: those of the copy records first (R226). -/
def LsDesc.words (d : LsDesc) (j : Nat) : List Word :=
  let i0 := j % d.n0
  let i1 := j / d.n0 % d.n1
  let i2 := j / (d.n0 * d.n1) % d.n2
  d.recs.map fun r => wd (r.t + i0 * r.i0 + i1 * r.i1 + i2 * r.i2)

/-- LSRUN (R227). -/
def execLsrun (a : Nat) (s : State) : Out :=
  finish (do
    let tainted := (← getMe).tainted a
    let v ← operands .none (.src a) .none [(6, 1)]
    let at_ := v.a.toNat
    let w ← checkAccess at_ 32 32
    let stamp := (← getMe).stampFor tainted
    let head ← loadWin stamp w at_ 32
    if lsBad head then trapM tLoopseq
    let n := lsRecBytes head
    let w ← checkAccess (at_ + 32) n 1
    let recs ← loadWin stamp w (at_ + 32) n
    let now := (← get).clock
    modMe fun x => { x with q6 := x.q6 ++ [⟨v.a, some (head ++ recs), now, x.vbase⟩] }) s

/-- The active run of a context. -/
def Core.runOf (k : Core) (ctx : Nat) : Option (Nat × LsRun) := k.runs.first fun _ r => r.ctx == ctx

/-- LSSTOP (R228). -/
def execLsstop (s : State) : Out :=
  finish (do
    let _ ← operands .none .none .none
    modMe fun x => { x with q6 := [] }
    modify fun s => s.dropReads fun n => n == unitName 11 (s.cur.core * 2 ^ 20 + s.cur.ctx)
    modify fun s => s.modMyCore fun k =>
      { k with runs := k.runs.map fun _ r => if r.ctx = s.cur.ctx then { r with stopped := true } else r }) s

/-- The snapshot of R229. INUSE is 0 while R exceeds c, as in a run without copies. Mark: DESIGN CHOICE (log entry 120). -/
def State.lsWord (s : State) (core ctx : Nat) : Word :=
  let k := s.core core
  let last := k.lsLast.get {} ctx
  let queued := (k.ctx ctx).q6.length
  match k.runOf ctx with
  | some (_, r) =>
    wd ((if r.stopped || r.failed then 2 else 1) + last.status * 2 ^ 2 + queued % 16 * 2 ^ 4 + (r.c - r.retired) % 32 * 2 ^ 8
      + r.desc.tag * 2 ^ 16 + r.retired % 2 ^ 32 * 2 ^ 32)
  | none => wd (last.status * 2 ^ 2 + queued % 16 * 2 ^ 4 + last.tag * 2 ^ 16 + last.retired % 2 ^ 32 * 2 ^ 32)

/-- LSSTAT (R229). -/
def execLsstat (d : Nat) (s : State) : Out :=
  finish (do
    let _ ← operands (.dst d) .none .none
    let s ← get
    writeX d (s.lsWord s.cur.core s.cur.ctx)) s

/-- A descriptor read when its run starts: by a push of another instruction (R227). -/
def State.lsRead (s : State) (core ctx : Nat) (a n : Nat) : URes (List Byte) × State :=
  let x := s.ctx core ctx
  match s.steer core x a n with
  | none => (.fail stAperture, s)
  | some .glob => s.unitRead (unitName 11 (core * 2 ^ 20 + ctx)) (dieOf core) (some (clusterOf core)) x.part x.job a n
  | some w => (.ok (s.localBytes core x w a n), s)

/-- The descriptor of a run that starts; of a malformed one its header alone. -/
def State.lsLoad (s : State) (core ctx : Nat) (p : LsPush) : URes (List Byte) × State :=
  match p.copy with
  | some b => (.ok b, s)
  | none =>
    if p.addr.toNat % 32 ≠ 0 then (.fail stAlign, s)
    else match s.lsRead core ctx p.addr.toNat 32 with
      | (.ok head, s) =>
        if lsBad head then (.ok head, s)
        else match s.lsRead core ctx (p.addr.toNat + 32) (lsRecBytes head) with
          | (.ok recs, s) => (.ok (head ++ recs), s)
          | z => z
      | z => z

/-- The record of a run that ends with FAULT: its TAG, and 0 where its descriptor could not be read (R227, R229). Mark: DESIGN CHOICE
(log entry 94). -/
def State.lsFault (s : State) (core ctx tag : Nat) : State :=
  s.modCore core fun k => { k with lsLast := if 16 ≤ ctx then k.lsLast else k.lsLast.set ctx { status := 3, tag := tag } }

/-- LS_RUN_START (R227): the oldest run of a context that has none active starts in a free place of its core, with VBASE as it stood
when it was pushed (R199, R305). -/
def execLsRunStart (core ctx : Nat) (s : State) : Out :=
  let k := s.core core
  let x := k.ctx ctx
  match x.q6, (List.range 4).find? fun n => (k.runs.find n).isNone with
  | p :: _, some n =>
    if (k.runOf ctx).isSome ∨ s.released core ctx 4 p.since = false then .next s
    else
      let pop := fun (s : State) => s.modCtx core ctx fun x => { x with q6 := x.q6.drop 1 }
      match s.lsLoad core ctx p with
      | (.wait, s) => .next s
      | (.fail _, s) => .next ((pop s).lsFault core ctx 0)
      | (.ok b, s) =>
        if lsBad b then .next ((pop s).lsFault core ctx (fieldAt b 16 2))
        else
          let r : LsRun := { ctx := ctx, part := x.part, job := x.job, lid := x.lid, lgen := x.lgen, desc := .parse b, vbase := p.vbase }
          .next ((pop s).modCore core fun k => { k with runs := k.runs.set n r })
  | _, _ => .next s

/-- Whether a run may emit its next copy or matrix command (R226). -/
def LsRun.emits (r : LsRun) (isCopy : Bool) : Bool :=
  let d := r.desc
  !r.stopped && !r.failed && decide (r.retired < d.total)
    && (if isCopy then decide (0 < d.cw) && decide (r.c < d.total) && decide (r.c - r.retired < d.depth)
        else decide (0 < d.mw) && decide (r.m < d.total) && decide (r.m - r.retired < d.depth)
          && (d.cw == 0 || !d.mwait || decide (r.m < r.retired) || r.copied.contains r.m))

/-- LS_EMIT (R226): a CPYL counts on its launch (R91). Words that are not the three of a copy command make a malformed command, of which no
LANDING message comes (R280), and count nothing. -/
def execLsEmit (core run : Nat) (isCopy : Bool) (s : State) : Out :=
  match (s.core core).runs.find run with
  | none => .next s
  | some r => stepIf (r.emits isCopy) (fun s =>
      let j := if isCopy then r.c else r.m
      let ws := r.desc.words j
      let mine := if isCopy then ws.take r.desc.cw else ws.drop r.desc.cw
      let r' := if isCopy then { r with c := j + 1, copyQ := r.copyQ ++ [(j, mine)] }
        else { r with m := j + 1, mxQ := r.mxQ ++ [(j, mine)] }
      let s := s.modCore core fun k => { k with runs := k.runs.set run r' }
      let n := if isCopy && mine.length == 3 then landings (mine.map fun w => (w, 0, 0)) else 0
      if n = 0 then s else s.count ⟨r.part, r.lid, r.lgen⟩ core (· + n)) s

/-- The run of retired iterations from a count on: both commands of each are done (R226). -/
def retireFrom (d : LsDesc) (copied multiplied : List Nat) : Nat → Nat → Nat
  | 0, r => r
  | fuel + 1, r =>
    if (d.cw == 0 || copied.contains r) && (d.mw == 0 || multiplied.contains r) then retireFrom d copied multiplied fuel (r + 1) else r

/-- A completion taken by its run: an iteration whose commands have all completed retires, whatever they report; one that reports
failure sets failed (R226). -/
def LsRun.hear (r : LsRun) (j : Nat) (isCopy ok : Bool) : LsRun :=
  let copied := if isCopy then r.copied ++ [j] else r.copied
  let multiplied := if isCopy then r.multiplied else r.multiplied ++ [j]
  let n := retireFrom r.desc copied multiplied 17 r.retired
  { r with retired := n, copied := copied.filter (n ≤ ·), multiplied := multiplied.filter (n ≤ ·), failed := r.failed || !ok,
           ended := r.ended.filter fun e => !(e.1 == j && e.2.1 == isCopy) }

/-- LS_COMPLETION (R226). -/
def execLsCompletion (core run j : Nat) (isCopy : Bool) (s : State) : Out :=
  match (s.core core).runs.find run with
  | none => .next s
  | some r => match r.ended.find? fun e => e.1 == j && e.2.1 == isCopy with
    | none => .next s
    | some e => .next (s.modCore core fun k => { k with runs := k.runs.set run (r.hear j isCopy e.2.2) })

/-- Whether commands of a run are still with an engine. -/
def State.runBusy (s : State) (core run : Nat) (r : LsRun) : Bool :=
  let cl := s.cluster (clusterOf core)
  !r.copyQ.isEmpty || !r.mxQ.isEmpty || !r.ended.isEmpty
    || (cl.copies.any fun c => c.core == core && (c.ls.any fun l => l.1 == run))
    || (cl.mx.any fun p => p.1 == core && (p.2.ls.any fun l => l.1 == run))

/-- The end status of a run: FAIL where a command failed, else STOPPED where LSSTOP stopped it, whatever has retired by then (R228), else
OK. The spec does not say which of a failure and a stop a run with both ends with. Mark: DESIGN CHOICE (log entry 94). -/
def LsRun.endStatus (r : LsRun) : Nat := if r.failed then 1 else if r.stopped then 2 else 0

/-- LS_RUN_END (R226, R460): a run with nothing more to emit and nothing outstanding acts on ENDSIG and leaves its end status. -/
def execLsRunEnd (core run : Nat) (s : State) : Out :=
  match (s.core core).runs.find run with
  | none => .next s
  | some r =>
    if !(decide (r.retired = r.desc.total) || r.stopped || r.failed) || s.runBusy core run r then .next s
    else
      let status := r.endStatus
      match s.sigAct (unitName 11 (core * 2 ^ 20 + 16 + run)) (dieOf core) r.part r.job .run r.desc.endsig (status == 1) 1 0 with
      | (.wait, s) => .next s
      | (_, s) => .next (s.modCore core fun k =>
          { k with runs := k.runs.del run,
                   lsLast := if 16 ≤ r.ctx then k.lsLast
                     else k.lsLast.set r.ctx { status := status, tag := r.desc.tag, retired := r.retired } })

end Sys2Proof.Machine
end

