-- ==== Sys2Proof/Machine/Matrix.lean ====
section
/-! DEFINITION. The matrix unit: format contexts, rings, the commands it takes, the groups it applies, and cooperations (R292 to
R321). -/

namespace Sys2Proof.Machine

/-- The valid format contexts (R296). -/
def fmtValid (a b c : Nat) : Bool :=
  let narrow := fun t => isNarrowFP t || t == 0x10 || t == 0x11
  if c = 0 then (narrow a && narrow b) || (a == 8 && b == 8) || ((a == 2 || a == 3) && (b == 2 || b == 3)) else a == 8 && b == 8

/-- The bits of an element in memory, the elements of a group, and the data and scale bytes of a vector in a group (R172, R185,
R296). -/
def elemBits (t : Nat) : Nat := if t = 2 ∨ t = 3 then 16 else if t = 0x10 ∨ t = 0x11 then 4 else if t = 8 then 8 else fmtBits t
@[inherit_doc elemBits] def groupLen (t c : Nat) : Nat := if t = 2 ∨ t = 3 ∨ c = 1 then 16 else 32
@[inherit_doc elemBits] def dataBytes (t c : Nat) : Nat := groupLen t c * elemBits t / 8
@[inherit_doc elemBits] def scaleBytes (t c : Nat) : Nat := if t = 2 ∨ t = 3 ∨ c = 1 then 0 else 1

/-- A vector's group: its elements and the exponent of its scale, none for the NaN scale (R170, R171). -/
structure GVec where
  elems : List FV
  scale : Option Int := some 0
  deriving DecidableEq, Repr

/-- A product of two elements, exact (R185, R186). -/
def FV.times (a b : FV) : FV :=
  if a.isNan || b.isNan || (a.isZero && b.isInf) || (a.isInf && b.isZero) then .nan false
  else match a, b with
    | .fin m x e, .fin n y f => .fin (m != n) (x * y) (e + f)
    | _, _ => .inf (a.neg != b.neg)

/-- A group's contribution p (R185, R186). -/
def contribution (a b : GVec) : FV :=
  let ps := (a.elems.zip b.elems).map fun p => p.1.times p.2
  let up := ps.any fun v => v.isInf && !v.neg
  let down := ps.any fun v => v.isInf && v.neg
  match a.scale, b.scale with
  | some x, some y =>
    if (ps.any FV.isNan) || (up && down) then .nan false
    else if up || down then .inf down
    else
      let q : Int := ps.foldl (fun m v => min m v.exp) 0
      let n : Int := ps.foldl (fun t v => t + v.units q) 0
      .fin (decide (n < 0)) n.natAbs (q + x + y)
  | _, _ => .nan false

/-- An FP32 accumulator after a group, with the flags NV and OF of R308 (R185, R186). -/
def accFloat (c : Nat) (p : FV) : Nat × Nat :=
  let f := FFmt.f32
  let v := f.decode c
  if v.isNan || p.isNan || (v.isInf && p.isInf && v.neg != p.neg) then (f.dnan, 1)
  else
    let r := f.add .rne false v p
    (r.1, if r.2 &&& flagOF = 0#5 then 0 else 2)

/-- The integer of an exact element. -/
def FV.int : FV → Int
  | .fin n m e => (if n then -1 else 1) * (m * 2 ^ e.toNat : Nat)
  | _ => 0

/-- An INT32 accumulator after a group, with the flag IOVF of R308 (R187). -/
def accInt (c : Nat) (a b : GVec) : Nat × Nat :=
  let x := intVal true 32 c + (a.elems.zip b.elems).foldl (fun t p => t + p.1.int * p.2.int) 0
  (intPat 32 x, if x < -(2 ^ 31) ∨ 2 ^ 31 ≤ x then 4 else 0)

/-- A group applied to a tile of results: row m takes vector m of A, lane n vector n of B (R311). -/
def applyGroup (ctype : Nat) (acc : List (List Nat)) (a b : List GVec) : List (List Nat) × Nat :=
  let rows := (acc.zip a).map fun p => (p.1.zip b).map fun q =>
    if ctype = 1 then accInt q.1 p.2 q.2 else accFloat q.1 (contribution p.2 q.2)
  (rows.map fun r => r.map (·.1), rows.flatten.foldl (fun f v => f ||| v.2) 0)

/-- An element as the matrix unit reads it: under INT32 accumulation an INT8 is a plain integer (R171, R173, R187). -/
def matrixElem (t c : Nat) (table : List Int) (code : Nat) : FV :=
  if c = 1 then
    let v := intVal true 8 code
    .fin (decide (v < 0)) v.natAbs 0
  else elemValue t table code

/-- Group j of an operand with V vectors, read from a ring whose head was h as the command started (R172, R301). -/
def State.groupAt (s : State) (core ctx : Nat) (g : Ring) (h t c V j : Nat) (table : List Int) : List GVec :=
  let r := s.resvOf core (s.ctx core ctx)
  let bb := dataBytes t c
  let sb := scaleBytes t c
  let at_ := r.spBase + (g.slotAddr (h + j / g.gps) - Config.spWin) + j % g.gps * V * (bb + sb)
  let w := elemBits t
  (List.range V).map fun v =>
    let bits := (s.core core).sp.num (at_ + v * bb) bb
    { elems := (List.range (groupLen t c)).map fun i => matrixElem t c table (bits / 2 ^ (w * i) % 2 ^ w)
      scale := if sb = 0 then some 0 else e8m0Exp ((s.core core).sp.num (at_ + V * bb + v) 1) }

/-- The fields of a command header (R305). -/
def mxOp (h : Word) : Nat := wbits h 3 0
@[inherit_doc mxOp] def mxCrow (h : Word) : Nat := wbits h 14 8
@[inherit_doc mxOp] def mxM (h : Word) : Nat := 8 * (wbits h 19 16 + 1)
@[inherit_doc mxOp] def mxN (h : Word) : Nat := 8 * (wbits h 22 20 + 1)
@[inherit_doc mxOp] def mxKg (h : Word) : Nat := wbits h 47 32

/-- The statuses of R308. -/
def mxMalformed : Nat := 1
@[inherit_doc mxMalformed] def mxFmt : Nat := 2
@[inherit_doc mxMalformed] def mxRing : Nat := 3
@[inherit_doc mxMalformed] def mxRowbound : Nat := 4
@[inherit_doc mxMalformed] def mxMismatch : Nat := 5
@[inherit_doc mxMalformed] def mxBadgroup : Nat := 6
@[inherit_doc mxMalformed] def mxCoopTimeout : Nat := 7
@[inherit_doc mxMalformed] def mxAbandoned : Nat := 8
@[inherit_doc mxMalformed] def mxAperture : Nat := 9
@[inherit_doc mxMalformed] def mxAlign : Nat := 10

/-- The cause of the trap that a check takes at issue, by its status (R307). -/
def mxCause (status : Nat) : Nat :=
  if status = mxFmt then tFmt else if status = mxRing then tRing else if status = mxRowbound then tRowbound
  else if status = mxAlign then tAlign else tAperture

/-- The result rows that a command bounds at issue and at take (R307). -/
def mxRows (h : Word) : Nat :=
  match mxOp h with
  | 1 => mxM h
  | 2 => mxM h
  | 4 => mxM h
  | 6 => mxM h
  | 5 => 1
  | _ => 0

/-- The checks of R307 that are made at issue and at take, in its order: the status of the first that fails. -/
def State.mxCheck (s : State) (core ctx : Nat) (x : Ctx) (h w : Word) : Option Nat :=
  let op := mxOp h
  let rings := ((s.core core).mx.get {} ctx).rings
  let badRing := (mxReads (core % 16) h w).any fun r => (rings.find r.1).all fun g =>
    r.2.2 && decide (g.gps * g.nslot < mxKg h)
  let r := s.resvOf core x
  if (mxWords op).isNone then some mxMalformed
  else if op ≤ 5 ∧ mxKg h = 0 then some mxFmt
  else if op = 7 ∧ fmtValid (wbits h 12 8) (wbits h 17 13) (wbits h 18 18) = false then some mxFmt
  else if op = 2 ∧ (wbit w (core % 16) = false ∨ wbit w (wbits w 19 16) = false) then some mxFmt
  else if badRing then some mxRing
  else if 0 < mxRows h ∧ x.rows < mxCrow h + mxRows h then some mxRowbound
  else if op = 4 ∧ w.toNat % 2 ≠ 0 then some mxAlign
  else if op = 4 ∧ Machine.steer r.spBytes r.stkBytes w.toNat (2 * mxM h) ≠ some .scratch then some mxAperture
  else none

/-- The checks of R307 that are made only at take, and for an MMAC when its cooperation starts (R301, R314). -/
def State.mxLate (s : State) (core ctx : Nat) (x : Ctx) (f : FmtCtx) (h w : Word) : Option Nat :=
  let rings := ((s.core core).mx.get {} ctx).rings
  let k := mxKg h * groupLen f.btype f.ctype
  let bad := (mxReads (core % 16) h w).any fun r => (rings.find r.1).any fun g =>
    let t := if r.2.1 then f.atype else f.btype
    let v := if r.2.1 then mxM h else mxN h
    decide (g.slotsz < g.gps * v * (dataBytes t f.ctype + scaleBytes t f.ctype)) || decide (mxKg h % g.gps ≠ 0)
  if mxOp h = 3 ∧ 128 < k then some mxFmt
  else if mxOp h = 3 ∧ x.rows < mxCrow h + k then some mxRowbound
  else if bad then some mxRing
  else none

/-- A command at the head of a stream that the unit could take (R292, R306). -/
structure MxHead where
  ctx : Nat
  header : Word
  extra : List Word
  vbase : Nat
  /-- Its words are as many as its OP has. -/
  whole : Bool
  ls : Option (Nat × Nat)
  deriving DecidableEq, Repr

/-- The command at the head of a stream; one of a sequencer with a wrong number of words is malformed. A core that the cluster's unit
does not serve has none (R71). -/
def State.mxHead (s : State) (core : Nat) (st : Stream) : Option MxHead :=
  if !s.served core then none else match st with
  | .ctx c =>
    match (s.ctx core c).q2 with
    | [] => none
    | (h, vb, _) :: rest => match mxWords (mxOp h) with
      | none => some ⟨c, h, [], vb, false, none⟩
      | some n => if rest.length + 1 < n then none else some ⟨c, h, (rest.take (n - 1)).map (·.1), vb, true, none⟩
  | .run r =>
    match (s.core core).runs.find r with
    | none => none
    | some u => match u.mxQ with
      | [] => none
      | (j, ws) :: _ =>
        let h := ws.headD 0#64
        some ⟨u.ctx, h, ws.drop 1, u.vbase, mxWords (mxOp h) == some ws.length, some (r, j)⟩

/-- The command leaves its stream. -/
def State.mxPop (s : State) (core : Nat) (st : Stream) (h : MxHead) : State :=
  match st with
  | .ctx c => s.modCtx core c fun x => { x with q2 := x.q2.drop (1 + h.extra.length) }
  | .run r => s.modCore core fun k => { k with runs := match k.runs.find r with
      | some u => k.runs.set r { u with mxQ := u.mxQ.drop 1 }
      | none => k.runs }

/-- The taken command of a stream, and a change of it. -/
def State.mxCmd (s : State) (core : Nat) (st : Stream) : Option MxCmd :=
  ((s.cluster (clusterOf core)).mx.find? fun p => p.1 == core && p.2.stream == st).map (·.2)
def State.modMx (s : State) (core : Nat) (st : Stream) (f : MxCmd → MxCmd) : State :=
  s.modCluster (clusterOf core) fun k => { k with mx := k.mx.map fun p => if p.1 == core && p.2.stream == st then (p.1, f p.2) else p }
def State.dropMx (s : State) (core : Nat) (st : Stream) : State :=
  s.modCluster (clusterOf core) fun k => { k with mx := k.mx.filter fun p => !(p.1 == core && p.2.stream == st) }

/-- Sticky flags of a context (R308). -/
def State.mxFlags (s : State) (core ctx f : Nat) : State :=
  s.modCore core fun k =>
    let m := k.mx.get {} ctx
    { k with mx := k.mx.set ctx { m with fl := m.fl ||| f } }

/-- A completion leaves the unit: to the sequencer, to q3 once it has room, or to nobody for a task that has ended and for a quiet
success (R148, R308). The flags of a command with QUIET = 1 enter the context's matrix status here, a sequencer's too; those of a
sequencer's other commands, whose words no context pops, enter it never. Mark: DESIGN CHOICE (log entry 96). -/
def State.mxDeliver (s : State) (core : Nat) (st : Stream) : State :=
  match s.mxCmd core st with
  | none => s
  | some c => match c.done with
    | none => s
    | some w =>
      let ok := wbits w 7 0 == 0
      match c.ls with
      | some (r, j) =>
        let t := if wbit c.header 7 then s.mxFlags core c.ctx c.flags else s
        (t.dropMx core st).tellRun core r j false ok
      | none =>
        if 16 ≤ c.ctx then s.dropMx core st
        else if ok && wbit c.header 7 then (s.dropMx core st).mxFlags core c.ctx c.flags
        else if (s.ctx core c.ctx).q3.length < 8 then
          (s.dropMx core st).modCtx core c.ctx fun x => { x with q3 := x.q3 ++ [w] }
        else s

/-- A command has ended with a status (R308). -/
def State.mxDone (s : State) (core : Nat) (st : Stream) (status : Nat) : State :=
  (s.modMx core st fun c =>
    let op := mxOp c.header
    let steps := if status = 0 ∧ 1 ≤ op ∧ op ≤ 5 then mxKg c.header else 0
    { c with done := some (wd (status + op * 2 ^ 8 + c.flags * 2 ^ 12 + wbits c.header 63 48 * 2 ^ 16 + steps * 2 ^ 32)) }).mxDeliver
    core st

/-- The result rows of a command as they stand, or its zeros (R305, R311). -/
def State.mxStart (s : State) (core : Nat) (c : MxCmd) (m : Nat) : List (List Nat) :=
  let x := s.ctx core c.ctx
  (List.range m).map fun i =>
    let row := (s.core core).row (x.rowIdx c.vbase (mxCrow c.header + i))
    (List.range (mxN c.header)).map fun n => if wbit c.header 4 && mxOp c.header != 6 then laneAt 32 row n else 0

/-- A finished command's result enters its rows (R199, R305). -/
def State.mxStore (s : State) (core : Nat) (c : MxCmd) : State :=
  let x := s.ctx core c.ctx
  s.modCore core fun k => ((List.range c.acc.length).zip c.acc).foldl (fun k p =>
    let i := x.rowIdx c.vbase (mxCrow c.header + p.1)
    k.setRow i (putLanes 32 (k.row i) (p.2.map fun v => some (v, 0#5)))) k

/-- The rows of a command's result (R317). -/
def MxCmd.height (c : MxCmd) : Nat :=
  match mxOp c.header with
  | 3 => mxKg c.header * groupLen c.fmt.btype c.fmt.ctype
  | 5 => 1
  | _ => mxM c.header

/-- The steps of a command are due to begin: its rings' heads are noted and its rows read (R301, R311, R319). -/
def State.mxBegin (s : State) (core : Nat) (st : Stream) : State :=
  match s.mxCmd core st with
  | none => s
  | some c =>
    let rings := ((s.core core).mx.get {} c.ctx).rings
    let head := fun n => ((rings.find n).map (·.h)).getD 0
    let x := s.ctx core c.ctx
    let perm := if mxOp c.header = 4 then
        (List.range (mxM c.header)).map fun i =>
          leNat (s.localBytes core x .scratch ((c.extra.headD 0#64).toNat + 2 * i) 2)
      else []
    s.modMx core st fun c => { c with ha := head (wbits c.header 26 24), hb := head (wbits c.header 29 27), perm := perm,
                                      acc := s.mxStart core c c.height }

/-- The forming place that an MMAC takes: one it joins or a free one (R313). -/
def State.coopPlace (s : State) (core : Nat) (key : LKey) (gid : Nat) : Option Nat :=
  let t := (s.cluster (clusterOf core)).coops
  match t.first fun n o => decide (n < 4) && LKey.mk o.part o.lid o.lgen == key && o.gid == gid with
  | some (n, o) => if o.members.any fun m => m.1 == core then none else some n
  | none => (List.range 4).find? fun n => (t.find n).isNone

/-- The taken commands of a cooperation: core, stream and command. -/
def State.coopCmds (s : State) (cl n : Nat) : List (Nat × Stream × MxCmd) :=
  (s.cluster cl).mx.filterMap fun p => if p.2.coop = some n ∧ p.2.done = none then some (p.1, p.2.stream, p.2) else none

/-- Every member of a cooperation ends with a status, and its place is free. -/
def State.coopFail (s : State) (cl n status : Nat) : State :=
  let all := s.coopCmds cl n
  all.foldl (fun s m => s.mxDone m.1 m.2.1 status) (s.modCluster cl fun k => { k with coops := k.coops.del n })

/-- The checks of R314 on a cooperation that starts: the status of the first that fails. -/
def State.coopCheck (s : State) (o : Coop) (all : List (Nat × Stream × MxCmd)) : Option Nat :=
  let key : LKey := ⟨o.part, o.lid, o.lgen⟩
  let word := fun (c : MxCmd) => c.extra.headD 0#64
  let same := match all with
    | [] => true
    | (_, _, a) :: t => t.all fun (_, _, b) =>
      wbits (word a) 19 0 == wbits (word b) 19 0 && wbits a.header 22 16 == wbits b.header 22 16 && mxKg a.header == mxKg b.header
        && a.fmt.atype == b.fmt.atype && a.fmt.btype == b.fmt.btype && a.fmt.ctype == b.fmt.ctype
  if !(all.all fun (core, _, _) => ((s.core core).resv key).isSome && s.partOf core == some o.part) then some mxBadgroup
  else if !same then some mxMismatch
  else all.findSome? fun (core, _, c) => s.mxLate core c.ctx (s.ctx core c.ctx) c.fmt c.header (word c)

/-- A cooperation whose members have all joined starts, under a number of its own, and its forming place is free (R313, R314). -/
def State.coopStart (s : State) (cl n : Nat) : State :=
  match (s.cluster cl).coops.find n with
  | none => s
  | some o =>
    let there := (List.range 16).all fun i => !(o.parts / 2 ^ i % 2 == 1) || o.members.any fun m => m.1 % 16 == i
    if !there then s
    else
      let all := s.coopCmds cl n
      match s.coopCheck o all with
      | some st => s.coopFail cl n st
      | none =>
        let k := (s.cluster cl).coops.foldl (fun m p => max m p.1) 3 + 1
        let s := s.modCluster cl fun c =>
          { c with coops := (c.coops.del n).set k { o with started := true },
                   mx := c.mx.map fun p => if p.2.coop = some n then (p.1, { p.2 with coop := some k }) else p }
        all.foldl (fun s m => s.mxBegin m.1 m.2.1) s

/-- A command leaves its stream and is with the unit. -/
def State.mxAdd (s : State) (core : Nat) (st : Stream) (h : MxHead) (coop : Option Nat) : State :=
  let x := s.ctx core h.ctx
  let c : MxCmd := { stream := st, part := x.part, lid := x.lid, lgen := x.lgen, ctx := h.ctx, header := h.header, extra := h.extra,
                     fmt := (s.core core).fmt, vbase := h.vbase, coop := coop, ls := h.ls }
  (s.mxPop core st h).modCluster (clusterOf core) fun k => { k with mx := k.mx ++ [(core, c)] }

/-- An MMAC that has passed its checks joins or opens a cooperation (R313). -/
def State.coopJoin (s : State) (core : Nat) (st : Stream) (h : MxHead) (n : Nat) : State :=
  let x := s.ctx core h.ctx
  let w := h.extra.headD 0#64
  let cl := clusterOf core
  let o := ((s.cluster cl).coops.find n).getD
    { part := x.part, lid := x.lid, lgen := x.lgen, gid := wbits w 31 24, parts := wbits w 15 0, opened := s.clock }
  let s := s.mxAdd core st h (some n)
  (s.modCluster cl fun k => { k with coops := k.coops.set n { o with members := o.members ++ [(core, st)] } }).coopStart cl n

/-- A command is taken and checked (R292, R307). What reads no operand ends at once. -/
def State.mxTake (s : State) (core : Nat) (st : Stream) (h : MxHead) : State :=
  let x := s.ctx core h.ctx
  let w := h.extra.headD 0#64
  let op := mxOp h.header
  let place := s.coopPlace core x.lkey (wbits w 31 24)
  if op = 2 ∧ h.whole = true ∧ place = none then s
  else
    let late := if op = 2 then none else s.mxLate core h.ctx x (s.core core).fmt h.header w
    match if !h.whole then some mxMalformed else (s.mxCheck core h.ctx x h.header w).orElse fun _ => late with
    | some bad => (s.mxAdd core st h none).mxDone core st bad
    | none =>
      match op with
      | 2 => s.coopJoin core st h (place.getD 0)
      | 6 =>
        let s := (s.mxAdd core st h none).mxBegin core st
        ((s.mxCmd core st).elim s fun c => s.mxStore core c).mxDone core st 0
      | 7 => ((s.mxAdd core st h none).modCore core fun k =>
          { k with fmt := { k.fmt with atype := wbits h.header 12 8, btype := wbits h.header 17 13,
                                       ctype := wbits h.header 18 18 } }).mxDone core st 0
      | 8 =>
        let bytes := h.extra.flatMap fun w => leBytes 8 w.toNat
        ((s.mxAdd core st h none).modCore core fun k =>
          { k with fmt := { k.fmt with table := bytes.map fun b => intVal true 8 b.toNat } }).mxDone core st 0
      | _ => (s.mxAdd core st h none).mxBegin core st

/-- The unit takes the command at the head of a stream, if it is of the event's kind and the one before it has completed. -/
def mxEvent (core n : Nat) (kind : MxHead → Bool) (s : State) : Out :=
  let st := streamOf n
  let s := s.mxDeliver core st
  match s.mxCmd core st, s.mxHead core st with
  | none, some h => .next (if kind h then s.mxTake core st h else s)
  | _, _ => .next s

/-- A whole command of an operation. -/
def isMx (op : Nat) (h : MxHead) : Bool := h.whole && mxOp h.header == op

/-- MCMD_MMA (R311). -/
def execMcmdMma (core strm : Nat) (s : State) : Out := mxEvent core strm (isMx 1) s

/-- MCMD_MMAC (R313). -/
def execMcmdMmac (core strm : Nat) (s : State) : Out := mxEvent core strm (isMx 2) s

/-- MCMD_MTRN (R317). -/
def execMcmdMtrn (core strm : Nat) (s : State) : Out := mxEvent core strm (isMx 3) s

/-- MCMD_MPERM (R319). -/
def execMcmdMperm (core strm : Nat) (s : State) : Out := mxEvent core strm (isMx 4) s

/-- MCMD_MRED (R317). -/
def execMcmdMred (core strm : Nat) (s : State) : Out := mxEvent core strm (isMx 5) s

/-- MCMD_MZERO (R317). -/
def execMcmdMzero (core strm : Nat) (s : State) : Out := mxEvent core strm (isMx 6) s

/-- MCMD_MCTX (R295). -/
def execMcmdMctx (core strm : Nat) (s : State) : Out := mxEvent core strm (isMx 7) s

/-- MCMD_MLUT (R298). -/
def execMcmdMlut (core strm : Nat) (s : State) : Out := mxEvent core strm (isMx 8) s

/-- MCMD_MALFORMED (R306). -/
def execMcmdMalformed (core strm : Nat) (s : State) : Out := mxEvent core strm (fun h => !h.whole) s

/-- Whether the slots that the next step of a command reads on a side are ready (R300). -/
def State.slotReady (s : State) (core : Nat) (c : MxCmd) (sideA : Bool) : Bool :=
  let n := if sideA then wbits c.header 26 24 else wbits c.header 29 27
  (s.ring core c.ctx n).all fun g => decide ((if sideA then c.ha else c.hb) + c.step / g.gps < g.t)

/-- The member of a cooperation that supplies A. -/
def coopSource (all : List (Nat × Stream × MxCmd)) : Option (Nat × Stream × MxCmd) :=
  all.find? fun m => wbits (m.2.2.extra.headD 0#64) 19 16 == m.1 % 16

/-- Whether a taken command has a ready step that is charged to it (R293, R315). -/
def State.stepReady (s : State) (core : Nat) (c : MxCmd) : Bool :=
  let steps := c.done.isNone && 1 ≤ mxOp c.header && mxOp c.header ≤ 5
  match c.coop with
  | none => steps && mxOp c.header != 2 && s.slotReady core c false && (mxOp c.header != 1 || s.slotReady core c true)
  | some n => steps && decide (4 ≤ n) && wbits (c.extra.headD 0#64) 19 16 == core % 16 && s.slotReady core c true
      && (s.coopCmds (clusterOf core) n).all fun m => s.slotReady m.1 m.2.2 false

/-- The order of a core's streams: contexts by CTXID, then runs (R293). -/
def Stream.rank : Stream → Nat
  | .ctx c => c % 16 * 2 ^ 32 + c / 16
  | .run r => 2 ^ 40 + r

/-- The command whose step runs next: the first core from a pointer on, and in it the first stream (R293). -/
def State.nextStep (s : State) (cl : Nat) : Option (Nat × MxCmd) :=
  let k := s.cluster cl
  let key := fun (p : Nat × MxCmd) =>
    let r := p.2.stream.rank
    (p.1 % 16 + 16 - k.mxAt % 16) % 16 * 2 ^ 64 + (if k.mxStream.get 0 (p.1 % 16) ≤ r then r else 2 ^ 60 + r)
  (k.mx.filter fun p => s.stepReady p.1 p.2).foldl (fun a p => match a with
    | none => some p
    | some o => if key p < key o then some p else some o) none

/-- An operand's group for the next step of a command of a core. -/
def State.operandA (s : State) (core : Nat) (c : MxCmd) : List GVec :=
  let f := c.fmt
  match s.ring core c.ctx (wbits c.header 26 24) with
  | some g => s.groupAt core c.ctx g c.ha f.atype f.ctype (mxM c.header) c.step f.table
  | none => []
@[inherit_doc State.operandA]
def State.operandB (s : State) (core : Nat) (c : MxCmd) : List GVec :=
  let f := c.fmt
  match s.ring core c.ctx (wbits c.header 29 27) with
  | some g => s.groupAt core c.ctx g c.hb f.btype f.ctype (mxN c.header) c.step f.table
  | none => []

/-- Group j of the constant matrix of MTRN, MPERM or MRED (R317). -/
def MxCmd.constA (c : MxCmd) : List GVec :=
  let g := groupLen c.fmt.btype c.fmt.ctype
  let row := fun (one : Nat → Bool) => GVec.mk ((List.range g).map fun i => .fin false (if one (c.step * g + i) then 1 else 0) 0) (some 0)
  match mxOp c.header with
  | 3 => (List.range c.height).map fun m => row fun k => k == m
  | 4 => c.perm.map fun p => row fun k => k == p
  | _ => [row fun _ => true]

/-- The heads of the rings that a command's step has read advance past a slot whose last group is done, unless they are kept; a ring
read on both sides advances once (R311). -/
def State.advance (s : State) (core : Nat) (c : MxCmd) : State :=
  let moves := (mxReads (core % 16) c.header (c.extra.headD 0#64)).filter fun r => !r.2.2
  (moves.map (·.1)).eraseDups.foldl (fun s n => s.modRing core c.ctx n fun g =>
    if c.step % g.gps + 1 = g.gps then { g with h := g.h + 1 } else g) s

/-- One step of a command with its A: the result so far, its flags and its next step; after the last it completes (R308, R311). -/
def State.runStep (s : State) (core : Nat) (c : MxCmd) (a : List GVec) : State :=
  let r := applyGroup c.fmt.ctype c.acc a (s.operandB core c)
  let d := { c with acc := r.1, flags := c.flags ||| r.2, step := c.step + 1 }
  let s := s.modMx core c.stream fun _ => d
  if d.step = mxKg c.header then (s.mxStore core d).mxDone core c.stream 0 else s

/-- MATRIX_STEP (R293, R311, R315): the chosen step runs, for every member of a cooperation; completions that were held go first. -/
def execMatrixStep (cluster : Nat) (s : State) : Out :=
  let s := (s.cluster cluster).mx.foldl (fun s p => s.mxDeliver p.1 p.2.stream) s
  match s.nextStep cluster with
  | none => .next s
  | some (core, c) =>
    let s := s.modCluster cluster fun k =>
      { k with mxAt := (core % 16 + 1) % 16, mxStream := k.mxStream.set (core % 16) (c.stream.rank + 1) }
    match c.coop with
    | none =>
      let a := if mxOp c.header = 1 then s.operandA core c else c.constA
      .next ((s.runStep core c a).advance core c)
    | some n =>
      let all := s.coopCmds cluster n
      let a := s.operandA core c
      let last := decide (c.step + 1 = mxKg c.header)
      let s := all.foldl (fun s m => s.runStep m.1 m.2.2 a) s
      let s := all.foldl (fun s m => s.advance m.1 m.2.2) s
      .next (if last then s.modCluster cluster fun k => { k with coops := k.coops.del n } else s)

/-- COOPTIMEOUT (R316). -/
def execCooptimeout (cluster place : Nat) (s : State) : Out :=
  match (s.cluster cluster).coops.find place with
  | none => .next s
  | some o => stepIf (decide (place < 4) && decide (o.opened + Config.ms 1 ≤ s.clock)) (fun s =>
      s.coopFail cluster place mxCoopTimeout) s

/-- A joined MMAC of a stream whose cooperation has not started is withdrawn, and every other member is abandoned; a run's command is over with
it (R226, R316, R321). -/
def State.withdraw (s : State) (core : Nat) (st : Stream) : State :=
  match s.mxCmd core st with
  | none => s
  | some c => match c.coop with
    | none => s
    | some n =>
      if n < 4 ∧ c.done = none then
        let t := (s.dropMx core st).coopFail (clusterOf core) n mxAbandoned
        match c.ls with
        | some (r, j) => t.tellRun core r j false false
        | none => t
      else s

/-- A matrix command at issue: its checks, and its words in q2 in one push (R307, R310). -/
def mxPush (op q : Nat) (a : Word) (extra : List Word) : M Unit := do
  let h := wd (a.toNat / 2 ^ 8 * 2 ^ 8 + (a.toNat / 16 % 8) * 16 + op + (if q = 1 then 2 ^ 7 else 0))
  let s ← get
  match s.mxCheck s.cur.core s.cur.ctx s.me h (extra.headD 0#64) with
  | some bad => trapM (mxCause bad) (if bad = mxAlign ∨ bad = mxAperture then extra.headD 0#64 else 0#64)
  | none => modMe fun x => { x with q2 := x.q2 ++ (h :: extra).map fun w => (w, x.vbase, s.clock) }

/-- MCTX (R297). -/
def execMctx (q imm : Nat) (s : State) : Out :=
  finish (do
    let _ ← operands .none .none .none [(2, 1)]
      (if 2 ^ 11 ≤ imm then some tIllegal
        else badIf (!fmtValid (imm % 32) (imm / 32 % 32) (imm / 1024)) tFmt)
    let h := wd (7 + (if q = 1 then 2 ^ 7 else 0) + imm * 2 ^ 8)
    let now := (← get).clock
    modMe fun x => { x with q2 := x.q2 ++ [(h, x.vbase, now)] }) s

/-- MLUT (R298). -/
def execMlut (q a : Nat) (s : State) : Out :=
  finish (do
    let tainted := (← getMe).tainted a
    let v ← operands .none (.src a) .none [(2, 3)]
    let w ← checkAccess v.a.toNat 16 8
    let b ← loadWin ((← getMe).stampFor tainted) w v.a.toNat 16
    let h := wd (8 + (if q = 1 then 2 ^ 7 else 0))
    let now := (← get).clock
    modMe fun x => { x with q2 := x.q2 ++ [h, wd (fieldAt b 0 8), wd (fieldAt b 8 8)].map fun w => (w, x.vbase, now) }) s

/-- Whether a ring descriptor is malformed (R299). -/
def ringBad (b : List Byte) : Bool :=
  let base := fieldAt b 0 4
  let slotsz := fieldAt b 4 4
  decide (base % 256 ≠ 0) || decide (slotsz % 64 ≠ 0) || decide (slotsz < 64) || decide (65536 < slotsz)
    || decide (byteAt b 8 < 2) || decide (64 < byteAt b 8) || decide (byteAt b 9 < 1) || decide (16 < byteAt b 9)

/-- Whether a queued or taken command or copy of a context names a ring (R302). -/
def State.ringNamed (s : State) (core ctx n : Nat) : Bool :=
  let k := s.core core
  let x := k.ctx ctx
  let reads := fun (h w : Word) => (mxReads (core % 16) h w).any fun r => r.1 == n
  s.ringTaken core ctx n || ((mxQueued (wholeQ2 x.q2)).any fun p => reads p.1 p.2) || s.ringFilled core ctx n
    || ((k.runs.filter fun p => p.2.ctx == ctx).any fun p => p.2.mxQ.any fun q => reads (q.2.headD 0#64) (q.2.getD 1 0#64))
where
  /-- The headers and second words of whole queued commands. -/
  mxQueued : List (Word × Nat × Nat) → List (Word × Word)
    | [] => []
    | [a] => [(a.1, 0#64)]
    | [a, b] => match (mxWords (mxOp a.1)).getD 1 with
      | 1 => [(a.1, 0#64), (b.1, 0#64)]
      | _ => [(a.1, b.1)]
    | a :: b :: c :: t => match (mxWords (mxOp a.1)).getD 1 with
      | 1 => (a.1, 0#64) :: mxQueued (b :: c :: t)
      | 2 => (a.1, b.1) :: mxQueued (c :: t)
      | _ => (a.1, b.1) :: mxQueued t

/-- MRING (R302). -/
def execMring (a b : Nat) (s : State) : Out :=
  finish (do
    let tainted := (← getMe).tainted b
    let v ← operands .none (.src a) (.src b)
    let s ← get
    let n := v.a.toNat % 8
    let core := s.cur.core
    let ctx := s.cur.ctx
    let put := fun (f : MxCtx → MxCtx) => (modify fun s => s.modMyCore fun k => { k with mx := k.mx.set ctx (f (k.mx.get {} ctx)) } : M Unit)
    if v.b = 0#64 then
      match s.ring core ctx n with
      | none => trapM tRing
      | some g =>
        if s.ringNamed core ctx n ∨ g.f ≠ g.t then trapM tRing
        else put fun m => { m with rings := m.rings.del n }
    else
      if (s.ring core ctx n).isSome then trapM tRing
      let w ← checkAccess v.b.toNat 16 8
      let d ← loadWin ((← getMe).stampFor tainted) w v.b.toNat 16
      if ringBad d then trapM tFmt
      let g : Ring := { base := fieldAt d 0 4, slotsz := fieldAt d 4 4, nslot := byteAt d 8, gps := byteAt d 9 }
      let s ← get
      if (s.resvOf core s.me).spBytes < g.base + g.nslot * g.slotsz then trapM tAperture (wd (Config.spWin + g.base))
      put fun m => { m with rings := m.rings.set n g }) s

/-- MADV (R303). -/
def execMadv (a b : Nat) (s : State) : Out :=
  finish (do
    let v ← operands .none (.src a) (.src b)
    let s ← get
    let n := v.a.toNat % 8
    let fill := !wbit v.a 3
    let core := s.cur.core
    let ctx := s.cur.ctx
    match s.ring core ctx n with
    | none => trapM tRing
    | some g =>
      if !s.ringFree core ctx n fill then blockM (.ring n fill)
      let k := v.b.toNat
      if fill then
        if g.h + g.nslot < g.t + k then trapM tRing
        modify fun s => s.modRing core ctx n fun g => { g with t := g.t + k, f := g.f + k }
      else
        if g.t < g.h + k then trapM tRing
        modify fun s => s.modRing core ctx n fun g => { g with h := g.h + k }) s

/-- MMA (R310). -/
def execMma (q a : Nat) (s : State) : Out :=
  finish (do
    let v ← operands .none (.src a) .none [(2, 1)]
    mxPush 1 q v.a []) s

/-- MMAC (R312). -/
def execMmac (q a b : Nat) (s : State) : Out :=
  finish (do
    let v ← operands .none (.src a) (.src b) [(2, 2)]
    mxPush 2 q v.a [v.b]) s

/-- MTRN (R317). -/
def execMtrn (q a : Nat) (s : State) : Out :=
  finish (do
    let v ← operands .none (.src a) .none [(2, 1)]
    mxPush 3 q v.a []) s

/-- MPERM (R317). -/
def execMperm (q a b : Nat) (s : State) : Out :=
  finish (do
    let v ← operands .none (.src a) (.src b) [(2, 2)]
    mxPush 4 q v.a [v.b]) s

/-- MRED (R317). -/
def execMred (q a : Nat) (s : State) : Out :=
  finish (do
    let v ← operands .none (.src a) .none [(2, 1)]
    mxPush 5 q v.a []) s

/-- MZERO (R317). -/
def execMzero (q a : Nat) (s : State) : Out :=
  finish (do
    let v ← operands .none (.src a) .none [(2, 1)]
    mxPush 6 q v.a []) s

/-- The number of whole commands in q2. -/
def mxCount (l : List (Word × Nat × Nat)) : Nat := (State.ringNamed.mxQueued (wholeQ2 l)).length

/-- The context status word (R320). -/
def State.mxStatus (s : State) (core ctx : Nat) : Word :=
  let k := s.core core
  let taken := s.mxCmd core (.ctx ctx)
  let forming := taken.any fun c => c.done.isNone && c.coop.any fun n => decide (n < 4)
  wd ((k.mx.get {} ctx).fl % 8 + (mxCount (k.ctx ctx).q2 + (if taken.isSome then 1 else 0)) % 32 * 2 ^ 8
    + (if forming then 2 ^ 16 else 0) + k.fmt.atype * 2 ^ 24 + k.fmt.btype * 2 ^ 29 + k.fmt.ctype * 2 ^ 34)

/-- The status word of a ring (R320). -/
def ringStatus (g : Option Ring) : Word :=
  match g with
  | none => 0#64
  | some g => wd (g.h % 2 ^ 16 + g.t % 2 ^ 16 * 2 ^ 16 + g.f % 2 ^ 16 * 2 ^ 32 + g.nslot * 2 ^ 48 + 2 ^ 55)

/-- MSTAT (R320). -/
def execMstat (m d : Nat) (s : State) : Out :=
  finish (do
    let _ ← operands (.dst d) .none .none
    let s ← get
    let core := s.cur.core
    let ctx := s.cur.ctx
    if m < 16 then
      if m = 1 then modify fun s => s.modMyCore fun k => { k with mx := k.mx.set ctx { k.mx.get {} ctx with fl := 0 } }
      writeX d (s.mxStatus core ctx)
    else writeX d (ringStatus (s.ring core ctx (m - 16)))) s

end Sys2Proof.Machine
end

