-- ==== Sys2Proof/Machine/Finish.lean ====
section
/-! DEFINITION. Terminating contexts, cancelling launches, instances, phases and jobs, and the completion of launches, phases and jobs
(R87, R92, R430 to R438, R460). -/

namespace Sys2Proof.Machine

/-- Words that no engine has taken are discarded; CPYL commands among them give back their count (R91, R321, R435). -/
def State.dropWords (s : State) (core ctx : Nat) : State :=
  let x := s.ctx core ctx
  let n := landings x.q4
  let s := s.setCtx core ctx { x with q1 := [], q2 := [], q4 := [], q6 := [], q7 := [] }
  if n = 0 then s else s.count x.lkey core (· - n)

/-- The requests of a context leave the walks they wait in. -/
def State.dropAsks (s : State) (core ctx : Nat) : State :=
  let mine := fun (r : WalkReq) => r.asker == .ctx core ctx || r.asker == .fetch core ctx
  { s with walks := s.walks.map fun w => { w with reqs := w.reqs.filter fun r => !(mine r && !r.posted) } }

/-- What the engines hold for a context of a number as its task is terminated (R228, R316, R321, R435): its sequencer runs end as by LSSTOP, the
cooperations that its q2 or a run has joined lose it, and untaken words are discarded. -/
def State.stopWork (s : State) (core n : Nat) : State :=
  let runs := (s.core core).runs.select fun _ r => r.ctx == n
  let s := (Stream.ctx n :: runs.map Stream.run).foldl (fun s st => s.withdraw core st) s
  let s := (s.dropWords core n).dropAsks core n
  let s := s.dropReads fun m => m == unitName 11 (core * 2 ^ 20 + n)
  s.modCore core fun k => { k with runs := k.runs.map fun _ r => if r.ctx = n then { r with stopped := true } else r }

/-- A context is terminated: a blocked instruction is abandoned, its sequencer runs end as by LSSTOP, a cooperation it has joined
loses it, and it ends as by EXIT with CANCELLED in TRAPCAUSE (R87, R228, R321, R411, R435). -/
def State.terminate (s : State) (core ctx : Nat) : State :=
  let x := s.ctx core ctx
  if x.st = .free ∨ x.st = .saved then s
  else
    let s := (ctx :: x.left.toList).foldl (fun s n => s.stopWork core n) s
    (s.modCtx core ctx fun x => { x with trapcause := wd tCancelled, trapaddr := 0#64 }).endTask core ctx

/-- The places of a core whose contexts belong to a launch and are not FREE. -/
def Core.members (k : Core) (key : LKey) (p : CtxSt → Bool) : List Nat :=
  k.ctxs.select fun n x => decide (n < 16) && x.st != .free && x.lkey == key && p x.st

/-- A cancel of a launch begins: seeding stops, the HOLD count is released and a mark is on its way to every core (R435). A launch that
is cancelling or has completed is left as it is (R437). -/
def State.cancelLaunch (s : State) (key : LKey) : State :=
  match s.launch key with
  | none => s
  | some l =>
    if l.cancelled || l.ended then s
    else
      let stop := fun (z : Seeding) => if z.key == key then { z with left := [], making := false } else z
      ({ s.modLaunch key (fun l => { l with cancelled := true, hold := false, marks := l.cores }) with
          seedings := s.seedings.map stop }).noteEnd key

/-- Messages of a launch that wait at a core are dropped as STALE, and those that count leave its count; a dropped TRAP raises TRAPLOST (R37,
R38, R406, R435). -/
def State.dropWaiting (s : State) (core : Nat) (key : LKey) : State :=
  let mine := fun (q : InMsg) => q.msg.dpart == key.part && q.msg.lid == key.lid && q.msg.lgen == key.lgen
  let k := s.core core
  let ring := ((k.resv key).map (·.ringQ)).getD []
  let saved := s.saves.flatMap fun j => (j.cores.filter fun c => c.core == core).flatMap fun c => (c.hq ++ c.lq).filter mine
  let stuck := k.held.any fun m => m.dpart == key.part && m.lid == key.lid && m.lgen == key.lgen
  let streams := (ring.filter fun q => q.msg.kind == .stream).length
  let gone := ((k.hq ++ k.lq).filter mine ++ ring ++ saved).map (·.msg) ++ (if stuck then k.held.toList else [])
  let n := ((k.hq ++ k.lq).filter mine).length + (ring.length - streams) + saved.length + (if stuck then 1 else 0)
  let keep := fun (l : List InMsg) => l.filter fun q => !mine q
  let k := k.modResv key fun r => { r with ringQ := [], unwritten := [], pressed := false }
  let s := s.setCore core { k with hq := keep k.hq, lq := keep k.lq, held := if stuck then none else k.held }
  let clear := fun (c : SavedCore) => if c.core == core then { c with hq := keep c.hq, lq := keep c.lq } else c
  let s := { s with saves := s.saves.map fun j => { j with cores := j.cores.map clear } }
  let s := gone.foldl (fun s m => s.loseMsg core .stale m) s
  if n = 0 then s else s.count key core (· - n)

/-- A stream of a cancelled launch is discarded (R435). -/
def discardStream (key : LKey) (_ : Nat) (e : StreamEnt) : StreamEnt :=
  if e.part == key.part && e.lid == key.lid && e.lgen == key.lgen && (e.st == .active || e.st == .bound) then e.ended e.bytes else e

/-- SAVED contexts of a launch on a core are terminated, and its saved streams discarded (R92, R435): each ends once its messages have been
acknowledged. -/
def State.dropSaved (s : State) (core : Nat) (key : LKey) : State :=
  let mine := fun (c : SavedCore) => c.core == core && c.resv.part == key.part && c.resv.lid == key.lid && c.resv.lgen == key.lgen
  let endOf := discardStream key
  let f := fun (c : SavedCore) => if mine c then ({ c with was := c.ctxs.map fun _ _ => CtxSt.exiting, streams := c.streams.map endOf } : SavedCore).settle else c
  let n := (((s.saves.flatMap (·.cores)).filter mine).map fun c => c.ctxs.length - (f c).ctxs.length).sum
  let s := { s with saves := s.saves.map fun j => { j with cores := j.cores.map f } }
  if n = 0 then s else s.count key core (· - n)

/-- CANCEL_MARK (R435): the mark reaches a core: waiting messages are dropped, streams discarded, and PARKED and SAVED contexts
terminated. -/
def execCancelMark (core : Nat) (key : LKey) (s : State) : Out :=
  stepIf ((s.launch key).any fun l => l.marks.contains core) (fun s =>
    let s := s.modLaunch key fun l => { l with marks := l.marks.erase core }
    let now := s.clock
    let s := s.modCore core fun k =>
      { k.modResv key (fun r => { r with mark := some now }) with streams := k.streams.map (discardStream key) }
    let s := (s.dropWaiting core key).dropSaved core key
    ((s.core core).members key fun t => t == .parked).foldl (fun s c => s.terminate core c) s) s

/-- CANCEL_GRACE_END (R435): 20 µs after the mark every context that remains is terminated, also one saved since. -/
def execCancelGraceEnd (core : Nat) (key : LKey) (s : State) : Out :=
  let due := ((s.core core).resv key).any fun r => r.mark.any fun t => decide (t + Config.us 20 ≤ s.clock)
  stepIf due (fun s =>
    ((s.core core).members key fun _ => true).foldl (fun s c => s.terminate core c) (s.dropSaved core key)) s

/-- A phase in use, and its change. -/
def State.phaseOf (s : State) (part job p : Nat) : Option Phase :=
  s.phases.find? fun x => x.part == part && x.job == job && x.phase == p
def State.modPhase (s : State) (part job p : Nat) (f : Phase → Phase) : State :=
  { s with phases := s.phases.map fun x => if x.part == part && x.job == job && x.phase == p then f x else x }

def State.modJob (s : State) (part job : Nat) (f : Job → Job) : State :=
  { s with jobs := s.jobs.map fun j => if j.desc.part == part && j.desc.job == job then f j else j }

/-- A phase number comes into use with its first member or mark, and counts on its job (R30, R53). -/
def State.usePhase (s : State) (part job p : Nat) : State :=
  match s.phaseOf part job p with
  | some _ => s
  | none => { s.modJob part job (fun j => { j with phases := j.phases + 1 }) with phases := s.phases ++ [{ part := part, job := job, phase := p }] }

/-- A member joins a phase (R31). -/
def State.joinPhase (s : State) (part job p : Nat) : State :=
  (s.usePhase part job p).modPhase part job p fun x => { x with members := x.members + 1 }

/-- A member leaves a phase, after its own signal action; failed says that it counts as failed (R31, R433). -/
def State.leavePhase (s : State) (part job p : Nat) (failed : Bool) : State :=
  s.modPhase part job p fun x => { x with members := x.members - 1, failed := x.failed || failed }

/-- A boundary is marked (R53). -/
def State.markPhase (s : State) (part job p : Nat) : State :=
  (s.usePhase part job p).modPhase part job p fun x => { x with marked := true }

def State.graph (s : State) (key : GKey) : Option Graph := s.graphs.find? fun g => g.key == key
def State.modGraph (s : State) (key : GKey) (f : Graph → Graph) : State :=
  { s with graphs := s.graphs.map fun g => if g.key == key then f g else g }
def State.modInst (s : State) (key : GKey) (f : GInst → GInst) : State :=
  s.modGraph key fun g => { g with inst := g.inst.map f }

/-- Packets held for the rods of a graph are discarded (R388). -/
def State.dropDeferred (s : State) (rods : List Nat) : State :=
  { s with deferred := s.deferred.filter fun d => !rods.contains d.rod }

/-- An abort of the active instance begins (R390): no further node starts, the handle is STOPPED, its deferred packets are discarded
and its LAUNCH nodes are cancelled. -/
def State.abortInst (s : State) (key : GKey) (node status : Nat) : State :=
  match (s.graph key).bind fun g => g.inst.map fun i => (g, i) with
  | none => s
  | some (g, i) =>
    if i.aborted.isSome then s
    else
      let s := (s.modGraph key fun g => { g with stopped := true, inst := g.inst.map fun i => { i with aborted := some (node, status) } })
      let s := (s.dropDeferred (g.rods.map (·.rod))).unplace fun p => p.node == some key
      let mine := s.launches.filter fun l => match l.owner with
        | .node k _ => k == key
        | .packet _ => false
      mine.foldl (fun s l => s.cancelLaunch l.key) s

/-- A cancel of an instance (R390, R436): the record's node index is not given. -/
def State.cancelInst (s : State) (key : GKey) : State :=
  let (w, s) := s.draw
  s.abortInst key (w.toNat % 2 ^ 16) 13

/-- A cancel of a phase (R436, R437): its member launches and instances are cancelled, and its boundary is marked. -/
def State.cancelPhase (s : State) (part job p : Nat) : State :=
  if (s.phaseOf part job p).any fun x => x.cancelled then s
  else
  let s := s.modPhase part job p fun x => { x with marked := true, failed := true, cancelled := true }
  let ls := s.launches.filter fun l => l.key.part == part && l.job == job && l.phase == p
  let gs := s.graphs.filter fun g => g.key.part == part && g.key.job == job && g.inst.any fun i => i.phase == p
  gs.foldl (fun s g => s.cancelInst g.key) (ls.foldl (fun s l => s.cancelLaunch l.key) s)

/-- A cancel of a job (R436, R437): its phases are cancelled, its command queues are ABORTED with REASON 6, and it counts as closed. -/
def State.cancelJob (s : State) (part job : Nat) : State :=
  if (s.job part job).any fun j => j.cancelled then s
  else
  let stop := fun (q : RQueue) => { q with st := .aborted, reason := 6, granted := false, pollAt := none }
  let mine := fun (q : RQueue) => q.key.part == part && q.key.job == job && !q.work
  let s := { s.modJob part job (fun j => { j with cancelled := true }) with queues := s.queues.map fun q => if mine q then stop q else q }
  let s := match s.job part job with
    | some j => s.modEntries j fun _ q => stop q
    | none => s
  (s.phases.filter fun p => p.part == part && p.job == job).foldl (fun s p => s.cancelPhase part job p.phase) s

/-- Whether a level that a CANCEL names is active (R437, R438). -/
def State.cancelActive (s : State) (level part job id inst : Nat) : Bool :=
  match level with
  | 1 => (s.launch ⟨part, id % 2 ^ 12, id / 2 ^ 12⟩).any fun l => !l.ended
  | 2 => (s.graph ⟨part, job, id % 2 ^ 10⟩).any fun g => g.inst.any fun i => inst == 0xFFFF || i.num == inst
  | 3 => (s.phaseOf part job (id % 2 ^ 8)).isSome
  | _ => (s.job part job).isSome

/-- The cancel of a level starts (R435, R436). -/
def State.cancelLevel (s : State) (level part job id inst : Nat) : State :=
  if !s.cancelActive level part job id inst then s
  else match level with
  | 1 => s.cancelLaunch ⟨part, id % 2 ^ 12, id / 2 ^ 12⟩
  | 2 => s.cancelInst ⟨part, job, id % 2 ^ 10⟩
  | 3 => s.cancelPhase part job (id % 2 ^ 8)
  | _ => s.cancelJob part job

/-- The identifier of a level without the bits that it ignores (R64). -/
def cancelId (level id : Nat) : Nat := if level = 2 then id % 2 ^ 10 else if level = 3 then id % 2 ^ 8 else id

/-- Whether a level contains a task (R438). -/
def Ctx.within (x : Ctx) (level id : Nat) : Bool :=
  match level with
  | 1 => x.lid == id % 2 ^ 12 && x.lgen == id / 2 ^ 12
  | 2 => x.graph == some (id % 2 ^ 10)
  | 3 => x.phase == id % 2 ^ 8
  | _ => true

/-- CANCEL (R438). -/
def execCancel (d a b : Nat) (s : State) : Out :=
  finish (do
    let v ← operands (.dst d) (.src a) (.src b)
    let level := wbits v.a 2 0
    let id := cancelId level (wbits v.a 31 16)
    let inst := wbits v.a 47 32
    if level = 0 ∨ 4 < level then trapM tIllegal
    let s ← get
    let x := s.me
    let settle := do
      let s ← get
      if s.cancelSettled level x.part x.job id inst then
        acquireAt 5
        writeX d 0#64
      else blockM (.cancelled level x.part x.job id inst)
    if (x.asked level).isSome then settle
    else if level = 4 ∧ s.levelOf s.cur.core x = .user then writeX d 2#64
    else if !s.cancelActive level x.part x.job id inst then writeX d 1#64
    else
      awaitRelease 5
      modify fun s => s.cancelLevel level x.part x.job id inst
      if wbit v.b 0 && !x.within level id then
        modMe fun x => { x with pend := [⟨0, level, some (.word 0#64)⟩] }
        settle
      else writeX d 0#64) s

/-- Whether everything of a launch has drained (R330, R430): no context of it is left, no engine command or run, no bead that a task has
put, no side-log entry. -/
def State.launchDrained (s : State) (l : Launch) : Bool :=
  let key := l.key
  let kept := fun (c : SavedCore) => c.resv.part == key.part && c.resv.lid == key.lid && c.resv.lgen == key.lgen && !c.log.isEmpty
  !((s.saves.flatMap (·.cores)).any kept) && l.cores.all fun c =>
    let k := s.core c
    let cl := s.cluster (clusterOf c)
    !(k.ctxs.any fun p => (p.2.st != .free || decide (16 ≤ p.1)) && p.2.lkey == key)
      && !(k.log.any fun e => e.part == key.part && e.lid == key.lid && e.lgen == key.lgen)
      && !(k.runs.any fun p => p.2.part == key.part && p.2.lid == key.lid && p.2.lgen == key.lgen)
      && !(cl.copies.any fun r => r.core == c && r.part == key.part && r.lid == key.lid && r.lgen == key.lgen)
      && !(cl.mx.any fun p => p.1 == c && p.2.part == key.part && p.2.lid == key.lid && p.2.lgen == key.lgen)
      && !(s.getrs.any fun g => g.core == c && g.part == key.part && g.lid == key.lid && g.lgen == key.lgen)

/-- Flows that meet a condition begin to close on a core (R359, R379). -/
def State.closeFlows (s : State) (core : Nat) (p : Flow → Bool) : State :=
  if (s.flowsOf core).any p then (s.modFlow core p fun f => { f with closing := true }).sendCloses core else s

/-- The reservations of a launch are released on every core at once: places, registers, rows, scratchpad, ring, streams and the flows
that it owns (R89, R359, R430). A pipe's flows wait for the gang's last member (R67). -/
def State.releaseLaunch (s : State) (l : Launch) : State :=
  let key := l.key
  let own := fun (part lid lgen : Nat) => part == key.part && lid == key.lid && lgen == key.lgen
  let s := l.cores.foldl (fun s c =>
    let s := s.modCore c fun k =>
      { k with resvs := k.resvs.filter (fun r => !own r.part r.lid r.lgen),
               streams := k.streams.filter fun p => !own p.2.part p.2.lid p.2.lgen }
    s.closeFlows c fun f => own f.part f.lid f.lgen && f.pipe.isNone && f.cls != .atomic) s
  (s.modLaunch key fun l => { l with released := true }).unshort

/-- The pipes of a gang close once its last member completes (R67); another gang of its number has a name of its own (R66). -/
def State.closeGang (s : State) (l : Launch) : State :=
  let others := s.launches.any fun o => o.key.part == l.key.part && o.job == l.job && o.gang == l.gang && o.gangId == l.gangId && o.key != l.key
  if l.gang = 0 ∨ others = true then s
  else s.flows.foldl (fun s p => s.closeFlows p.1 fun f => f.part == l.key.part && f.pipe == some (l.job, l.gangId)) s

/-- A completed launch is reported to the level above, and its identifier is freed (R31, R32, R386, R430). -/
def State.reportLaunch (s : State) (l : Launch) (lost : Bool) : State :=
  let s := match l.owner with
    | .packet rid => { s with running := s.running.filter fun r => r.id != rid }
    | .node g n =>
      let s := s.modInst g fun i => { i with nodes := putAt i.nodes n (if l.cancelled then .failed else .ended) }
      if l.cancelled then s.abortInst g n 13 else s
  let s := s.leavePhase l.key.part l.job l.phase (l.cancelled || lost)
  { s.closeGang l with launches := s.launches.filter fun o => o.key != l.key
                       seedings := s.seedings.filter fun z => !(z.key == l.key && z.packet.isNone)
                       freed := s.freed ++ [⟨l.key.part, false, l.key.lid, l.key.lgen, s.clock⟩] }

/-- A launch's name among the units. -/
def launchName (k : LKey) : Nat := unitName 7 (k.part * 2 ^ 16 + k.lgen * 2 ^ 12 + k.lid)

/-- LAUNCH_COMPLETE (R430, R431): the drain, then the release, the signal, the report and the freeing of the identifier, in that
order. -/
def execLaunchComplete (key : LKey) (s : State) : Out :=
  match s.launch key with
  | none => .next s
  | some l =>
    let ready := l.ended && (l.released || (s.launchDrained l && s.podReleased key.part (l.cores.map clusterOf)))
    stepIf ready (fun s =>
      let s := if l.released then s else s.releaseLaunch l
      match s.sigAct (launchName key) l.die key.part l.job .launch l.sig l.cancelled l.val (key.lid + key.lgen * 2 ^ 12) with
      | (.wait, s) => s
      | (.done, s) => s.reportLaunch l false
      | (.lost, s) => s.reportLaunch l true) s

/-- PHASE_COMPLETE (R433). -/
def execPhaseComplete (part job phase : Nat) (s : State) : Out :=
  match s.phaseOf part job phase, s.job part job with
  | some p, some j =>
    stepIf ((p.marked || p.cancelled) && decide (p.members = 0)) (fun s =>
      let done := fun (s : State) =>
        { s.modJob part job (fun j => { j with phases := j.phases - 1, failed := j.failed || p.failed }) with
            phases := s.phases.filter fun x => !(x.part == part && x.job == job && x.phase == phase) }
      match s.sigAct (unitName 10 (part * 2 ^ 14 + job * 2 ^ 8 + phase)) 0 part job .phase (j.desc.phsig + 8 * phase) p.failed 1
        phase with
      | (.wait, s) => s
      | (_, s) => done s) s
  | _, _ => .next s

/-- Whether a CANCEL of the job itself has started and not completed (R64, R438). -/
def State.cancelling (s : State) (part job : Nat) : Bool :=
  s.running.any fun r => r.part == part && r.job == job && pktType r.bytes == 9 && byteAt r.bytes 16 == 4

/-- JOB_COMPLETE (R433, R437). A CANCEL packet of the job completes first. -/
def execJobComplete (part job : Nat) (s : State) : Out :=
  match s.job part job with
  | none => .next s
  | some j =>
    stepIf ((j.closed || j.cancelled) && decide (j.phases = 0) && !s.cancelling part job) (fun s =>
      let mine := fun (k : QKey) => k.part == part && k.job == job
      match s.sigAct (unitName 10 (2 ^ 20 + part * 2 ^ 6 + job)) 0 part job .job j.desc.jobsig (j.failed || j.cancelled) 1 0 with
      | (.wait, s) => s
      | (_, s) =>
        let s := s.unplace fun p => p.part == part && p.job == job
        { s with jobs := s.jobs.filter (fun x => !(x.desc.part == part && x.desc.job == job)),
                 queues := s.queues.filter (fun q => !mine q.key),
                 readAhead := s.readAhead.filter (fun r => !mine r.1),
                 seals := { s.seals with sigEnds := s.seals.sigEnds.filter fun e => !(e.part == part && e.job == job) },
                 freed := s.freed ++ [⟨part, true, job, j.desc.jgen, s.clock⟩] }) s

end Sys2Proof.Machine
end

