-- ==== Sys2Proof/Machine/Launch.lean ====
section
/-! DEFINITION. Placing launches: the LAUNCH template, resources, reservations, gangs and pipes, and seeding (R21, R22, R25, R54, R55,
R66, R67, R70 to R79, R434, R439). -/

namespace Sys2Proof.Machine

/-- A LAUNCH template (R54). -/
structure LaunchReq where
  phase : Nat
  val : Nat
  sig : Nat
  htab : Nat
  hcount : Nat
  regs : Nat
  rows : Nat
  maxctx : Nat
  spBytes : Nat
  stkBytes : Nat
  lid : Nat
  lgen : Nat
  fpctl : Nat
  vtype : Nat
  seedh : Nat
  seedPri : Bool
  seed : Bool
  hold : Bool
  ovflog : Nat
  nslots : Nat
  raster : Nat
  gang : Nat
  gangn : Nat
  pipein : Nat
  pipeout : Nat
  pipeste : Nat
  tmap : TileMap
  args : List Word
  deriving DecidableEq, Repr

/-- A signed 16-bit field. -/
def i16At (b : List Byte) (o : Nat) : Int := intVal true 16 (fieldAt b o 2)

/-- A tile-map descriptor (R21). -/
def TileMap.parse (b : List Byte) : TileMap :=
  { form := byteAt b 0 % 4, xn := fieldAt b 2 2, yn := fieldAt b 4 2, zn := fieldAt b 6 2, bx := fieldAt b 8 2, by_ := fieldAt b 10 2,
    bz := fieldAt b 12 2, sx := i16At b 14, sy := i16At b 16, sz := i16At b 18, off := i16At b 20, tbl := fieldAt b 24 8 }

/-- A malformed descriptor (R22). -/
def TileMap.bad (t : TileMap) : Bool :=
  let out := fun (n hi : Nat) => decide (n < 1) || decide (hi < n)
  decide (2 ≤ t.form) || out t.xn 1024 || out t.yn 1024 || out t.zn 16
    || (t.form == 0 && (out t.bx 1024 || out t.by_ 1024 || out t.bz 16))
    || (t.form == 1 && decide (t.tbl % 2 ≠ 0))

/-- A LAUNCH template from its 128 bytes (R48, R54). -/
def LaunchReq.parse (b : List Byte) : LaunchReq :=
  { phase := pktPhase b, val := pktVal b, sig := pktSig b, htab := fieldAt b 16 8, hcount := byteAt b 24,
    regs := 8 * (byteAt b 25 % 4 + 1), rows := 8 * byteAt b 26, maxctx := byteAt b 27, spBytes := fieldAt b 28 4,
    stkBytes := fieldAt b 32 4, lid := fieldAt b 36 2 % 2 ^ 12, lgen := fieldAt b 36 2 / 2 ^ 12, fpctl := fieldAt b 38 2 % 2 ^ 9,
    vtype := byteAt b 40, seedh := byteAt b 41 % 64, seedPri := byteAt b 41 / 64 % 2 == 1, seed := byteAt b 41 / 128 == 1,
    hold := byteAt b 42 % 2 == 1, ovflog := byteAt b 43, nslots := fieldAt b 44 4, raster := fieldAt b 48 8, gang := byteAt b 56,
    gangn := byteAt b 57, pipein := byteAt b 58, pipeout := byteAt b 59, pipeste := byteAt b 60, tmap := TileMap.parse (b.drop 64),
    args := (List.range 3).map fun i => wd (fieldAt b (96 + 8 * i) 8) }

/-- Bytes of an overflow ring (R54, R76). -/
def LaunchReq.ovfBytes (r : LaunchReq) : Nat := if r.ovflog = 0 then 2 ^ 20 else 2 ^ r.ovflog

/-- The checks of a template by itself (R22, R54, R67). -/
def LaunchReq.bad (r : LaunchReq) : Bool :=
  decide (r.htab % 8 ≠ 0) || decide (r.hcount < 1) || decide (64 < r.hcount) || decide (24 < r.regs) || decide (128 < r.rows)
    || decide (r.maxctx < 1) || decide (min 16 (256 / r.regs) < r.maxctx) || decide (r.spBytes % 256 ≠ 0)
    || decide (r.stkBytes % 256 ≠ 0) || decide (98304 < r.spBytes + r.maxctx * r.stkBytes) || decide (128 < r.maxctx * r.rows)
    || (r.ovflog != 0 && (decide (r.ovflog < 16) || decide (24 < r.ovflog))) || decide (r.nslots < 1) || decide (r.raster % 8 ≠ 0)
    || (r.gang != 0 && (decide (r.gangn < 2) || decide (16 < r.gangn))) || decide (15 < r.pipeste) || r.tmap.bad
    || (r.gang == 0 && (r.pipein != 0 || r.pipeout != 0))

def LaunchReq.key (r : LaunchReq) (part : Nat) : LKey := ⟨part, r.lid, r.lgen⟩

/-- The clusters of a partition (R72). -/
def State.clusterSet (s : State) (part : Nat) : List Nat := s.clusters.select fun _ k => k.valid && k.part == part

/-- The usable cores of a partition in the order of a placement policy's cluster list; clusters it leaves out follow (R76). -/
def State.usable (s : State) (part : Nat) (policy : List Nat) : List Nat :=
  let own := s.clusterSet part
  let first := (policy.filter fun c => own.contains c).eraseDups
  let order := first ++ own.filter fun c => !first.contains c
  order.flatMap fun c => ((List.range 16).map (· + 16 * c)).filter fun n => !s.isFw n

/-- The lowest place of n units that overlaps none of the ranges in use, each a start and a length. -/
def firstFit (limit n : Nat) (used : List (Nat × Nat)) : Option Nat :=
  let starts := 0 :: used.map fun u => u.1 + u.2
  let free := starts.filter fun a => decide (a + n ≤ limit) && used.all fun u => u.2 == 0 || decide (a + n ≤ u.1) || decide (u.1 + u.2 ≤ a)
  free.foldl (fun m a => match m with
    | none => some a
    | some b => some (min a b)) none

/-- The rings that a job's launches hold in its overflow pool. -/
def State.poolUsed (s : State) (part job : Nat) : List (Nat × Nat) :=
  s.cores.flatMap fun p => (p.2.resvs.filter fun r => r.part == part && r.job == job && r.ringBytes != 0).map fun r => (r.ring, r.ringBytes)

/-- The reservation of a core for a launch, not yet valid, none where a resource is short (R76, R77). ring is its overflow ring's place in the
pool. -/
def Core.plan (k : Core) (r : LaunchReq) (part job ring : Nat) : Option Resv :=
  let taken := k.resvs.flatMap (·.spots)
  let spots := ((List.range 16).filter fun n => !taken.contains n).take r.maxctx
  let regs := (k.resvs.map fun o => o.spots.length * o.regs).sum
  let rows := firstFit 128 (r.maxctx * r.rows) (k.resvs.map fun o => (o.rowBase, o.spots.length * o.rows))
  let sp := firstFit 98304 (r.spBytes + r.maxctx * r.stkBytes)
    (k.resvs.map fun o => (o.spBase, o.spBytes + o.spots.length * o.stkBytes))
  if spots.length < r.maxctx ∨ 256 < regs + r.maxctx * r.regs then none
  else match rows, sp with
    | some rb, some sb =>
      some ⟨part, r.lid, r.lgen, job, spots, r.regs, rb, r.rows, sb, r.spBytes, r.stkBytes, ring, r.ovfBytes, [], 0, [], false, none, false,
        false, false⟩
    | _, _ => none

/-- A reservation made on a core: its region, stacks and rows are zero (R77). -/
def Core.reserve (k : Core) (r : Resv) : Core :=
  { k with resvs := k.resvs ++ [r],
           sp := k.sp.clear r.spBase (r.spBytes + r.spots.length * r.stkBytes),
           rows := k.rows.filter fun p => !(decide (r.rowBase ≤ p.1) && decide (p.1 < r.rowBase + r.spots.length * r.rows)) }

/-- Reservations of a launch on cores in turn, none where any lacks a resource (R76). -/
def State.reserveCores (r : LaunchReq) (part job : Nat) (pool : Nat) : List Nat → State → Option State
  | [], s => some s
  | c :: t, s =>
    match firstFit pool r.ovfBytes (s.poolUsed part job) with
    | none => none
    | some ring => match (s.core c).plan r part job ring with
      | none => none
      | some v => State.reserveCores r part job pool t (s.setCore c ((s.core c).reserve v))

/-- A launch to place: its template, what it reports to, its graph, and its packet's queue. -/
structure Placement where
  req : LaunchReq
  owner : LaunchOwner
  graph : Option Nat := none
  queue : Option QKey := none
  phase : Nat
  die : Nat
  handlers : List Nat := []
  /-- The name of the gang's placement (R66). -/
  gangId : Nat := 0
  deriving DecidableEq, Repr

/-- The launch of a placement on its cores. -/
def Placement.launch (p : Placement) (part job : Nat) (cores : List Nat) : Launch :=
  let r := p.req
  { key := r.key part, die := p.die, job := job, phase := p.phase, owner := p.owner, graph := p.graph, regs := r.regs, rows := r.rows,
    maxctx := r.maxctx, spBytes := r.spBytes, stkBytes := r.stkBytes, fpctl := r.fpctl, vtype := r.vtype, handlers := p.handlers,
    tmap := r.tmap, cores := cores, hold := r.hold, gang := r.gang, gangn := r.gangn, gangId := p.gangId, queue := p.queue, pipein := r.pipein,
    pipeout := r.pipeout, pipeste := r.pipeste, sig := r.sig, val := r.val }

/-- Launches reserved together, each on its cores, none where any core lacks a resource (R66, R76). -/
def State.reserveAll (part job : Nat) (pool : Nat) (policy : List Nat) : List LaunchReq → State → Option (List (List Nat) × State)
  | [], s => some ([], s)
  | r :: t, s =>
    let cores := (s.usable part policy).take r.nslots
    match State.reserveCores r part job pool cores s with
    | none => none
    | some s => (State.reserveAll part job pool policy t s).map fun p => (cores :: p.1, p.2)

/-- A launch whose reservations are valid on all its cores at once (R76): it counts its own seeding and HOLD (R55, R90) and joins its phase
(R31). -/
def State.letRun (part job : Nat) (s : State) (p : Placement × List Nat) : State :=
  let key := p.1.req.key part
  let (id, s) := s.fresh
  let z : Seeding := { id := id, key := key, die := p.1.die, making := p.1.req.seed }
  let s := p.2.foldl (fun s c => s.modCore c fun k => k.modResv key fun r => { r with valid := true }) s
  State.joinPhase { s with launches := s.launches ++ [p.1.launch part job p.2], seedings := s.seedings ++ [z] } part job p.1.phase

/-- The pipe numbers of a gang (R67). -/
def pipesOf (l : List LaunchReq) : List Nat := ((l.flatMap fun r => [r.pipein, r.pipeout]).filter (· != 0)).eraseDups

/-- Whether every pipe of a gang has one sender and one receiver (R67). -/
def pipesGood (l : List LaunchReq) : Bool :=
  (pipesOf l).all fun p => (l.filter fun r => r.pipein == p).length == 1 && (l.filter fun r => r.pipeout == p).length == 1

/-- The stream-table entry of a receiving core is reserved to its pipe, as the gang's resources are (R67, R89). Of two members of a gang that
name one entry of a core, the later has it. Mark: DESIGN CHOICE (log entry 115). -/
def State.reservePipe (part : Nat) (s : State) (p : LaunchReq × List Nat) : State :=
  if p.1.pipein = 0 then s
  else
    let e : StreamEnt := { st := .reserved, part := part, lid := p.1.lid, lgen := p.1.lgen, gang := true }
    p.2.foldl (fun s c => s.modCore c fun k => { k with streams := k.streams.set p.1.pipeste e }) s

/-- Whether the stream-table entries that a gang's pipes reserve on its cores are FREE (R89). -/
def State.pipesFree (s : State) (ls : List (LaunchReq × List Nat)) : Bool :=
  ls.all fun l => l.1.pipein == 0 || l.2.all fun c => ((s.core c).streams.get {} l.1.pipeste).st == .free

/-- The flows of a gang's pipes are opened from every core of the sender to every core of the receiver (R67). -/
def State.openPipes (s : State) (ls : List Launch) : State :=
  ls.foldl (fun s a =>
    match ls.find? fun b => a.pipeout != 0 && b.pipein == a.pipeout with
    | none => s
    | some b => a.cores.foldl (fun s c =>
        let f := fun (d : Nat) => ({ handle := a.pipeout, cls := .l, dest := ⟨d, false, a.key.part, selfEp⟩, part := a.key.part,
                                     lid := a.key.lid, lgen := a.key.lgen, pipe := some (a.job, a.gangId) } : Flow)
        { s with flows := s.flows.set c (s.flowsOf c ++ b.cores.map f) }) s) s

/-- The outcome of a placement: placed, malformed, waiting for the read of a handler table, short of a resource, or to be tried again later
since an identifier is in quarantine or a pipe's entry is not FREE. -/
inductive PlaceRes where
  | placed
  | malformed
  | wait
  | short
  | later
  deriving DecidableEq, Repr

/-- The handler tables of launches, read with the job's translation (R25, R76). -/
def State.readTables (name part job : Nat) : List Placement → State → URes (List Placement) × State
  | [], s => (.ok [], s)
  | p :: t, s =>
    match s.unitRead name p.die none part job p.req.htab (8 * p.req.hcount) with
    | (.wait, s) => (.wait, s)
    | (.fail c, s) => (.fail c, s)
    | (.ok b, s) => match State.readTables name part job t s with
      | (.ok l, s) => (.ok ({ p with handlers := (List.range p.req.hcount).map fun h => fieldAt b (8 * h) 8 } :: l), s)
      | r => r

/-- Step 4 of R76 for launches that hold their resources: the handler tables are read, and then every reservation is valid at once, the
pipes of a gang with them (R66, R67). Where a read fails, all is released. -/
def State.validate (s : State) (e : Placing) (ps : List Placement) : PlaceRes × State :=
  match State.readTables e.name e.part e.job ps s with
  | (.wait, s) => (.wait, s)
  | (.fail _, s) => (.malformed, s.unplace fun p => p.name == e.name)
  | (.ok ps, s) =>
    let old := s.launches.length
    let s := (ps.zip (e.launches.map (·.2))).foldl (State.letRun e.part e.job) { s with placing := s.placing.filter fun p => p.name != e.name }
    let new := s.launches.drop old
    (.placed, new.foldl (fun t l => t.noteEnd l.key) (s.openPipes new))

/-- Launches placed together by a unit of a name in the steps of R76: the checks, the reservation of every resource at once, and then the
handler tables, for which the resources are held. A gang of which a pipe's stream entry is not FREE is tried again later. Mark: DESIGN CHOICE
(log entry 115). -/
def State.place (s : State) (name part job : Nat) (policy : List Nat) (ps : List Placement) : PlaceRes × State :=
  match s.placing.find? fun e => e.name == name with
  | some e => s.validate e ps
  | none =>
    let s := s.reread part job
    match s.job part job with
    | none => (.malformed, s)
    | some j =>
      let reqs := ps.map (·.req)
      let frees := reqs.map fun r => s.lidFree (r.key part)
      let lids := reqs.map (·.lid)
      let big := reqs.any fun r =>
        decide ((s.usable part policy).length < r.nslots) || decide (j.desc.ovflen < r.nslots * r.ovfBytes)
      if reqs.any LaunchReq.bad || frees.any Option.isNone || big || !pipesGood reqs || lids.eraseDups.length ≠ lids.length then
        (.malformed, s)
      else if frees.any (· == some false) then (.later, s)
      else match State.reserveAll part job j.desc.ovflen policy reqs s with
        | none => (.short, s)
        | some (cores, t) =>
          if !s.pipesFree (reqs.zip cores) then (.later, s)
          else
            let node := match ps.head?.map (·.owner) with
              | some (.node g _) => some g
              | _ => none
            let e : Placing := ⟨name, part, job, node, (reqs.map fun r => r.key part).zip cores⟩
            State.validate { (reqs.zip cores).foldl (State.reservePipe part) t with placing := t.placing ++ [e] } e ps

/-- A SEED message of a die's front end to a tile (R14, R55, R56). -/
def seedMsg (die : Nat) (key : LKey) (handler : Nat) (pri : Bool) (dest : Nat) (args : List Word) (x4 : Nat) : Msg :=
  { kind := .seed, pri := pri, taddr := true, ddev := selfEp, dpart := key.part, handler := handler, lgen := key.lgen, lid := key.lid,
    dest := dest, sdev := selfEp, score := die * 1024, payload := args ++ [wd x4, 0#64, 0#64] }

/-- The tiles that a rasterisation table names, first first; a fault ends table order (R79). The answer waits while a read does. -/
def State.rasterTiles (name die part job va : Nat) (t : TileMap) : Nat → Nat → List Nat → State → URes (List Nat) × State
  | 0, _, seen, s => (.ok seen, s)
  | n + 1, i, seen, s =>
    if seen.length = t.xn * t.yn * t.zn then (.ok seen, s)
    else match s.unitRead name die none part job (va + 8 + 4 * i) 4 with
      | (.wait, s) => (.wait, s)
      | (.fail _, s) => (.ok seen, s)
      | (.ok b, s) =>
        let e := leNat b
        let lin := e % 1024 + t.xn * (e / 1024 % 1024 + t.yn * (e / 2 ^ 20 % 16))
        let ok := t.inside (e % 1024) (e / 1024 % 1024) (e / 2 ^ 20 % 16) && !seen.contains lin
        State.rasterTiles name die part job va t n (i + 1) (if ok then seen ++ [lin] else seen) s

/-- The order in which a launch's tiles are seeded, by linear index (R55, R79). -/
def State.seedOrder (s : State) (name : Nat) (l : Launch) (raster : Nat) : URes (List Nat) × State :=
  let all := List.range (l.tmap.xn * l.tmap.yn * l.tmap.zn)
  let rest := fun (r : URes (List Nat) × State) => match r with
    | (.ok seen, s) => (URes.ok (seen ++ all.filter fun i => !seen.contains i), s)
    | r => r
  if raster = 0 then (.ok all, s)
  else match s.unitRead name l.die none l.key.part l.job raster 8 with
    | (.wait, s) => (.wait, s)
    | (.fail _, s) => rest (.ok [], s)
    | (.ok b, s) => rest (State.rasterTiles name l.die l.key.part l.job raster l.tmap (fieldAt b 0 4) 0 [] s)

def State.modSeeding (s : State) (id : Nat) (f : Seeding → Seeding) : State :=
  { s with seedings := s.seedings.map fun z => if z.id == id then f z else z }

/-- The next message of a seeding leaves the front end (R24, R55, R56). One to a launch without a reservation is dropped as STALE, which the
first core of the die counts, and one whose tile has no slot as BADTILE, which the endpoint counts. Mark: DESIGN CHOICE for the counters
(log entry 50). -/
def State.seedStep (s : State) (z : Seeding) : State :=
  match z.left with
  | [] => s
  | m :: rest =>
    let sent := fun (s : State) (n : Nat) => s.modSeeding z.id fun z => { z with left := rest, outstanding := z.outstanding + n }
    let stale := sent (s.niDrop (z.die * 1024) .stale) 0
    match s.launch z.key with
    | none => stale
    | some l =>
      if l.ended then stale
      else match (if m.dest < 2 ^ 24 then s.tileCore (launchName z.key) z.die l m.dest else (.none_, s)) with
        | (.wait, s) => s
        | (.none_, s) => (sent (s.epDrop z.die fun e => { e with badtile := sat255 e.badtile }) 0).noteEnd z.key
        | (.core c, s) => (sent s 1).toMesh m c (.seeding z.id)

/-- A launch's own seeding goes on: its list is made, then its messages leave (R55, R79). -/
def State.seedLaunch (s : State) (l : Launch) (r : LaunchReq) : State :=
  match s.seedings.find? fun z => z.key == l.key && z.packet.isNone with
  | none => s
  | some z =>
    if z.making then
      match s.seedOrder (launchName l.key) l r.raster with
      | (.ok order, s) =>
        let t := l.tmap
        let msg := fun (i : Nat) => seedMsg l.die l.key r.seedh r.seedPri
          (i % t.xn + i / t.xn % t.yn * 2 ^ 10 + i / (t.xn * t.yn) * 2 ^ 20) r.args i
        s.modSeeding z.id fun z => { z with making := false, left := order.map msg }
      | (_, s) => s
    else s.seedStep z

/-- Whether a launch's own seeds have all been sent. -/
def State.seeded (s : State) (key : LKey) : Bool :=
  !(s.seedings.any fun z => z.key == key && z.packet.isNone && (z.making || !z.left.isEmpty))

end Sys2Proof.Machine
end

