-- ==== Sys2Proof/Machine/Packets.lean ====
section
/-! DEFINITION. The front ends: starting packets, and the packets of every type but those of collectives (R50 to R67, R69, R76, R439 to
R442). -/

namespace Sys2Proof.Machine

/-- The messages of a SEED packet (R56). -/
def seedCount (b : List Byte) : Nat :=
  let t := fieldAt b 24 4
  (t % 1024) * (t / 1024 % 1024) * (t / 2 ^ 20 % 16)

/-- The cost of a packet (R69). -/
def pktCost (b : List Byte) : Nat :=
  match pktType b with
  | 1 => 8
  | 2 => 1 + seedCount b / 16
  | 3 => 1 + fieldAt b 32 4 * fieldAt b 36 4 / 65536
  | 7 => 8
  | 8 => 16
  | _ => 1

/-- The cost of what starts next on a queue: the members of a gang start together. -/
def RQueue.cost (q : RQueue) : Nat :=
  match q.ready with
  | [] => 0
  | p :: t => if pktType p.bytes = 1 ∧ byteAt p.bytes 56 ≠ 0 then (pktCost p.bytes) * (t.length + 1) else pktCost p.bytes

/-- A queue's place in the order of visits. -/
def visitOf (k : QKey) : Nat := k.part * 2 ^ 18 + k.job * 2 ^ 12 + k.handle + 1

/-- The queue of the least place in a list. -/
def leastQueue (l : List RQueue) : Option RQueue :=
  l.foldl (fun a q => match a with
    | none => some q
    | some p => if visitOf q.key < visitOf p.key then some q else some p) none

/-- Whether the arbiter of a die has granted a LAUNCH whose placement has still to be tried: nothing else is chosen before it (R69). One
whose resources are held, or that waits for a translation, holds up nothing. -/
def State.granting (s : State) (die : Nat) : Bool :=
  s.queues.any fun q => q.die == die && q.granted && s.mayStart q && !(s.placing.any fun e => e.name == queueName q.key)

/-- The choice of the arbiter of a die (R69): the queue, and its deficit once its head's cost is paid. A visit that cannot reach the
cost starts the packet with nothing left. -/
def State.arbitrate (s : State) (die : Nat) : Option (RQueue × Nat) :=
  let cands := if s.granting die then [] else s.queues.filter fun q => q.die == die && !q.work && !q.granted && s.mayStart q
  let low := cands.foldl (fun m q => min m q.cls) 4
  let ring := cands.filter fun q => q.cls == low
  let at_ := (s.die die).drrAt
  match ring.find? fun q => visitOf q.key == at_ && decide (q.cost ≤ q.deficit) with
  | some q => some (q, q.deficit - q.cost)
  | none =>
    match (leastQueue (ring.filter fun q => decide (at_ < visitOf q.key))).orElse fun _ => leastQueue ring with
    | none => none
    | some q => some (q, q.deficit + q.weight * 64 - q.cost)

/-- The outcome of the checks that packets start with: they start, are malformed, are consumed because a phase is cancelled, or wait for a
translation. spare is the place of the packet whose own COMPSIG cannot be set negative, if that is what is bad (R50). -/
inductive StartRes where
  | ok
  | bad (spare : Option Nat)
  | cancelled
  | wait
  deriving DecidableEq, Repr

/-- Whether a packet is a member of its phase (R53). -/
def pktMember (b : List Byte) : Bool := [1, 7, 8].contains (pktType b)

/-- COMPSIG's check and translation (R50, R58), and that of the phase that the packet names: whether it is cancelled, and for a member
whether its boundary is marked (R53, R436). -/
def State.startCheck (s : State) (q : RQueue) (b : List Byte) : StartRes × State :=
  let sig := pktSig b
  let first := if sig = 0 then (StartRes.ok, s)
    else if !signalAddr sig then (.bad (some 0), s)
    else match s.unitXlate (queueName q.key) q.die none q.key.part q.key.job sig 3 with
      | (.wait, s) => (.wait, s)
      | (.fail _, s) => (.bad (some 0), s)
      | (.ok e, s) => (if paKind (e.phys sig) = .sealed then .ok else .bad (some 0), s)
  match first with
  | (.ok, s) =>
    match s.phaseOf q.key.part q.key.job (pktPhase b) with
    | none => (.ok, s)
    | some p => (if p.cancelled then .cancelled else if pktMember b && p.marked then .bad none else .ok, s)
  | r => r

/-- A signal operation's OP and AMOUNT (R60). -/
def sigPktBad (b : List Byte) : Bool :=
  decide (1 < byteAt b 32) || (byteAt b 32 == 0 && decide (2 ^ 63 ≤ fieldAt b 24 8)) || !signalAddr (fieldAt b 16 8)

/-- The waits of a BARRIER: signal address and target (R59). -/
def barrierWaits (b : List Byte) : List (Nat × Nat) :=
  (List.range 4).map fun i => (fieldAt b (16 + 8 * i) 8, fieldAt b (48 + 4 * i) 4)

/-- The checks of a packet's type that need no memory (R54, R59 to R61, R64, R384). -/
def State.pktBad (s : State) (q : RQueue) (b : List Byte) : Bool :=
  match pktType b with
  | 4 => (barrierWaits b).any fun w => decide (w.1 % 8 ≠ 0)
  | 5 => sigPktBad b
  | 6 => decide (6 ≤ byteAt b 16 % 8)
  | 7 => (s.graph ⟨q.key.part, q.key.job, fieldAt b 16 2 % 2 ^ 10⟩).isNone || decide (fieldAt b 24 8 % 64 ≠ 0)
  | 9 => byteAt b 16 == 0 || decide (4 < byteAt b 16)
  | _ => false

/-- Whether a queue can be made to enter ABORTED now: false while the translation of its entry waits (R41, R65). -/
def State.abortReady (s : State) (key : QKey) : Bool × State :=
  match s.queue key, s.job key.part key.job with
  | none, some j => match s.readEntry key j 0 with
    | (.wait, s) => (false, s)
    | (_, s) => (true, s)
  | _, _ => (true, s)

/-- A queue enters ABORTED, resident or not (R41, R65). Of a queue that is not resident and whose entry cannot be read, the change is lost. Mark:
DESIGN CHOICE (log entry 46). -/
def State.abortQueue (s : State) (key : QKey) (reason : Nat) : State :=
  match s.queue key with
  | some _ => s.modQueue key fun q => q.abort reason
  | none => match s.job key.part key.job with
    | none => s
    | some j => match s.readEntry key j 0 with
      | (.ok (pa, b), s) =>
        let st := if byteAt b 48 % 8 = 4 then 4 else 3
        s.putEntry key.part (pa + 48) (leBytes 1 (byteAt b 48 / 8 * 8 + st) ++ leBytes 1 reason)
      | (_, s) => s

/-- The messages of a SEED packet in order (R56). A tile past the fields of DEST, which lies outside every map, is given 2^24. -/
def seedMsgs (r : RunPkt) : List Msg :=
  let b := r.bytes
  let t := fieldAt b 24 4
  let ex := t % 1024
  let ey := t / 1024 % 1024
  let base := fieldAt b 20 4
  let key : LKey := ⟨r.part, fieldAt b 16 2 % 2 ^ 12, fieldAt b 16 2 / 2 ^ 12⟩
  let args := (List.range 3).map fun i => wd (fieldAt b (32 + 8 * i) 8)
  (List.range (seedCount b)).map fun i =>
    let x := base % 1024 + i % ex
    let y := base / 1024 % 1024 + i / ex % ey
    let z := base / 2 ^ 20 % 16 + i / (ex * ey)
    let dest := if x < 1024 ∧ y < 1024 ∧ z < 16 then x + y * 2 ^ 10 + z * 2 ^ 20 else 2 ^ 24
    (seedMsg r.die key (byteAt b 18 % 64) (byteAt b 18 / 64 % 2 == 1) dest args i)

/-- The seeding of a SEED packet, which counts on the launch from the packet's start if the launch then holds a reservation (R56, R90). -/
def State.seedStart (s : State) (r : RunPkt) : State :=
  let b := r.bytes
  let key : LKey := ⟨r.part, fieldAt b 16 2 % 2 ^ 12, fieldAt b 16 2 / 2 ^ 12⟩
  let (id, s) := s.fresh
  let live := (s.launch key).any fun l => !l.ended
  let z : Seeding :=
    { id := id, key := key, die := r.die, left := seedMsgs r, packet := some r.id, last := byteAt b 18 / 128 == 1, counted := live }
  { s with seedings := s.seedings ++ [z] }

/-- A packet that has started, with a name of its own. A GRAPH joins its phase, and an XALL does once its maps have been checked (R31, R401);
the boundary of a phase is marked (R53), by a member once it counts as started. -/
def State.startPkt (s : State) (q : RQueue) (p : ReadPkt) : State :=
  let (id, s) := s.fresh
  let r : RunPkt := { id := id, key := q.key, die := q.die, idx := p.idx, bytes := p.bytes, part := q.key.part, job := q.key.job }
  let s := if pktType p.bytes = 2 then s.seedStart r else s
  let s := { s with running := s.running ++ [r] }
  let s := s.modQueue q.key fun q => { q with ready := q.ready.drop 1, granted := false }
  let s := if pktType p.bytes = 7 then s.joinPhase q.key.part q.key.job (pktPhase p.bytes) else s
  if pktPhaseEnd p.bytes && !pktMember p.bytes then s.markPhase q.key.part q.key.job (pktPhase p.bytes) else s

/-- Whether the packets read are a gang that another packet has broken (R66). -/
def RQueue.broken (q : RQueue) : Bool :=
  match q.ready with
  | [] => false
  | p :: t =>
    pktType p.bytes == 1 && byteAt p.bytes 56 != 0 && (t.any fun r =>
      !(pktType r.bytes == 1 && byteAt r.bytes 56 == byteAt p.bytes 56 && byteAt r.bytes 57 == byteAt p.bytes 57))

/-- The arbiter's choice starts: a LAUNCH is granted and waits for its placement, every other packet starts (R50 to R53, R69). -/
def State.startHead (s : State) (q : RQueue) (p : ReadPkt) : State :=
  if q.broken then s.dropHeads q q.ready.length none (some 3)
  else if pktType p.bytes = 1 then s.modQueue q.key fun q => { q with granted := true }
  else match s.startCheck q p.bytes with
    | (.wait, s) => s
    | (.bad spare, s) => s.dropHeads q 1 spare (some 3)
    | (.cancelled, s) => s.dropHeads q 1 none none
    | (.ok, s) => if s.pktBad q p.bytes then s.dropHeads q 1 none (some 3) else s.startPkt q p

/-- PACKET_START (R51, R58, R69). -/
def execPacketStart (die : Nat) (s : State) : Out :=
  let idle := fun (q : RQueue) => if q.die == die && !s.mayStart q then { q with deficit := 0 } else q
  match s.arbitrate die with
  | none => .next { s with queues := s.queues.map idle }
  | some (q, left) =>
    let s := { s with queues := s.queues.map idle }
    let s := s.modQueue q.key fun q => { q with deficit := left }
    match q.ready with
    | [] => .next s
    | p :: _ => .next ((s.modDie die fun d => { d with drrAt := visitOf q.key }).startHead q p)

/-- The members of the gang at the head of a queue, or its one LAUNCH (R66). -/
def RQueue.members (q : RQueue) : List ReadPkt :=
  match q.ready with
  | [] => []
  | p :: _ => if byteAt p.bytes 56 = 0 then [p] else q.ready

/-- The checks of R50, R53 and R58 on the members of a gang in order; a boundary that an earlier member marks counts. -/
def State.checkMembers (q : RQueue) : List Nat → List ReadPkt → State → StartRes × State
  | _, [], s => (.ok, s)
  | ends, p :: t, s =>
    match s.startCheck q p.bytes with
    | (.ok, s) =>
      if ends.contains (pktPhase p.bytes) then (.bad none, s)
      else match State.checkMembers q (if pktPhaseEnd p.bytes then pktPhase p.bytes :: ends else ends) t s with
        | (.bad (some i), s) => (.bad (some (i + 1)), s)
        | r => r
    | r => r

/-- Granted LAUNCH packets are placed: the packets run until their launches complete (R55, R76). Where a resource is short the queue is
BLOCKED, no packet of it being startable, and its deficit is 0 (R65, R69). -/
def State.placeHeads (s : State) (q : RQueue) (policy : List Nat) : State :=
  let ms := q.members
  match State.checkMembers q [] ms s with
  | (.wait, s) => s
  | (.bad spare, s) => s.dropHeads q ms.length spare (some 3)
  | (.cancelled, s) => s.dropHeads q ms.length none none
  | (.ok, s) =>
    let base := s.serial
    let ps := (List.range ms.length).zip ms |>.map fun (i, p) =>
      ({ req := LaunchReq.parse p.bytes, owner := .packet (base + i), queue := some q.key, phase := pktPhase p.bytes, die := q.die,
         gangId := base } : Placement)
    let t := { s with serial := base + ms.length }
    match t.place (queueName q.key) q.key.part q.key.job policy ps with
    | (.wait, s) => s
    | (.short, s) => s.modQueue q.key fun q => { q with granted := false, deficit := 0, short := true }
    | (.later, s) => s.modQueue q.key fun q => { q with granted := false, deficit := 0 }
    | (.malformed, s) => s.dropHeads q ms.length none (some 3)
    | (.placed, s) =>
      let run := fun (i : Nat) (p : ReadPkt) => ({ id := base + i, key := q.key, die := q.die, idx := p.idx, bytes := p.bytes,
                                                   part := q.key.part, job := q.key.job } : RunPkt)
      let s := { s with running := s.running ++ ((List.range ms.length).zip ms).map fun (p : Nat × ReadPkt) => run p.1 p.2 }
      s.modQueue q.key fun q => { q with ready := q.ready.drop ms.length, granted := false }

def State.runPkt (s : State) (rid : Nat) : Option RunPkt := s.running.find? fun r => r.id == rid
def State.modRun (s : State) (rid : Nat) (f : RunPkt → RunPkt) : State :=
  { s with running := s.running.map fun r => if r.id == rid then f r else r }

/-- A LAUNCH counts as started: its seeds have been sent, and the boundary of its phase is marked if it ends one (R53, R439). -/
def State.launchStarted (s : State) (r : RunPkt) : State :=
  let s := s.modRun r.id fun r => { r with begun := true }
  if pktPhaseEnd r.bytes then s.markPhase r.part r.job (pktPhase r.bytes) else s

/-- LAUNCH_PACKET (R54, R55, R76, R79): a granted LAUNCH or gang is placed with the placement policy's cluster list; then its seeds
leave one by one. -/
def execLaunchPacket (key : QKey) (clusters : List Nat) (s : State) : Out :=
  match s.queue key with
  | none => .next s
  | some q =>
    if q.granted ∧ q.st ≠ .stopped ∧ q.st ≠ .aborted then .next (s.placeHeads q clusters)
    else match s.running.find? fun r => r.key == key && pktType r.bytes == 1 && !r.begun with
      | none => .next s
      | some r =>
        let req := LaunchReq.parse r.bytes
        let lk := req.key r.part
        let s := match s.launch lk with
          | some l => s.seedLaunch l req
          | none => s
        .next (if s.seeded lk then (s.launchStarted r).noteEnd lk else s)

/-- A packet completes, or ends in failure: its signal action, and it runs no longer (R52, R460). -/
def State.finishPkt (s : State) (rid : Nat) (ok : Bool) : State :=
  match s.runPkt rid with
  | none => s
  | some r =>
    match s.sigAct (unitName 3 rid) r.die r.part r.job .packet (pktSig r.bytes) (!ok) (pktVal r.bytes) r.key.handle with
    | (.wait, s) => s
    | (_, s) => { s with running := s.running.filter (fun r => r.id != rid), watches := s.watches.filter fun w => w.rid != rid }

/-- A step of a running packet of a type. -/
def pktEvent (rid type : Nat) (f : RunPkt → State → State) (s : State) : Out :=
  match s.runPkt rid with
  | none => .next s
  | some r => stepIf (pktType r.bytes == type) (f r) s

/-- SEED_PACKET (R56): its messages, the release of HOLD after sending, and its completion. -/
def execSeedPacket (rid : Nat) (s : State) : Out :=
  pktEvent rid 2 (fun _ s =>
    match s.seedings.find? fun z => z.packet == some rid with
    | none => s.finishPkt rid true
    | some z =>
      if z.left ≠ [] then s.seedStep z
      else if z.last then
        ((s.modLaunch z.key fun l => { l with hold := false }).modSeeding z.id fun z => { z with last := false }).noteEnd z.key
      else if z.outstanding = 0 then
        State.noteEnd { s with seedings := s.seedings.filter fun y => y.id != z.id } z.key
      else s) s

/-- The rows of a COPY packet: source and destination (R62). -/
def copyRows (b : List Byte) : List (Nat × Nat) :=
  if fieldAt b 32 4 = 0 then []
  else (List.range (fieldAt b 36 4)).map fun r =>
    ((fieldAt b 16 8 + r * fieldAt b 40 8) % 2 ^ 64, (fieldAt b 24 8 + r * fieldAt b 48 8) % 2 ^ 64)

/-- Rows of n bytes translated for reading and writing (R62, R267): the source's and the destination's pieces in order. A row outside the
global window ends the copy in failure. Mark: DESIGN CHOICE (log entry 115). -/
def State.mapRows (name die part job n : Nat) :
    List (Nat × Nat) → State → URes (List (List (Nat × Nat × Nat) × List (Nat × Nat × Nat))) × State
  | [], s => (.ok [], s)
  | (a, b) :: t, s =>
    if inGlobal a = false ∨ inGlobal (a + (n - 1)) = false ∨ inGlobal b = false ∨ inGlobal (b + (n - 1)) = false then (.fail stAperture, s)
    else match State.unitMap name die none part job 0 (pagesIn n) a n s with
    | (.fail c, s) => (.fail c, s)
    | (.wait, s) => (.wait, s)
    | (.ok src, s) => match State.unitMap name die none part job 1 (pagesIn n) b n s with
      | (.fail c, s) => (.fail c, s)
      | (.wait, s) => (.wait, s)
      | (.ok dst, s) => match State.mapRows name die part job n t s with
        | (.ok l, s) => (.ok ((src, dst) :: l), s)
        | (.fail c, s) => (.fail c, s)
        | (.wait, s) => (.wait, s)

/-- The source parts of rows; none where a tile fails its check. -/
def State.rowParts (s : State) : List (List (Nat × Nat × Nat) × List (Nat × Nat × Nat)) →
    Option (List (List SrcPart × List (Nat × Nat × Nat)))
  | [] => some []
  | (src, dst) :: t => match s.srcParts 0 src, State.rowParts s t with
    | some p, some l => some ((p, dst) :: l)
    | _, _ => none

/-- The address of a destination at an offset of its pieces. -/
def pieceVa (l : List (Nat × Nat × Nat)) (off n : Nat) : Nat := (((slicePieces l off n).head?).map (·.1)).getD 0

/-- Parts of a row written, and those at a peer asked for; the answer counts the pieces asked and gives the status of a peer that could
not be (R62, R286, R364). -/
def State.moveRow (s : State) (o : Origin) (part job die : Nat) (req : Nat → Nat → PeerReq) (parts : List SrcPart)
    (dst : List (Nat × Nat × Nat)) : State × Nat × Nat :=
  parts.foldl (fun a p => match p.peer with
    | none => (State.writePieces o part job die (slicePieces dst p.off p.data.length) p.data a.1, a.2)
    | some pa => match a.1.reachPeer pa with
      | none => (a.1, a.2.1, stPerm)
      | some q =>
        if q.isol then (a.1.epDrop die EpDrop.addIsolated, a.2.1, stIsolated)
        else (a.1.askPeer die part q.ep (req (pieceVa dst p.off p.len) p.len) fun t => .readreq t part (peerAddr pa) p.len,
              a.2.1 + 1, a.2.2)) (s, 0, stOk)

/-- Rows copied by a unit: its requests are on their way, and pieces asked of peers are counted; the answer gives the status of a
failure where one was met (R62). -/
def State.copyBlock (s : State) (o : Origin) (name die part job n : Nat) (rows : List (Nat × Nat)) (req : Nat → Nat → PeerReq) :
    URes (Nat × Nat) × State :=
  match State.mapRows name die part job n rows s with
  | (.wait, s) => (.wait, s)
  | (.fail c, s) => (.fail c, s)
  | (.ok l, s) => match s.rowParts l with
    | none => (.fail stSeal, l.foldl (fun s r => r.1.foldl (fun s p => s.noteLost part p.2.1) s) s)
    | some ps =>
      let r := ps.foldl (fun a p =>
        let m := a.1.moveRow o part job die req p.1 p.2
        (m.1, a.2.1 + m.2.1, if a.2.2 = stOk then m.2.2 else a.2.2)) (s, 0, stOk)
      (.ok r.2, r.1)

/-- COPY_PACKET (R62, R442). A destination write that its merge drops (R258) does not fail the packet. Mark: DESIGN CHOICE (log entry 110). -/
def execCopyPacket (rid : Nat) (s : State) : Out :=
  pktEvent rid 3 (fun r s =>
    let name := unitName 3 rid
    if !r.begun then
      match s.copyBlock (.unit name) name r.die r.part r.job (fieldAt r.bytes 32 4) (copyRows r.bytes) (.packet rid) with
      | (.wait, s) => s
      | (.fail _, s) => s.modRun rid fun r => { r with begun := true, failed := true }
      | (.ok (n, c), s) => s.modRun rid fun r => { r with begun := true, owed := r.owed + n, failed := r.failed || c != stOk }
    else if r.owed = 0 ∧ s.asking (.unit name) = false then s.finishPkt rid (!r.failed)
    else s) s

/-- The value of a signal that a BARRIER waits on: known, unreadable, or not known yet (R59). -/
inductive SigVal where
  | known (v : Word)
  | fault
  | wait
  deriving DecidableEq, Repr

/-- One entry of a BARRIER read; a peer is asked, and its answer kept until all are known. -/
def State.barrierRead (s : State) (r : RunPkt) (k va : Nat) : SigVal × State :=
  if inGlobal va = false then (.fault, s)
  else match s.unitXlate (unitName 3 r.id) r.die none r.part r.job va 0 with
  | (.wait, s) => (.wait, s)
  | (.fail _, s) => (.fault, s)
  | (.ok e, s) =>
    let pa := e.phys va
    match paKind pa with
    | .invalid => (.fault, s)
    | .peer _ =>
      match r.vals.find k with
      | some v => (.known v, s)
      | none =>
        if s.waits.any fun w => w.req == .barrier r.id k then (.wait, s)
        else match s.reachPeer pa with
          | none => (.fault, s)
          | some p =>
            if p.isol then (.fault, s)
            else (.wait, s.askPeer r.die r.part p.ep (.barrier r.id k) fun t => .readreq t r.part (peerAddr pa) 8)
    | _ => match s.readPoc pa 8 with
      | some b => (.known (wd (leNat b)), s)
      | none => (.fault, s.noteLost r.part pa)

/-- The outcome of an evaluation of a BARRIER: satisfied, an abort with a reason, or not yet; all says whether every signal is known
(R59). -/
inductive BarRes where
  | done
  | abort (reason : Nat)
  | not (all : Bool)
  deriving DecidableEq, Repr

/-- The entries of a BARRIER evaluated in order: the first used one that is unreadable or negative gives the REASON. Mark: DESIGN CHOICE (log
entry 115). -/
def State.barrierEval (r : RunPkt) : List (Nat × Nat × Nat) → State → BarRes × State
  | [], s => (.done, s)
  | (k, va, tgt) :: t, s =>
    if va = 0 then State.barrierEval r t s
    else match s.barrierRead r k va with
      | (.fault, s) => (.abort 5, s)
      | (.wait, s) => match State.barrierEval r t s with
        | (.abort n, s) => (.abort n, s)
        | (_, s) => (.not false, s)
      | (.known v, s) =>
        if sg v < 0 then (.abort 1, s)
        else match State.barrierEval r t s with
          | (.done, s) => (if (tgt : Int) ≤ sg v then .done else .not true, s)
          | x => x

/-- A BARRIER has aborted: its signal is set negative, and then its queue is, as soon as both can be (R59, R441). -/
def State.abortBarrier (s : State) (r : RunPkt) (reason : Nat) : State :=
  let again := fun (s : State) => s.modRun r.id fun r => { r with reason := some reason, pollAt := s.clock }
  match s.abortReady r.key with
  | (false, s) => again s
  | (true, s) =>
    let t := s.finishPkt r.id false
    if (t.runPkt r.id).isNone then t.abortQueue r.key reason else again t

/-- An evaluation of a BARRIER, and its next poll 4 µs later (R59). -/
def State.evalBarrier (s : State) (r : RunPkt) : State :=
  if r.failed then s.abortBarrier r 5
  else if r.reason.isSome then s.abortBarrier r (r.reason.getD 5)
  else
    let waits := barrierWaits r.bytes
    match State.barrierEval r ((List.range 4).zip waits) s with
    | (.done, s) => s.finishPkt r.id true
    | (.abort n, s) => s.abortBarrier r n
    | (.not all, s) => s.modRun r.id fun r => { r with pollAt := s.clock + Config.us 4, vals := if all then [] else r.vals }

/-- The signals of a BARRIER that its die's watch table takes: 256 entries, those of device memory that translate now (R59). -/
def State.watchFor (s : State) (r : RunPkt) : State :=
  (barrierWaits r.bytes).foldl (fun s w =>
    if w.1 = 0 ∨ 256 ≤ (s.watches.filter fun v => v.die == r.die).length then s
    else match s.xlate r.part r.job w.1 0 with
      | .ok e => { s with watches := s.watches ++ [⟨r.die, e.phys w.1, r.id⟩] }
      | _ => s) s

/-- BARRIER_PACKET (R59): the evaluation at its start. -/
def execBarrierPacket (rid : Nat) (s : State) : Out :=
  pktEvent rid 4 (fun r s =>
    if r.begun then s
    else ((s.watchFor r).modRun rid fun r => { r with begun := true }).evalBarrier { r with begun := true }) s

/-- BARRIER_POLL (R59): the evaluation that a watched operation or the poll's time brings. -/
def execBarrierPoll (rid : Nat) (s : State) : Out :=
  pktEvent rid 4 (fun r s => if r.begun ∧ r.pollAt ≤ s.clock then s.evalBarrier r else s) s

/-- SIGNAL_PACKET (R60). -/
def execSignalPacket (rid : Nat) (s : State) : Out :=
  pktEvent rid 5 (fun r s =>
    if r.begun then s.finishPkt rid (!r.failed)
    else
      let va := fieldAt r.bytes 16 8
      let ended := fun (s : State) (failed : Bool) => s.modRun rid fun r => { r with begun := true, failed := failed }
      let neg := byteAt r.bytes 32 == 1
      match s.takeSigEnd (unitName 3 rid) va neg with
      | some (ok, s) => ended s (!ok)
      | none => match s.unitXlate (unitName 3 rid) r.die none r.part r.job va 3 with
        | (.wait, s) => s
        | (.fail _, s) => ended s true
        | (.ok e, s) =>
          if paKind (e.phys va) ≠ .sealed then ended s true
          else match s.signalFor (unitName 3 rid) r.part r.job va (e.phys va) neg (fieldAt r.bytes 24 8) with
            | (none, s) => s
            | (some ok, s) => ended s (!ok)) s

/-- The fence record (R61). -/
def fenceRecord (r : RunPkt) (ns fseq : Nat) : List Byte :=
  leBytes 8 (r.idx + 1) ++ leBytes 8 ns ++ leBytes 2 r.key.handle ++ leBytes 2 0 ++ leBytes 4 fseq ++ leBytes 8 0

/-- A queue's FENCEREC and FSEQ, from its place or from its entry with the entry's address (R40, R61). -/
def State.fenceState (s : State) (key : QKey) : URes (Nat × Nat × Option (Nat × List Byte)) × State :=
  match s.queue key with
  | some q => (.ok (q.fencerec, q.fseq, none), s)
  | none => match s.job key.part key.job with
    | none => (.fail stPage, s)
    | some j => match s.readEntry key j 0 with
      | (.ok (pa, b), s) => (.ok (fieldAt b 40 8, fieldAt b 52 4, some (pa, b)), s)
      | (.fail c, s) => (.fail c, s)
      | (.wait, s) => (.wait, s)

/-- RECORDED and FSEQ after a record has been written (R40, R61). -/
def State.noteRecord (s : State) (key : QKey) (fseq : Nat) (entry : Option (Nat × List Byte)) : State :=
  match entry with
  | none => s.modQueue key fun q => { q with recorded := true, fseq := fseq }
  | some (pa, b) =>
    let flags := byteAt b 50
    (s.putEntry key.part (pa + 50) (leBytes 1 (flags / 8 * 8 + 4 + flags % 4))).putEntry key.part (pa + 52) (leBytes 4 fseq)

/-- FENCE_PACKET (R61): what completed before it is visible already; the record is one 32-byte write, and it waits until that can be made at
once. A FENCE of an evicted queue whose entry cannot be read ends in failure. Mark: DESIGN CHOICE (log entry 46). -/
def execFencePacket (rid : Nat) (s : State) : Out :=
  pktEvent rid 6 (fun r s =>
    if r.begun then s.finishPkt rid (!r.failed)
    else
      let ended := fun (s : State) (failed : Bool) => s.modRun rid fun r => { r with begun := true, failed := failed }
      match s.fenceState r.key with
      | (.wait, s) => s
      | (.fail _, s) => ended s true
      | (.ok (va, fseq, entry), s) =>
        if va = 0 then ended s false
        else if va % 32 ≠ 0 ∨ inGlobal va = false then ended s true
        else match s.unitXlate (unitName 3 rid) r.die none r.part r.job va 1 with
          | (.wait, s) => s
          | (.fail _, s) => ended s true
          | (.ok e, s) =>
            let pa := e.phys va
            if paKind pa ≠ .sealed then ended s true
            else if s.tilesWait (pa :: (entry.map (·.1)).toList) then s
            else if s.tileFails (tileOf pa) then ended (s.poison r.part (tileOf pa)) true
            else
              let n := (fseq + 1) % 2 ^ 32
              ended ((s.writePoc pa r.part (fenceRecord r s.nsNow n) 2).noteRecord r.key n entry) false) s

/-- CANCEL_PACKET (R64, R435 to R437): the cancel starts, and the packet completes when the level has settled. -/
def execCancelPacket (rid : Nat) (s : State) : Out :=
  pktEvent rid 9 (fun r s =>
    let level := byteAt r.bytes 16
    let id := cancelId level (fieldAt r.bytes 18 2)
    let inst := fieldAt r.bytes 20 2
    if !r.begun then (s.modRun rid fun r => { r with begun := true }).cancelLevel level r.part r.job id inst
    else if s.cancelSettled level r.part r.job id inst then s.finishPkt rid true
    else s) s

/-- NOP_PACKET (R64). -/
def execNopPacket (rid : Nat) (s : State) : Out := pktEvent rid 10 (fun _ s => s.finishPkt rid true) s

end Sys2Proof.Machine
end

