-- ==== Sys2Proof/Machine/Layout.lean ====
section
/-! DEFINITION. Layout maps of the transposing all-to-all: their fields, owners and local offsets, the runs that a rank sends, and
where a bead's bytes land (R393, R394, R396). -/

namespace Sys2Proof.Machine

/-- A layout map from its 48 bytes (R393). -/
def LMap.parse (b : List Byte) : LMap :=
  { esz := byteAt b 0, ndim := byteAt b 1, nranks := fieldAt b 2 2, order := (List.range 4).map fun j => byteAt b (4 + j),
    ext := (List.range 4).map fun j => fieldAt b (8 + 4 * j) 4, parts := (List.range 4).map fun j => fieldAt b (24 + 2 * j) 2 }

/-- The element size in bytes, the extent and the parts of a dimension, and the size of a block along it (R393, R394). -/
def LMap.es (m : LMap) : Nat := 2 ^ (m.esz + 1)
@[inherit_doc LMap.es] def LMap.extOf (m : LMap) (d : Nat) : Nat := m.ext.getD d 1
@[inherit_doc LMap.es] def LMap.partsOf (m : LMap) (d : Nat) : Nat := m.parts.getD d 1
@[inherit_doc LMap.es] def LMap.blockOf (m : LMap) (d : Nat) : Nat := m.extOf d / m.partsOf d

/-- The number of elements of the array. -/
def LMap.count (m : LMap) : Nat := m.extOf 0 * m.extOf 1 * m.extOf 2 * m.extOf 3

/-- A malformed map (R393). -/
def LMap.bad (m : LMap) : Bool :=
  let dims := List.range m.ndim
  let rest := (List.range 4).drop m.ndim
  decide (3 < m.esz) || decide (m.ndim < 1) || decide (4 < m.ndim) || decide (m.nranks < 2) || decide (1024 < m.nranks)
    || !(dims.all fun d => (m.order.take m.ndim).contains d)
    || (dims.any fun d => m.extOf d == 0 || m.partsOf d == 0 || m.extOf d % m.partsOf d != 0)
    || (rest.any fun d => m.extOf d != 1 || m.partsOf d != 1)
    || m.partsOf 0 * m.partsOf 1 * m.partsOf 2 * m.partsOf 3 != m.nranks
    || decide (2 ^ 44 < m.count * m.es)

/-- Two maps of one XALL agree (R393). -/
def LMap.agrees (a b : LMap) : Bool := a.esz == b.esz && a.ndim == b.ndim && a.nranks == b.nranks && a.ext == b.ext

/-- The coordinate along a dimension of the element of a canonical number (R394). -/
def LMap.coord (m : LMap) (e d : Nat) : Nat := e / ((List.range d).map m.extOf).prod % m.extOf d

/-- The owner rank of an element (R394). -/
def LMap.owner (m : LMap) (e : Nat) : Nat :=
  ((List.range 4).map fun d => m.coord e d / m.blockOf d * ((List.range d).map m.partsOf).prod).sum

/-- The local byte offset of an element on its owner (R394). -/
def LMap.offset (m : LMap) (e : Nat) : Nat :=
  let dim := fun (j : Nat) => m.order.getD j 0
  ((List.range m.ndim).map fun j =>
    m.coord e (dim j) % m.blockOf (dim j) * ((List.range j).map fun i => m.blockOf (dim i)).prod).sum * m.es

/-- Consecutive elements joined into runs: the first element and the number of elements. -/
def runsFrom : List Nat → List (Nat × Nat)
  | [] => []
  | e :: t => match runsFrom t with
    | (f, n) :: rest => if e + 1 = f then (e, n + 1) :: rest else (e, 1) :: (f, n) :: rest
    | [] => [(e, 1)]

/-- The elements of a rank's source block that go to another rank, in increasing canon (R396). -/
def LMap.toRank (src dst : LMap) (me r : Nat) : List Nat :=
  (List.range src.count).filter fun e => src.owner e == me && dst.owner e == r

/-- The pieces that a rank sends to another, each one bead: the canonical byte offset and the number of bytes (R396). -/
def LMap.pieces (src dst : LMap) (me r : Nat) : List (Nat × Nat) :=
  (runsFrom (src.toRank dst me r)).flatMap fun p => splitAt 256 (p.2 * src.es + 1) (p.1 * src.es) (p.2 * src.es)

/-- The local address of each byte of a range of canonical offsets under a map, from a base. -/
def LMap.byteAddrs (m : LMap) (base canon n : Nat) : List Nat :=
  (List.range n).map fun i => (base + m.offset ((canon + i) / m.es) + (canon + i) % m.es) % 2 ^ 64

/-- Consecutive addresses joined into ranges. -/
def rangesOf (l : List Nat) : List (Nat × Nat) := runsFrom l

/-- Whether a bead covers an offset beyond the array, or an element that another rank owns (R396). -/
def LMap.refuses (m : LMap) (me canon n : Nat) : Bool :=
  decide (m.count * m.es < canon + n) || (List.range n).any fun i => m.owner ((canon + i) / m.es) != me

end Sys2Proof.Machine
end

