-- ==== Sys2Proof/Machine/Rods.lean ====
section
/-! DEFINITION. Rods: what moves them between their states, their beads, beams and notices, flags, timers and quarantine (R349, R352 to
R358, R372, R375, R376, R387, R388, R395 to R397, R443). -/

namespace Sys2Proof.Machine

/-- The die of a rod number (R352). -/
def rodDie (n : Nat) : Nat := n / 4096 % 4

/-- Whether the block of a rod belongs to a partition (R352). -/
def State.rodOwned (s : State) (part n : Nat) : Bool :=
  s.rodblk.get (0, false) (rodDie n * 64 + n % 4096 / 64) == (part, true)

/-- The status word of a rod (R376). -/
def Rod.word (r : Rod) : Word :=
  wd (r.st.code + (if r.send then 8 else 0) + r.short % 4 * 2 ^ 4 + r.gen % 256 * 2 ^ 8 + (if r.send then r.nput % 2048 * 2 ^ 16 else 0)
    + r.count % 2 ^ 32 * 2 ^ 32)

/-- EVENT ROD (R358). -/
def State.rodEvent (s : State) (n : Nat) (peer : Nat × Nat) : State :=
  let r := s.rod n
  s.event roleFault (some (rodDie n)) r.part (rodDie n)
    [wd (0x30 + n * 2 ^ 8 + r.part * 2 ^ 22 + (if r.send then 2 ^ 27 else 0)), wd (r.count % 2 ^ 32 + (r.expect.getD 0xFFFFFFFF) * 2 ^ 32),
     wd (peer.1 + peer.2 * 2 ^ 16), 0#64, 0#64, 0#64]

/-- An XALL fails: every rod of it that is still its own is in FAULT, and no further bead of it is sent (R397). -/
def State.failXall (s : State) (id : Nat) : State :=
  let mine := fun (r : Rod) => r.use == .xall id true
  let gone := s.rods.select fun _ r => mine r
  { s with xalls := s.xalls.map fun x => if x.id == id then { x with failed := true } else x,
           rods := s.rods.map fun _ r => if mine r then { r with st := .fault, use := .program, repeats := [] } else r,
           puts := s.puts.filter fun p => !gone.contains p.2.rod || p.2.target.isSome }

/-- A command that is injected for the first time, for a PUTC or a node, or for a rod that has been freed since: no replay. -/
def PutJob.isFirst (j : PutJob) : Bool := j.core.isSome || j.node.isSome || j.target.isSome

/-- A rod enters FAULT, and what it belongs to fails with it (R355 to R358, R390, R397). EVENT ROD is sent. The beads that PUTC has given
its endpoint, and the beams behind them, still leave (R372, R390, R443); replays do not. Mark: DEDUCED (log entry 126). -/
def State.rodFault (s : State) (n : Nat) (peer : Nat × Nat) : State :=
  let r := s.rod n
  let s := s.modRod n fun r => { r with st := .fault, repeats := [], flagdue := false, rearm := false }
  let s := { s with puts := s.puts.filter fun p => p.2.rod != n || p.2.isFirst }.rodEvent n peer
  match r.use with
  | .graph key _ =>
    let (w, s) := s.draw
    s.abortInst key (w.toNat % 2 ^ 16) 12
  | .xall id true => s.failXall id
  | .xall _ false => s.modRod n fun r => { r with use := .program }
  | .program => s

/-- A receive rod enters FAULT, and the sender is told (R355). -/
def State.recvFault (s : State) (n : Nat) (peer : Nat × Nat) : State :=
  let r := s.rod n
  (s.emit (rodDie n) peer.1 (.notice peer.2 r.gen true r.count)).rodFault n peer

/-- A rod goes into quarantine (R354, R375). The beads that PUTC has given its endpoint, and the beams behind them, still leave (R443); replays
and the beads of an XALL do not (R397). -/
def State.freeRod (s : State) (n : Nat) : State :=
  let s := match (s.rod n).use with
    | .xall id true => s.failXall id
    | _ => s
  let r := s.rod n
  let keep := fun (p : Nat × PutJob) => if p.2.rod = n ∧ p.2.target.isNone = true then
      (p.1, { p.2 with target := some (r.tdev, r.trod, r.tpart) }) else p
  let s := { s with
    puts := (s.puts.filter fun (p : Nat × PutJob) => p.2.rod != n || p.2.core.isSome || p.2.target.isSome).map keep
    deferred := s.deferred.filter fun d => d.rod != n }
  s.modRod n fun r =>
    { r with st := .quarantine, quarUntil := s.clock + Config.ms 2, repeats := [], flagdue := false, rearm := false, use := .program,
             list := [], block := none }

/-- A receive rod is armed at a generation (R355, R387). -/
def Rod.arm (r : Rod) (now gen t : Nat) : Rod :=
  { r with st := .armed, send := false, gen := gen % 256, count := 0, expect := none, short := 0, sender := none, t := t, genAt := now,
           rearm := false, flagdue := false, repeats := [] }

/-- A send rod is opened at a generation (R357, R387). -/
def Rod.open_ (r : Rod) (now gen t : Nat) : Rod :=
  { r with st := .open_, send := true, gen := gen % 256, count := 0, expect := none, short := 0, sender := none, nput := 0, list := [], t := t,
           genAt := now, rearm := false, flagdue := false, repeats := [] }

/-- The clamped shortfall timeout of a partition (R348, R352). -/
def State.shortTmo (s : State) (part : Nat) : Nat := fabShort (s.part part).fabpol

/-- A re-arm that 16 µs have passed for (R353, R355). -/
def State.rearmRod (s : State) (n : Nat) : State := s.modRod n fun r => r.arm s.clock (r.gen + 1) r.t

/-- A receive rod's flag action has been made, or there is none to make (R356, R387). -/
def State.rodDone (s : State) (n : Nat) : State :=
  let s := s.modRod n fun r => { r with st := .done, flagdue := false }
  match (s.rod n).use with
  | .graph key i => s.modInst key fun x => { x with doneRods := x.doneRods ++ [i] }
  | _ => s

/-- The flag action of a receive rod whose counts are equal; it waits for its translation's stage-2 fault (R356). -/
def State.flagAction (s : State) (n : Nat) : State :=
  let r := s.rod n
  let peer := r.sender.getD (0, 0)
  let wait := fun (s : State) => s.modRod n fun r => { r with flagdue := true }
  if r.use != .program then s.rodDone n
  else match s.unitXlate (unitName 6 n) (rodDie n) none r.part r.job r.flagaddr 1 with
    | (.wait, s) => wait s
    | (.fail _, s) => s.recvFault n peer
    | (.ok e, s) =>
      let pa := e.phys r.flagaddr
      if paKind pa ≠ .sealed then s.recvFault n peer
      else if (if r.flagadd then s.sigWaits pa else s.tileWaits (tileOf pa)) then wait s
      else
        let out := if r.flagadd then s.signalOp r.part pa false (min r.flagval.toNat (2 ^ 63 - 1))
          else s.partialWrite pa r.part (cellsAt pa (leBytes 8 r.flagval.toNat))
        if out.2 then (if r.flagadd then out.1 else out.1.poke pa).rodDone n else out.1.recvFault n peer

/-- Flag actions that wait are tried again. -/
def State.dueFlags (s : State) : State :=
  (Tab.select s.rods fun _ (r : Rod) => r.flagdue).foldl (fun s n => s.flagAction n) s

/-- Whether a generation is current, old or future at a rod (R353). -/
inductive GenAge where
  | current | old | future
  deriving DecidableEq, Repr

@[inherit_doc GenAge]
def genAge (c g : Nat) : GenAge :=
  let d := (c + 256 - g % 256) % 256
  if d = 0 then .current else if d ≤ 128 then .old else .future

def EpDrop.addGen (e : EpDrop) : EpDrop := { e with gen := sat255 e.gen }
def EpDrop.addBadrod (e : EpDrop) : EpDrop := { e with badrod := sat255 e.badrod }
def EpDrop.addXlate (e : EpDrop) : EpDrop := { e with xlate := sat255 e.xlate }

/-- A drop counted by the endpoint of a rod's die (R351). -/
def State.rodDrop (s : State) (n : Nat) (f : EpDrop → EpDrop) : State := s.epDrop (rodDie n) f

/-- The first generation of the block that a graph or XALL rod's next instance runs at (R387, R388, R395). -/
def State.nextBlock (s : State) (r : Rod) : Option Nat :=
  match r.use with
  | .program => none
  | .graph key _ => (s.graph key).map fun g =>
      4 * (match g.inst with
        | some i => if i.startAt.isSome then i.num else g.next
        | none => g.next) % 256
  | .xall _ _ => r.block.map fun b => (b + 4) % 256

/-- Whether a generation lies in a block of four. -/
def inBlock (b g : Nat) : Bool := decide ((g + 256 - b % 256) % 256 < 4)

/-- Whether a packet of a generation is for the next XALL's block on a rod, so that it is held whatever role the rod has now (R395,
R444). -/
def State.nextXall (s : State) (r : Rod) (gen : Nat) : Bool :=
  (match r.use with
    | .xall _ _ => r.st != .free && r.st != .quarantine
    | _ => false) && (s.nextBlock r).any fun b => inBlock b gen

/-- The outcome of writing a bead's bytes: written and counted, dropped, the failure of an XALL, or a wait. -/
inductive BeadRes where
  | written (s : State)
  | dropped (s : State)
  | failed (s : State)
  | wait (s : State)

/-- Whether a write to any tile of pieces waits for a new key, and whether any fails its check (R258, R259). -/
def State.piecesWait (s : State) (l : List (Nat × Nat)) : Bool :=
  l.any fun p => paKind p.1 == .sealed
    && (List.range (tileOf (p.1 + (p.2 - 1)) + 1 - tileOf p.1)).any fun i => s.writeWaits (tileOf p.1 + i)

/-- Bytes written over physical pieces by a unit whose step makes the whole write (R257). -/
def State.writeAll (part : Nat) : List (Nat × Nat) → List Byte → State → State
  | [], _, s => s
  | (pa, n) :: t, data, s => State.writeAll part t (data.drop n) (s.writePoc pa part (data.take n) (n / 4096 + 2))

/-- Whether a write over pieces meets a tile that fails its merge read; a piece that is a whole tile replaces it and reads nothing
(R257, R258). -/
def State.mergeFails (s : State) (l : List (Nat × Nat)) : Bool :=
  l.any fun p => paKind p.1 == .sealed && (splitAt 4096 (p.2 / 4096 + 2) p.1 p.2).any fun q =>
    if q.2 = 4096 then s.seals.lost.contains (gibOf q.1) else s.tileFails (tileOf q.1)

/-- Bytes written over pieces, with the outcome. -/
def State.writeBead (s : State) (part : Nat) (l : List (Nat × Nat)) (data : List Byte) : BeadRes :=
  if s.piecesWait l then .wait s
  else
    let bad := s.mergeFails l
    let s := State.writeAll part l data s
    if bad then .failed s else .written s

/-- Ranges of local addresses translated for an access with a job's tables: the physical pieces in order (R385, R396). -/
def State.mapRanges (name die part job acc : Nat) : List (Nat × Nat) → State → URes (List (Nat × Nat)) × State
  | [], s => (.ok [], s)
  | (va, n) :: t, s =>
    if inGlobal va = false ∨ inGlobal (va + (n - 1)) = false then (.fail stAperture, s)
    else match State.unitMap name die none part job acc (pagesIn n) va n s with
      | (.fail c, s) => (.fail c, s)
      | (.wait, s) => (.wait, s)
      | (.ok l, s) => match State.mapRanges name die part job acc t s with
        | (.ok r, s) => (.ok (l.map (fun p => (p.2.1, p.2.2)) ++ r), s)
        | x => x

/-- Words that no rule gives, in order. -/
def State.drawWords : Nat → State → List Word × State
  | 0, s => ([], s)
  | n + 1, s =>
    let (w, s) := s.draw
    let (l, s) := State.drawWords n s
    (w :: l, s)

/-- A packet held in a deferral area that has still to be written at its place, in sealed device memory of the graph's job: its 512 bytes
are written once the translation and the tile allow it; where that cannot be, the packet is dropped as GEN (R244, R258, R259, R380, R388).
What the bytes hold is not given. Mark: DESIGN CHOICE (log entry 54). -/
def State.spill (s : State) (d : Deferred) : State :=
  match d.unwritten, (s.rod d.rod).use with
  | some i, .graph key _ => match s.graph key with
    | none => s
    | some g =>
      let drop := fun (s : State) => { s with deferred := s.deferred.erase d }.rodDrop d.rod EpDrop.addGen
      let done := fun (s : State) => { s with deferred := s.deferred.map fun e => if e == d then { d with unwritten := none } else e }
      match State.unitMap (unitName 6 (2 ^ 16 + d.rod)) d.die none key.part key.job 1 (pagesIn 512) (g.defaddr + 512 * i) 512 s with
      | (.wait, s) => s
      | (.fail _, s) => drop s
      | (.ok l, s) =>
        let pieces := l.map fun p => (p.2.1, p.2.2)
        if pieces.any fun p => paKind p.1 != .sealed then drop s
        else if s.piecesWait pieces then s
        else
          let (w, s) := State.drawWords 64 s
          match s.writeBead key.part pieces (w.flatMap fun w => leBytes 8 w.toNat) with
          | .written s => done s
          | .failed s => drop s
          | .dropped s => drop s
          | .wait s => s
  | _, _ => s

/-- The packets of deferral areas that have still to be written are tried in the order in which they came. -/
def State.dueDeferred (s : State) : State := (s.deferred.filter fun d => d.unwritten.isSome).foldl State.spill s

/-- A packet for the next block is held in the endpoint's buffer of 256 entries, or in its graph's deferral area; else it is dropped
as GEN (R388, R395). An entry of the area is taken as 512 bytes. -/
def State.defer_ (s : State) (n : Nat) (r : Rod) (pkt : Pkt) : State :=
  let held := (s.deferred.filter fun d => d.die == rodDie n && !d.spilled).length
  let d : Deferred := { die := rodDie n, rod := n, pkt := { pkt with deferred := true } }
  let add := fun (d : Deferred) => { s with deferred := s.deferred ++ [d] }
  if held < 256 then add d
  else match r.use with
    | .graph key _ => match s.graph key with
      | none => s.rodDrop n EpDrop.addGen
      | some g =>
        let rods := g.rods.map (·.rod)
        let used := (s.deferred.filter fun d => d.spilled && rods.contains d.rod).length
        if g.defaddr ≠ 0 ∧ 512 * (used + 1) ≤ g.deflen then
          let d := { d with spilled := true, unwritten := some used }
          State.spill (add d) d
        else s.rodDrop n EpDrop.addGen
    | _ => s.rodDrop n EpDrop.addGen

/-- What becomes of a bead or beam at its rod before its effect (R353, R355, R388, R390). -/
inductive RodGate where
  | take (r : Rod)
  | over_ (s : State)

/-- The checks on a bead or beam in order: the rod, its role and partition, a STOPPED graph, the generation, the sender and the
state. A graph rod that no instance has armed yet has no generation. -/
def State.rodGate (s : State) (n gen dpart srod : Nat) (pkt : Pkt) : RodGate :=
  let r := s.rod n
  let stopped := match r.use with
    | .graph key _ => (s.graph key).any fun (g : Graph) => g.stopped
    | _ => false
  let inGraph := match r.use with
    | .graph _ _ => true
    | _ => false
  if s.nextXall r gen && r.part == dpart then .over_ (s.defer_ n r pkt)
  else if (r.st = .free ∧ inGraph = false) ∨ r.st = .quarantine ∨ r.send = true ∨ r.part ≠ dpart then .over_ (s.rodDrop n EpDrop.addBadrod)
  else if stopped then .over_ (s.emit (rodDie n) pkt.sdev (.notice srod r.gen true r.count))
  else if r.st = .free ∨ genAge r.gen gen ≠ GenAge.current then
    .over_ (if (s.nextBlock r).any fun b => inBlock b gen then s.defer_ n r pkt else s.rodDrop n EpDrop.addGen)
  else if r.sender.any fun p => p != (pkt.sdev, srod) then .over_ (s.rodDrop n EpDrop.addBadrod)
  else .take r

/-- A beam takes effect at its rod (R355). -/
def State.beamIn (s : State) (n gen dpart count srod : Nat) (pkt : Pkt) : State :=
  match s.rodGate n gen dpart srod pkt with
  | .over_ s => s
  | .take r =>
    let peer := (pkt.sdev, srod)
    match r.st with
    | .armed =>
      let s := s.modRod n fun r =>
        { r with st := .beamed, expect := some count, sender := some peer, deadline := s.clock + Config.us r.t }
      if count < r.count then s.recvFault n peer else if r.count = count then s.flagAction n else s
    | .beamed => if r.expect = some count then s else s.recvFault n peer
    | .done => s
    | _ => s.rodDrop n EpDrop.addBadrod

/-- The first access to a lost GiB, by the stage-2 walks of a peer's read, store or atomic, raises TREELOST (R263). -/
def State.noteRange (s : State) (part : Nat) (l : List (Nat × Nat)) : State :=
  l.foldl (fun s p =>
    let t := (s.reads2 p.1 (rootOf (s.part part).s2root) 3).foldl (State.noteLost · part) s
    match t.stage2 part p.1 with
    | .ok l => t.noteLost part (l.out p.1)
    | _ => t) s

/-- The pieces that a stage-2 translation gives a bead's range; none where it is dropped as XLATE (R349). -/
def State.beadPieces (s : State) (part : Nat) : List (Nat × Nat) → Option (List (Nat × Nat))
  | [] => some []
  | (ipa, n) :: t => match s.stage2 part ipa with
    | .ok l =>
      if l.wr && !l.mig && paKind (l.out ipa) == .sealed then (State.beadPieces s part t).map fun r => (l.out ipa, n) :: r else none
    | _ => none

/-- The bytes of an ordinary bead. One that its translation drops raises no event at all (R349). -/
def State.beadWrite (s : State) (n dpart daddr : Nat) (data : List Byte) : BeadRes :=
  match s.beadPieces dpart (splitAt (2 ^ 16) 4 daddr data.length) with
  | none => .dropped (s.rodDrop n EpDrop.addXlate)
  | some l => match s.writeBead dpart l data with
    | .failed s => .dropped s
    | r => r

/-- The bytes of a bead of an XALL, through the destination map, into this device's or the host's memory (R396). A page of a peer's memory
fails it. Mark: DEDUCED (log entry 64). -/
def State.xallWrite (s : State) (x : Xall) (canon : Nat) (data : List Byte) : BeadRes :=
  match State.mapRanges (unitName 9 x.id) x.die x.part x.job 1 (rangesOf (x.dst.byteAddrs x.dstBase canon data.length)) s with
  | (.fail _, s) => .failed s
  | (.wait, s) => .wait s
  | (.ok l, s) =>
    if l.any fun p => isPeer p.1 then .failed s else s.writeBead x.part l data

/-- The age of a packet, as its injection time shows it (R346). -/
def State.ageOf (s : State) (pkt : Pkt) : Nat := (s.podNow + 2 ^ 16 - pkt.inj % 2 ^ 16) % 2 ^ 16

/-- Whether the packet lifetime of a packet is over (R346); of one that an endpoint keeps, by the time noted as it was taken in. -/
def State.expired (s : State) (pkt : Pkt) : Bool :=
  match pkt.ends with
  | some e => decide (e ≤ s.podNow)
  | none => decide (2001 ≤ s.ageOf pkt) && decide (s.ageOf pkt ≤ 65515)

/-- A packet that an endpoint keeps, with the time at which its lifetime is over (R346): its injection time is no longer enough once
65,536 µs have passed. -/
def State.stamped (s : State) (pkt : Pkt) : Pkt :=
  let left := if s.expired pkt then 0 else (2001 + 2 ^ 16 - s.ageOf pkt) % 2 ^ 16
  { pkt with ends := some (pkt.ends.getD (s.podNow + left)) }

/-- The result of a packet's effect: when the flag is true the packet is held until its effect no longer waits. -/
def State.hold (port : Nat) (pkt : Pkt) (r : Bool × State) : State :=
  if r.1 then { r.2 with held := r.2.held ++ [(port, r.2.stamped pkt)] } else r.2

/-- A bead takes effect at its rod; true while its write waits (R349, R355, R396). -/
def State.beadIn (s : State) (n gen dpart srod daddr : Nat) (data : List Byte) (pkt : Pkt) : Bool × State :=
  match s.rodGate n gen dpart srod pkt with
  | .over_ s => (false, s)
  | .take r =>
    let peer := (pkt.sdev, srod)
    if ¬(r.st = .armed ∨ r.st = .beamed) then (false, s.rodDrop n EpDrop.addBadrod)
    else
      let x := match r.use with
        | .xall id _ => s.xalls.find? fun x => x.id == id
        | _ => none
      if x.any fun x => x.dst.refuses x.me daddr data.length then (false, s.recvFault n peer)
      else if r.expect = some r.count then (false, (s.modRod n fun r => { r with sender := some peer }).recvFault n peer)
      else
        let counted := fun (s : State) =>
          let s := s.modRod n fun r => { r with count := r.count + 1, sender := some peer }
          if (s.rod n).expect = some (s.rod n).count then s.flagAction n else s
        match (match x with
          | some x => s.xallWrite x daddr data
          | none => s.beadWrite n dpart daddr data) with
        | .written s => (false, counted s)
        | .dropped s => (false, s)
        | .failed s => (false, match r.use with
            | .xall id _ => s.failXall id
            | _ => s)
        | .wait s => (true, s)

/-- The beads of a rod that an endpoint has still to inject. -/
def State.putsOf (s : State) (n : Nat) : Bool := s.puts.any fun p => p.2.rod == n && p.2.target.isNone

/-- A beam of a send rod leaves by the endpoint of a die: at BEAM that of the issuing core, later that of the rod (R344, R350, R357). -/
def State.emitBeam (s : State) (die n gen count : Nat) : State :=
  let r := s.rod n
  s.emit die r.tdev (.beam r.trod gen r.tpart count n)

/-- The retransmit window of a rod that beams opens (R357). -/
def Rod.beamed (r : Rod) (now : Nat) : Rod :=
  { r with st := .sent, repeats := [now + Config.us r.t, now + Config.us (2 * r.t)],
           deadline := now + Config.us (3 * r.t) + Config.ms 2 }

/-- The first command of a rod among some takes a beam behind those it has. -/
def markBeam (n : Nat) (b : Nat × Nat × Nat) : List (Nat × PutJob) → List (Nat × PutJob)
  | [] => []
  | p :: t => if p.2.rod = n ∧ p.2.target.isNone = true then (p.1, { p.2 with beams := p.2.beams ++ [b] }) :: t else p :: markBeam n b t

/-- The last of a rod's pending commands takes the beam, or the beam leaves at once (R357, R443). -/
def State.queueBeam (s : State) (die n gen count : Nat) : State :=
  if s.putsOf n then { s with puts := (markBeam n (die, gen, count) s.puts.reverse).reverse } else s.emitBeam die n gen count

/-- BEAM on a rod in OPEN (R357). -/
def State.sendBeam (s : State) (die n : Nat) : State :=
  let r := s.rod n
  (s.modRod n fun r => r.beamed s.clock).queueBeam die n r.gen r.count

/-- A send rod leaves SENT (R357). Replays that have not been injected are not: their bytes may change. -/
def State.closeWindow (s : State) (n : Nat) : State :=
  let s := { s with puts := s.puts.filter fun p => p.2.rod != n || p.2.isFirst }
  s.modRod n fun r =>
    { r with st := .open_, gen := if r.use == .program then (r.gen + 1) % 256 else r.gen, count := 0, nput := 0, list := [], repeats := [],
             genAt := if r.use == .program then s.clock else r.genAt }

/-- A SHORT notice takes effect (R357, R443). -/
def State.shortIn (s : State) (n g : Nat) : State :=
  let r := s.rod n
  let jobs := r.list.map fun c => (rodDie n, ({ rod := n, gen := g, cmd := c } : PutJob))
  let s := { s with puts := s.puts.filter (fun (p : Nat × PutJob) => p.2.rod != n || p.2.isFirst) ++ jobs }
  (s.modRod n fun r => { r.beamed s.clock with gen := g }).queueBeam (rodDie n) n g r.count

/-- Whether a notice is of a block that an XALL's rod has left (R353, R444). -/
def Rod.leftBlock (r : Rod) (gen : Nat) : Bool :=
  match r.use with
  | .xall _ _ => r.block.any fun b => !inBlock b gen
  | _ => false

/-- A SHORT or FAULT notice takes effect at its rod (R357, R358); one for the next XALL's block is held, and one of an earlier block is
dropped as GEN (R444). Mark: DEDUCED (log entry 126). -/
def State.noticeIn (s : State) (n gen : Nat) (fault : Bool) (pkt : Pkt) : State :=
  let r := s.rod n
  let bad := s.rodDrop n EpDrop.addBadrod
  if s.nextXall r gen then s.defer_ n r pkt
  else if r.st = .free ∨ r.st = .quarantine ∨ r.send = false ∨ r.tdev ≠ pkt.sdev then bad
  else if r.leftBlock gen then s.rodDrop n EpDrop.addGen
  else if fault then
    if r.st = .open_ ∨ r.st = .sent then s.rodFault n (r.tdev, r.trod) else bad
  else if r.st ≠ .sent then bad
  else if genAge r.gen gen = .future then s.shortIn n (gen % 256) else s.rodDrop n EpDrop.addGen

/-- Packets held for rods take effect in the order in which they arrived (R388, R444). -/
def State.applyDeferred (s : State) (rods : List Nat) : State :=
  let mine := s.deferred.filter fun d => rods.contains d.rod
  let s := { s with deferred := s.deferred.filter fun d => !rods.contains d.rod }
  mine.foldl (fun s d => match d.pkt.body with
    | .bead rod gen dpart srod daddr data => State.hold (4 * rodDie d.rod) d.pkt (s.beadIn rod gen dpart srod daddr data d.pkt)
    | .beam rod gen dpart count srod => s.beamIn rod gen dpart count srod d.pkt
    | .notice _ gen fault _ => s.noticeIn d.rod gen fault d.pkt
    | _ => s) s

/-- Rods' timers: a shortfall, and the fault after the third (R355). -/
def execRodTimerExpiry (rod : Nat) (s : State) : Out :=
  let r := s.rod rod
  stepIf (r.st == .beamed && !r.flagdue && decide (r.deadline ≤ s.clock)) (fun s =>
    let peer := r.sender.getD (0, 0)
    if r.short < 3 then
      let s := s.emit (rodDie rod) peer.1 (.notice peer.2 ((r.gen + 1) % 256) false r.count)
      s.modRod rod fun r =>
        { r with st := .armed, gen := (r.gen + 1) % 256, count := 0, expect := none, short := r.short + 1,
                 genAt := if r.use == .program then s.clock else r.genAt }
    else s.recvFault rod peer) s

/-- BEAM_REPEAT (R357). -/
def execBeamRepeat (rod : Nat) (s : State) : Out :=
  let r := s.rod rod
  stepIf (r.st == .sent && (r.repeats.head?.any fun t => decide (t ≤ s.clock)) && !s.putsOf rod) (fun s =>
    (s.modRod rod fun r => { r with repeats := r.repeats.drop 1 }).emitBeam (rodDie rod) rod r.gen r.count) s

/-- RETRANSMIT_WINDOW_DEADLINE (R357). -/
def execRetransmitWindowDeadline (rod : Nat) (s : State) : Out :=
  let r := s.rod rod
  stepIf (r.st == .sent && decide (r.deadline ≤ s.clock)) (fun s => s.closeWindow rod) s

/-- ROD_REARM (R353). -/
def execRodRearm (rod : Nat) (s : State) : Out :=
  let r := s.rod rod
  stepIf (r.st == .done && r.rearm && decide (r.genAt + Config.us 16 ≤ s.clock)) (fun s => s.rearmRod rod) s

/-- QUARANTINE_END (R354). -/
def execQuarantineEnd (rod : Nat) (s : State) : Out :=
  let r := s.rod rod
  stepIf (r.st == .quarantine && decide (r.quarUntil ≤ s.clock)) (fun s => s.modRod rod fun r => { r with st := .free }) s

/-- The bytes of a bead's source, read as it is injected (R258, R372); none where a tile fails its check. -/
def State.beadSource (s : State) (c : Replay) (b : BeadSpec) : Option (List Byte) :=
  match c.scratch with
  | some core => some (b.src.flatMap fun p => (s.core core).sp.bytes p.1 p.2)
  | none => (b.src.mapM fun p => s.readPoc p.1 p.2).map List.flatten

/-- The first command that an endpoint can inject from: a core's commands leave in order, each after the release of its push, and
those of a rod in order (R372, R443). -/
def State.putReady (s : State) (die : Nat) : List (Nat × PutJob) → List (Nat × PutJob) → Option PutJob
  | _, [] => none
  | seen, p :: t =>
    let behind := seen.any fun q => (q.2.rod == p.2.rod && q.2.target == p.2.target) || (q.2.core.isSome && q.2.core == p.2.core)
    let released := match p.2.core with
      | none => true
      | some c => s.released c p.2.ctx 4 p.2.since
    if p.1 = die ∧ behind = false ∧ released = true then some p.2 else State.putReady s die (p :: seen) t

/-- The state of a node of the active instance changes. -/
def State.setNode (s : State) (key : GKey) (n : Nat) (st : NodeSt) : State :=
  s.modInst key fun i => { i with nodes := putAt i.nodes n st }

/-- A command whose beads have all been injected: its beam follows, and its node has finished (R357, R386, R396). -/
def State.putEnd (s : State) (die : Nat) (j : PutJob) : State :=
  let s := { s with puts := s.puts.erase (die, j) }
  let s := j.beams.foldl (fun s b =>
    let s := if (s.rod j.rod).st = .open_ ∧ (s.rod j.rod).use ≠ .program ∧ j.target.isNone = true then
        s.modRod j.rod fun r => { r.beamed s.clock with count := b.2.2 } else s
    match j.target with
    | some (tdev, trod, tpart) => s.emit b.1 tdev (.beam trod b.2.1 tpart b.2.2 j.rod)
    | none => s.emitBeam b.1 j.rod b.2.1 b.2.2) s
  match j.node with
  | some (key, n) => s.setNode key n .ended
  | none => s

/-- The list with the first element equal to one replaced. -/
def replaceFirst {α : Type} [BEq α] (a b : α) : List α → List α
  | [] => []
  | x :: t => if x == a then b :: t else x :: replaceFirst a b t

/-- BEAD_INJECTION (R372, R443). A bead whose source fails its check is not sent, and its rod enters FAULT; the beads behind it are. -/
def execBeadInjection (die : Nat) (s : State) : Out :=
  match s.putReady die [] s.puts with
  | none => .next s
  | some j =>
    match j.cmd.beads[j.pos]? with
    | none => .next (s.putEnd die j)
    | some b =>
      let r := s.rod j.rod
      let next := fun (s : State) =>
        let k := { j with pos := j.pos + 1 }
        let s := { s with puts := replaceFirst (die, j) (die, k) s.puts }
        if k.pos < j.cmd.beads.length then s else s.putEnd die k
      match s.beadSource j.cmd b with
      | none =>
        let s := b.src.foldl (fun s p => s.noteLost r.part p.1) s
        let s := if j.target.isSome ∨ r.st = .fault then s else s.rodFault j.rod (r.tdev, r.trod)
        .next (if s.puts.contains (die, j) then next s else s)
      | some data =>
        let (tdev, trod, tpart) := j.target.getD (r.tdev, r.trod, r.tpart)
        .next (next (s.emit die tdev (.bead trod j.gen tpart j.rod b.daddr data)))

end Sys2Proof.Machine
end

