-- ==== Sys2Proof/Machine/RodOps.lean ====
section
/-! DEFINITION. The fabric instructions: rods, counted puts, remote reads and flows (R359, R370 to R379). -/

namespace Sys2Proof.Machine

/-- The rod that a register names (R370). -/
def rodField (w : Word) : Nat := w.toNat % 2 ^ 14

/-- The checks of R370 on a rod operand: its block, its existence, graph role and an XALL's claim, and then its role or state. -/
def needRod (n : Nat) (parked : Bool) (ok : Rod → Bool) : M Rod := do
  let s ← get
  let r := s.rod n
  guardM (!s.rodOwned s.me.part n) tRod
  guardM (r.st == .free || r.st == .quarantine) tRod
  match r.use with
  | .program => pure ()
  | .graph _ _ => trapM tRod
  | .xall _ _ => guardM (!parked) tRod
  guardM (!ok r) tRod
  return r

/-- Whether a device is a valid peer that takes beads (R347). -/
def State.feottePeer (s : State) (ep : Nat) : Bool := s.peers.any fun p => p.2.valid && p.2.feotte && p.2.ep == ep

/-- The lowest FREE rod of a partition on a die (R371). -/
def State.freeRodOf (s : State) (part die : Nat) : Option Nat :=
  ((List.range 4096).map (die * 4096 + ·)).find? fun n => s.rodOwned part n && (s.rod n).st == .free && (s.rod n).use == .program

/-- Every page of a range of the global window translated at issue: the pieces as virtual address, physical address and length; ok
says which physical addresses are taken, and other ones trap with a cause (R371, R372, R377). -/
def mapIssue (a n acc : Nat) (reach : State → Nat → Bool) : M (List (Nat × Nat × Nat)) :=
  (splitAt (2 ^ 16) (pagesIn n) a n).mapM fun p => do
    let e ← takeOp p.1 acc reach
    return (p.1, e.phys p.1, p.2)

/-- An address of a setup block: in sealed device memory, aligned, and translated with the job's tables (R371). -/
def setupAddr (va n align acc : Nat) : M Unit := do
  guardM (decide (va % align ≠ 0)) tRod
  guardM (!inGlobal va || !inGlobal (va + (n - 1))) tRod
  let l ← mapIssue va n acc fun _ _ => true
  guardM (l.any fun p => paKind p.2.1 != .sealed) tRod

/-- RODGET (R371). -/
def execRodget (d a b : Nat) (s : State) : Out :=
  finish (do
    let x0 ← getMe
    let v ← operands (.dst d) (.src a) (.src b)
    let w ← checkAccess v.b.toNat 32 8
    let blk ← loadWin ((← getMe).stampFor (x0.tainted b)) w v.b.toNat 32
    let send := wbit v.a 0
    if send then setupAddr (fieldAt blk 8 8) 32768 64 3 else setupAddr (fieldAt blk 0 8) 8 8 1
    let s ← get
    let x := s.me
    let tdev := fieldAt blk 0 2
    guardM (send && !s.feottePeer tdev) tRod
    match s.freeRodOf x.part (dieOf s.cur.core) with
    | none => writeX d (BitVec.allOnes 64)
    | some n =>
      let tmo := fieldAt blk 20 4
      let t := if send && tmo != 0 then max 50 (min 1000 tmo) else s.shortTmo x.part
      let base : Rod := { part := x.part, job := x.job }
      let r := if send then
          { base.open_ s.clock (byteAt blk 16) t with
              tdev := tdev, trod := fieldAt blk 2 2 % 2 ^ 14, tpart := byteAt blk 4 % 32, replayAddr := fieldAt blk 8 8 }
        else
          { base.arm s.clock (byteAt blk 16) t with
              flagaddr := fieldAt blk 0 8, flagval := wd (fieldAt blk 8 8), flagadd := byteAt blk 17 % 2 == 1 }
      modify fun s => s.modRod n fun _ => r
      writeX d (wd n)) s

/-- The source of a PUTC: the scratchpad, or sealed device memory (R372). -/
def putSource (a n : Nat) : M (Option Nat × List (Nat × Nat × Nat)) := do
  if n = 0 then return (none, [])
  let s ← get
  match s.steer s.cur.core s.me a n with
  | some .scratch =>
    return (some s.cur.core, [(a, (s.resvOf s.cur.core s.me).local_ s.me.index a .scratch, n)])
  | some .glob => return (none, ← mapIssue a n 0 sealedOnly)
  | _ => trapM tAperture (wd a)

/-- The destination of a PUTC: peer memory of the rod's target, outside every fabric window (R347, R368, R372). -/
def putDest (tdev a n : Nat) : M (List (Nat × Nat × Nat)) := do
  if n = 0 then return []
  guardM (!inGlobal a || !inGlobal (a + (n - 1))) tRod
  (splitAt (2 ^ 16) (pagesIn n) a n).mapM fun p => do
    let e ← takeOp p.1 1 fun _ _ => true
    let pa := e.phys p.1
    let s ← get
    match paKind pa with
    | .peer i =>
      guardM (!(s.peer i).valid || inFabricWindow (peerAddr pa)) tPerm (wd p.1)
      guardM ((s.peer i).ep != tdev) tRod
      return (p.1, pa, p.2)
    | _ => trapM tRod

/-- The beads of a range: cut at the 256-byte boundaries of the destination, each with its part of the source (R372). -/
def beadsOf (src dst : List (Nat × Nat × Nat)) (a n : Nat) : List BeadSpec :=
  (splitAt 256 (n / 256 + 2) a n).map fun p =>
    { daddr := peerAddr (((slicePieces dst (p.1 - a) p.2).head?.map (·.2.1)).getD 0),
      src := (slicePieces src (p.1 - a) p.2).map fun q => (q.2.1, q.2.2) }

/-- A put of beads on a send rod by a core or a node: it counts on the rod and its replay list, and stands with an endpoint (R372). -/
def State.pushPut (s : State) (die n : Nat) (j : PutJob) : State :=
  let k := j.cmd.beads.length
  { s.modRod n (fun r => { r with count := r.count + k, nput := r.nput + 1, list := r.list ++ [j.cmd] }) with puts := s.puts ++ [(die, j)] }

/-- PUTC (R347, R372). -/
def execPutc (d a b : Nat) (s : State) : Out :=
  finish (do
    let v ← operands (.src d) (.src a) (.src b)
    let n := rodField v.b
    let r ← needRod n false fun r => r.send && r.st == .open_
    let len := wbits v.b 48 32
    guardM (decide (65536 < len)) tRod
    let (scratch, src) ← putSource v.a.toNat len
    let dst ← putDest r.tdev v.d.toNat len
    guardM (!(← get).feottePeer r.tdev) tRod
    let beads := beadsOf src dst v.d.toNat len
    guardM (r.nput == 1024 || decide (2 ^ 32 ≤ r.count + beads.length)) tRod
    if len ≠ 0 then
      let s ← get
      if 16 ≤ (s.puts.filter fun p => p.2.core == some s.cur.core).length then blockM .puts
      let j : PutJob := { rod := n, gen := r.gen, cmd := ⟨scratch, beads⟩, since := s.clock, core := some s.cur.core, ctx := s.cur.ctx }
      modify fun s => s.pushPut (dieOf s.cur.core) n j) s

/-- BEAM (R373). -/
def execBeam (a : Nat) (s : State) : Out :=
  finish (do
    let v ← operands .none (.src a) .none
    let n := rodField v.a
    let _ ← needRod n false fun r => r.send && r.st == .open_
    modify fun s => s.sendBeam (dieOf s.cur.core) n) s

/-- RODWAIT (R374): the return from a receive rod acquires. A re-arm that has to wait comes by its own step (log entry 62). -/
def execRodwait (d a b : Nat) (s : State) : Out :=
  finish (do
    let v ← operands (.dst d) (.src a) (.src b)
    let n := rodField v.a
    let r ← needRod n false fun _ => true
    let s ← get
    match r.st with
    | .fault => trapM tRod (wd n)
    | .done =>
      if r.rearm then blockM (.rod n)
      if wbit v.b 0 then
        if r.genAt + Config.us 16 ≤ s.clock then modify fun s => s.rearmRod n
        else modify fun s => s.modRod n fun r => { r with rearm := true }
      acquireAt 5
      writeX d r.word
    | .open_ => writeX d r.word
    | .sent =>
      if wbit v.b 1 then
        modify fun s => s.closeWindow n
        writeX d ((← get).rod n).word
      else blockM (.rod n)
    | _ => blockM (.rod n)) s

/-- RODFREE (R375). -/
def execRodfree (a : Nat) (s : State) : Out :=
  finish (do
    let v ← operands .none (.src a) .none
    let n := rodField v.a
    let _ ← needRod n true fun _ => true
    modify fun s => s.freeRod n) s

/-- RODSTAT (R376). -/
def execRodstat (d a b : Nat) (s : State) : Out :=
  finish (do
    let v ← operands (.dst d) (.src a) (.src b)
    let n := rodField v.a
    let s ← get
    let r := s.rod n
    guardM (!s.rodOwned s.me.part n) tRod
    match v.b.toNat with
    | 0 => writeX d r.word
    | 1 => writeX d (match r.expect with
        | some e => wd e
        | none => BitVec.allOnes 64)
    | _ => trapM tRod) s

/-- The destination of a GETR: the scratchpad window, or sealed device memory (R377). -/
def getDest (a n : Nat) : M (Option (List (Nat × Nat × Nat))) := do
  let s ← get
  match s.steer s.cur.core s.me a n with
  | some .scratch => return none
  | some .glob => return some (← mapIssue a n 1 sealedOnly)
  | _ => trapM tAperture (wd a)

/-- Whether a physical address is peer memory that a request can reach. -/
def peerOnly (s : State) (pa : Nat) : Bool := (s.reachPeer pa).isSome

/-- A GETR that ends tells its context (R377). -/
def State.getrEnd (s : State) (g : Getr) (status : Nat) : State :=
  let mine := fun (w : PeerWait) => match w.req with
    | .getr id _ _ => id == g.id
    | _ => false
  ({ s with getrs := s.getrs.filter (fun q => q.id != g.id), waits := s.waits.filter fun w => !mine w }).pushQ5 g.core g.ctx 2
    [completion status 5 g.tag 0, wd g.written]

/-- GETR (R366, R377): requests to an isolated peer are dropped and counted. -/
def execGetr (d a b : Nat) (s : State) : Out :=
  finish (do
    let v ← operands (.src d) (.src a) (.src b) [(5, 2)]
    let len := wbits v.b 48 32
    guardM (decide (len < 1) || decide (65536 < len)) tRod
    let sa := v.a.toNat
    guardM (!inGlobal sa || !inGlobal (sa + (len - 1))) tAperture (wd sa)
    let src ← mapIssue sa len 0 peerOnly
    let dst ← getDest v.d.toNat len
    let s ← get
    let x := s.me
    let pieces := (splitAt 256 (len / 256 + 2) sa len).map fun p =>
      (p.1 - sa, p.2, ((slicePieces src (p.1 - sa) p.2).head?.map (·.2.1)).getD 0)
    let (id, s) := s.fresh
    let g : Getr := { id := id, core := s.cur.core, ctx := s.cur.ctx, tag := wbits v.b 15 0, dst := v.d.toNat, dstMap := dst, part := x.part,
                      job := x.job, lid := x.lid, lgen := x.lgen, pieces := pieces.length }
    let s := s.setMe { s.me with q5claim := s.me.q5claim + 2 }
    let cut := pieces.filter fun p => (s.reachPeer p.2.2).any fun q => q.isol
    if cut ≠ [] then set (cut.foldl (fun s _ => s.epDrop (dieOf g.core) EpDrop.addIsolated) (s.getrEnd g stIsolated))
    else
      set (pieces.foldl (fun s p => match s.reachPeer p.2.2 with
        | none => s
        | some q => s.askPeer (dieOf g.core) x.part q.ep (.getr id p.1 p.2.1) fun t => .readreq t x.part (peerAddr p.2.2) p.2.1)
        { s with getrs := s.getrs ++ [g] })) s

/-- FLOWOPEN (R378). -/
def execFlowopen (d a b : Nat) (s : State) : Out :=
  finish (do
    let v ← operands (.dst d) (.src a) (.src b)
    let h := wbits v.b 7 0
    guardM (h == 0) tFlow
    let s ← get
    let x := s.me
    let core := s.cur.core
    let dest := destOf v.a
    let flows := (s.flowsOf core).filter fun f => f.cls != .atomic
    if flows.any fun f => f.handle == h then writeX d 1#64
    else if 32 ≤ (flows.filter fun f => f.pipe.isNone && !f.closing).length then writeX d 2#64
    else if (if dest.ddev = selfEp then dest.dpart ≠ x.part else !s.feottePeer dest.ddev) then writeX d 3#64
    else
      let f : Flow := { handle := h, cls := if wbit v.a 30 then .h else .l, dest := dest, part := x.part, lid := x.lid, lgen := x.lgen,
                        since := s.clock }
      modify fun s => { s with flows := s.flows.set core (s.flowsOf core ++ [f]) }
      writeX d 0#64) s

/-- FLOWCLOSE (R379). -/
def execFlowclose (a : Nat) (s : State) : Out :=
  finish (do
    let v ← operands .none (.src a) .none
    let h := wbits v.a 7 0
    let s ← get
    let mine := fun (f : Flow) => f.cls != .atomic && f.handle == h && !f.closing
    guardM (!(s.flowsOf s.cur.core).any mine) tFlow
    modify fun s => s.closeFlows s.cur.core mine) s

end Sys2Proof.Machine
end

