-- ==== Sys2Proof/Machine/Fabric.lean ====
section
/-! DEFINITION. What arrives at a fabric endpoint: messages and flows, beads, beams and notices, requests and responses of peers, and
the timers of the fabric (R344 to R351, R359 to R369). -/

namespace Sys2Proof.Machine

/-- The die of a port: stations 0 to 15, then the Ultra Ethernet ports (R344). -/
def portDie (port : Nat) : Nat := if port < 16 then port / 4 else (port - 16) % 4

def EpDrop.addExpired (e : EpDrop) : EpDrop := { e with expired := sat255 e.expired }
def EpDrop.addBadtype (e : EpDrop) : EpDrop := { e with badtype := sat255 e.badtype }
def EpDrop.addRobfull (e : EpDrop) : EpDrop := { e with robfull := sat255 e.robfull }
def EpDrop.addBadtile (e : EpDrop) : EpDrop := { e with badtile := sat255 e.badtile }

/-- The types of packet that a peer which is no Amnath part sends as carrier transactions (R364, R367). -/
def asCarrier (b : PktBody) : Bool :=
  match b with
  | .readreq _ _ _ _ => true
  | .readresp _ _ => true
  | .atomic _ _ _ _ _ _ _ _ _ _ => true
  | .atomicresp _ _ => true
  | .store _ _ _ => true
  | _ => false

/-- Whether an entry of PEERTAB lets a packet in at a port: the transport's source and SDEV are both its endpoint number (R347, R368,
R369). -/
def Peer.admits (p : Peer) (port : Nat) (pkt : Pkt) : Bool :=
  p.valid && p.ep == pkt.src && p.ep == pkt.sdev && (p.feotte || (asCarrier pkt.body && decide (port < 16))) && (decide (port < 16) || p.carrier)

/-- A packet at its arrival port: dropped with a count, or taken (R346, R351, R366, R368, R369). -/
def State.letIn (s : State) (port : Nat) (pkt : Pkt) : Option State :=
  let d := portDie port
  let from_ := s.peers.filter fun p => p.2.admits port pkt
  if from_.isEmpty then some (s.epDrop d EpDrop.addBadtype)
  else if from_.any fun p => p.2.isol then some (s.epDrop d EpDrop.addIsolated)
  else if (from_.any fun p => p.2.feotte) && s.expired pkt then some (s.epDrop d EpDrop.addExpired)
  else none

/-- The step of a packet's arrival. -/
def arrival (port : Nat) (pkt : Pkt) (f : State → State) (s : State) : Out :=
  .next (match s.letIn port pkt with
    | some t => t
    | none => f s)

/-- The core that a packet of a flow or a message leads to (R24); none where its tile has no slot or its launch is not held. -/
def State.inboundCore (s : State) (die : Nat) (m : Msg) : TileRes × State :=
  if m.taddr then
    match s.launch ⟨m.dpart, m.lid, m.lgen⟩ with
    | some l => s.tileCore (unitName 1 (4096 + die)) die l m.dest
    | none => (.none_, s)
  else (.core (m.dest % 4096), s)

/-- The flow that a packet is numbered on: source, core, handle and class, and its SEQ. -/
def flowKeyOf (p : Pkt) : Option (Nat × Nat × Nat × FlowClass × Nat) :=
  match p.body with
  | .message m => if m.ord then some (p.sdev, m.score, m.flow, if m.pri then .h else .l, m.seq) else none
  | .flowclose score flow cls q => some (p.sdev, score, flow, if cls = 1 then .h else .l, q)
  | .atomic _ score q _ _ _ _ _ _ _ => some (p.sdev, score, 0, .atomic, q)
  | _ => none

/-- A tile-addressed message that no core takes is dropped at the endpoint where it arrived: BADTILE there, but one that names a launch's
earlier generation or one that has completed is STALE, which the NI of the endpoint's die counts (R24, R32, R430). Mark: DESIGN CHOICE (log
entry 98). -/
def State.tileDrop (s : State) (die : Nat) (m : Msg) : State :=
  if (s.launch ⟨m.dpart, m.lid, m.lgen⟩).isNone && s.noMap m.dpart m.lid == .stale then s.niDrop (die * 1024) .stale
  else s.epDrop die EpDrop.addBadtile

/-- A message enters the mesh at an endpoint; one that no core takes is dropped there, which counts as its acceptance (R19,
R24). True while it waits. -/
def State.deliverMsg (s : State) (die : Nat) (m : Msg) (who : Sender) : Bool × State :=
  match s.inboundCore die m with
  | (.wait, s) => (true, s)
  | (.none_, s) => (false, { s.tileDrop die m with acks := s.acks ++ [who] })
  | (.core c, s) => (false, s.toMesh m c who)

/-- A remote atomic is performed at the seal engine, and its old value returns where the requester takes it; one that cannot be performed
is not answered, and a tile that fails its check is marked (R258, R274, R349, R363, R364, R429). True while it waits. -/
def State.performAtomic (s : State) (die sdev tag dpart daddr : Nat) (op : AmoOp) (size : Nat) (sgn : Bool) (arg cmp : Word) :
    Bool × State :=
  match s.stage2 dpart daddr with
  | .ok l =>
    let pa := l.out daddr
    if !(l.rd && l.wr && !l.mig) || paKind pa != .sealed || pa % 2 ^ size != 0 then (false, s)
    else match s.forwardOf pa with
    | some (_, false) => (false, s.epDrop die EpDrop.addIsolated)
    | some (p, true) => (false, s.forward p pa op size sgn arg cmp (if tag = 0 then none else some (.relay p die sdev tag)))
    | none =>
    if s.tileFails (tileOf pa) then (false, s.poison dpart (tileOf pa))
    else if s.tileWaits (tileOf pa) then (true, s)
    else
      let n := 2 ^ size
      let old := s.mem.num pa n
      let s := match op with
        | .sigAdd => (s.signalOp dpart pa false arg.toNat).1
        | .sigNeg => (s.signalOp dpart pa true 0).1
        | _ => { s.touchTile (tileOf pa) dpart with
            mem := s.mem.store pa (leBytes n (amoNew op size sgn old arg.toNat cmp.toNat)) }
      (false, if tag = 0 then s else s.emit die sdev (.atomicresp tag (wd old)))
  | _ => (false, s.noteRange dpart [(daddr, 2 ^ size)])

/-- A packet of a flow whose turn has come takes effect (R361). True while it waits. -/
def State.deliver (s : State) (die : Nat) (p : Pkt) (sdev score flow : Nat) (cls : FlowClass) : Bool × State :=
  match p.body with
  | .message m => s.deliverMsg die m (.flow sdev score flow cls.code)
  | .atomic tag _ _ dpart daddr op size sgn arg cmp =>
    match s.performAtomic die p.sdev tag dpart daddr op size sgn arg cmp with
    | (true, t) => (true, t)
    | (false, t) => (false, t.flowAccepted sdev score flow cls.code)
  | .flowclose _ _ _ _ =>
    match s.recvs.find? fun r => r.named sdev score flow cls.code with
    | none => (false, s)
    | some r =>
      let others := s.recvs.filter fun r => !r.named sdev score flow cls.code
      if (r.done + 1) % 2 ^ 16 = r.next then (false, ({ s with recvs := others }).sendFlowAck { r with done := r.next })
      else (false, { s with recvs := others ++ [{ r with closed := true }] })
  | _ => (false, s)

def State.modRecv (s : State) (sdev score flow cls : Nat) (f : RecvRec → RecvRec) : State :=
  { s with recvs := s.recvs.map fun r => if r.named sdev score flow cls then f r else r }

/-- Packets of a flow taken in order: the next one, and then those held that follow it, each at the port it arrived at (R24, R361). One that
waits is held and keeps its place in the order. The fuel bounds the held ones. -/
def State.inOrder (sdev score flow : Nat) (cls : FlowClass) : Nat → Nat → Pkt → State → State
  | 0, _, _, s => s
  | fuel + 1, port, p, s =>
    let move := fun (n : Nat) (s : State) =>
      s.modRecv sdev score flow cls.code fun (r : RecvRec) => { r with next := (r.next + n) % 2 ^ 16 }
    match State.deliver (move 1 s) (portDie port) p sdev score flow cls with
    | (true, t) => State.hold port p (true, move (2 ^ 16 - 1) t)
    | (false, t) =>
      match t.recvs.find? fun r => r.named sdev score flow cls.code with
      | none => t
      | some r =>
        match t.reorder.find? fun q => flowKeyOf q.pkt == some (sdev, score, flow, cls, r.next) with
        | none => t
        | some q => State.inOrder sdev score flow cls fuel q.port q.pkt { t with reorder := t.reorder.erase q }

/-- The partition that a packet of a flow names. -/
def destPart (p : Pkt) : Nat :=
  match p.body with
  | .message m => m.dpart
  | .atomic _ _ _ dpart _ _ _ _ _ _ => dpart
  | _ => 0

/-- Packets in reorder buffers whose lifetime is over are discarded, each counted by its endpoint (R346). -/
def State.dropStale (s : State) : State :=
  (s.reorder.filter fun r => s.expired r.pkt).foldl (fun s r => s.epDrop r.die EpDrop.addExpired)
    { s with reorder := s.reorder.filter fun r => !s.expired r.pkt }

/-- A packet on a flow at the endpoint that holds the flow's receive record (R361). -/
def State.flowIn (s : State) (die port core : Nat) (p : Pkt) : State :=
  match flowKeyOf p with
  | none => s
  | some (sdev, score, flow, cls, q) =>
    let s := s.dropStale
    let go := fun (s : State) => State.inOrder sdev score flow cls 65 port p s
    let early := fun (s : State) =>
      let held := (s.reorder.filter fun r => r.die == die && ((flowKeyOf r.pkt).any fun k => k.2.2.2.1 == cls)).length
      if s.reorder.any fun r => flowKeyOf r.pkt == flowKeyOf p then s
      else if 64 ≤ held then s.epDrop die EpDrop.addRobfull
      else { s with reorder := s.reorder ++ [⟨die, port, s.stamped p⟩] }
    match s.recvs.find? fun r => r.named sdev score flow cls.code with
    | none =>
      if q ≠ 0 then early s
      else if 8192 ≤ (s.recvs.filter fun r => r.die == die).length then s.epDrop die EpDrop.addRobfull
      else
        let r : RecvRec := { die := die, sdev := sdev, score := score, flow := flow, cls := cls, core := core, part := destPart p }
        go { s with recvs := s.recvs ++ [r] }
    | some r =>
      let behind := (r.next + 2 ^ 16 - q) % 2 ^ 16
      if behind = 0 then go s
      else if behind ≤ 2 ^ 15 then s
      else early s

/-- A message packet takes effect at its port (R19, R24, R344, R361). -/
def State.takeMessage (s : State) (port : Nat) (pkt : Pkt) (m : Msg) : State :=
  let d := portDie port
  if m.ord then
    match s.inboundCore d m with
    | (.wait, s) => State.hold port pkt (true, s)
    | (.none_, s) => s.flowIn d port 0 pkt
    | (.core c, s) => s.flowIn (dieOf c) port c pkt
  else State.hold port pkt (s.deliverMsg d m .hw)

/-- The close packet of a flow takes effect at its port (R361). -/
def State.takeClose (s : State) (port : Nat) (pkt : Pkt) (score flow cls : Nat) : State :=
  let die := ((s.recvs.find? fun r => r.named pkt.sdev score flow cls).map (·.die)).getD (portDie port)
  s.flowIn die port 0 pkt

/-- MESSAGE_PACKET (R19, R24, R344, R361). A flow's close packet arrives by it too. -/
def execMessagePacket (port : Nat) (pkt : Pkt) (s : State) : Out :=
  match pkt.body with
  | .message m => arrival port pkt (fun s => s.takeMessage port pkt m) s
  | .flowclose score flow cls _ => arrival port pkt (fun s => s.takeClose port pkt score flow cls) s
  | _ => .next s

/-- A bead, beam or notice at the endpoint of its rod's die (R349, R355, R357). -/
def State.rodPacket (s : State) (port : Nat) (pkt : Pkt) : State :=
  match pkt.body with
  | .bead rod gen dpart srod daddr data => State.hold port pkt (s.beadIn (rod % 2 ^ 14) gen dpart srod daddr data pkt)
  | .beam rod gen dpart count srod => s.beamIn (rod % 2 ^ 14) gen dpart count srod pkt
  | .notice rod gen fault _ =>
    s.noticeIn (rod % 2 ^ 14) gen fault pkt
  | _ => s

/-- BEAD (R349, R355, R388, R396). -/
def execBead (port : Nat) (pkt : Pkt) (s : State) : Out :=
  match pkt.body with
  | .bead _ _ _ _ _ _ => arrival port pkt (fun s => s.rodPacket port pkt) s
  | _ => .next s

/-- BEAM_ARRIVAL (R355). -/
def execBeamArrival (port : Nat) (pkt : Pkt) (s : State) : Out :=
  match pkt.body with
  | .beam _ _ _ _ _ => arrival port pkt (fun s => s.rodPacket port pkt) s
  | _ => .next s

/-- SHORT_NOTICE (R357). -/
def execShortNotice (port : Nat) (pkt : Pkt) (s : State) : Out :=
  match pkt.body with
  | .notice _ _ false _ => arrival port pkt (fun s => s.rodPacket port pkt) s
  | _ => .next s

/-- FAULT_NOTICE (R357, R358). -/
def execFaultNotice (port : Nat) (pkt : Pkt) (s : State) : Out :=
  match pkt.body with
  | .notice _ _ true _ => arrival port pkt (fun s => s.rodPacket port pkt) s
  | _ => .next s

/-- A read by a peer: of the window it returns zeros, and one that fails is not answered (R349, R364, R368). -/
def State.takeRead (s : State) (port sdev tag dpart daddr len : Nat) : State :=
  let answer := fun (b : List Byte) => s.emit (portDie port) sdev (.readresp tag b)
  let pieces := splitAt (2 ^ 16) 4 daddr len
  if inFabricWindow daddr then answer (List.replicate len 0#8)
  else match pieces.mapM fun p => match s.stage2 dpart p.1 with
      | .ok l => if l.rd && !l.mig && paKind (l.out p.1) == .sealed then s.readPoc (l.out p.1) p.2 else none
      | _ => none with
    | some b => answer b.flatten
    | none => s.noteRange dpart pieces

/-- READREQ (R349, R364, R368). -/
def execReadreq (port : Nat) (pkt : Pkt) (s : State) : Out :=
  arrival port pkt (fun s => match pkt.body with
    | .readreq tag dpart daddr len => s.takeRead port pkt.sdev tag dpart daddr len
    | _ => s) s

/-- A response from a peer: its timeouts are no longer consecutive (R365). -/
def State.heard (s : State) (ep : Nat) : State :=
  { s with peers := s.peers.map fun _ p => if p.valid && p.ep == ep then { p with tocnt := 0 } else p }

def State.dropWait (s : State) (tag : Nat) : State := { s with waits := s.waits.filter fun w => w.tag != tag }

/-- The partition of a request's requester. -/
def State.reqPart (s : State) (r : PeerReq) : Nat :=
  let run := fun (rid : Nat) => ((s.runPkt rid).map (·.part)).getD 0
  match r with
  | .load c x _ _ => (s.ctx c x).part
  | .atomic c x _ _ _ => (s.ctx c x).part
  | .fetch c x _ _ => (s.ctx c x).part
  | .getr id _ _ => ((s.getrs.find? fun g => g.id == id).map (·.part)).getD 0
  | .copy cl id _ _ => (((s.cluster cl).copies.find? fun c => c.id == id).map (·.part)).getD 0
  | .packet rid _ _ => run rid
  | .barrier rid _ => run rid
  | .node g _ _ _ => g.part
  | .read _ part _ _ _ _ => part
  | .relay part _ _ _ => part
  | .host part _ _ => part

/-- The die whose endpoint sent a request (R344). -/
def State.reqDie (s : State) (r : PeerReq) : Nat :=
  let run := fun (rid : Nat) => ((s.runPkt rid).map (·.die)).getD 0
  match r with
  | .load c _ _ _ => dieOf c
  | .atomic c _ _ _ _ => dieOf c
  | .fetch c _ _ _ => dieOf c
  | .getr id _ _ => ((s.getrs.find? fun g => g.id == id).map fun g => dieOf g.core).getD 0
  | .copy cl _ _ _ => dieOf (cl * 16)
  | .packet rid _ _ => run rid
  | .barrier rid _ => run rid
  | .node g _ _ _ => (((s.graph g).bind (·.inst)).map (·.die)).getD 0
  | .read _ _ die _ _ _ => die
  | .relay _ die _ _ => die
  | .host _ die _ => die

/-- Bytes of a unit's destination written at the points of coherence in one step: over pieces, or into the scratchpad. -/
def State.getrWrite (s : State) (g : Getr) (off : Nat) (data : List Byte) : State :=
  match g.dstMap with
  | none => s.storeLocal g.core (s.ctx g.core g.ctx) .scratch (g.dst + off) data
  | some l => State.writeAll g.part ((slicePieces l off data.length).map fun p => (p.2.1, p.2.2)) data s

/-- Whether the destination of a piece waits for a new key, and how many of its bytes can be written (R258, R259). -/
def State.getrWaits (s : State) (g : Getr) (off n : Nat) : Bool :=
  g.dstMap.any fun l => s.piecesWait ((slicePieces l off n).map fun p => (p.2.1, p.2.2))
@[inherit_doc State.getrWaits] def State.getrGood (s : State) (g : Getr) (off n : Nat) : Nat :=
  match g.dstMap with
  | none => n
  | some l => (((slicePieces l off n).flatMap fun p => splitAt 4096 3 p.2.1 p.2.2).map fun q =>
      if s.tileFails (tileOf q.1) then 0 else q.2).sum

/-- The bytes of a piece of a packet's or a node's copy written at their destination with the job's tables (R62, R386). -/
def State.pieceWrite (s : State) (name die part job va : Nat) (data : List Byte) : URes Unit × State :=
  match State.unitMap name die none part job 1 (pagesIn data.length) va data.length s with
  | (.ok l, s) => (.ok (), State.writePieces (.unit name) part job die l data s)
  | (.fail c, s) => (.fail c, s)
  | (.wait, s) => (.wait, s)

/-- The name of a graph's node, and of a graph's walker, among the units. -/
def nodeName (k : GKey) (n : Nat) : Nat := unitName 8 ((k.part * 2 ^ 16 + k.job * 2 ^ 10 + k.handle) * 2 ^ 11 + n)

/-- A node's answer from a peer: a piece fewer, and a failure with its status of R286 where there was one (R386, R390). -/
def State.nodeAnswer (s : State) (g : GKey) (n status : Nat) : State :=
  let s := s.modInst g fun i => { i with owed := i.owed.set n (i.owed.get 0 n - 1) }
  if status = stOk then s else (s.setNode g n .failed).abortInst g n status

/-- A piece that a copy asked of a peer has ended: with the last of them the bytes go out, and a claimed slot ends (R282, R284). A gather
whose list is read then goes on with COPY_OP_CPYG. -/
def State.copyPiece (s : State) (c : CopyRun) : State :=
  let c := { c with owed := c.owed - 1 }
  let (s, c) := if c.owed = 0 && !c.listing then
      let r := s.copyFlush c
      (r.1.slotEnd r.2, r.2)
    else (s, c)
  s.modCopy (clusterOf c.core) c.id fun _ => { c with slots := if c.status = 0 then c.slots else min c.slots c.filled }

/-- The data of a response takes effect (R364, R377). True while a write waits. -/
def State.respond (s : State) (tag : Nat) (r : PeerReq) (data : List Byte) : Bool × State :=
  match r with
  | .load c x _ _ => (false, s.answer c x tag (.bytes data))
  | .atomic c x _ size _ => (false, s.answer c x tag (.word (wd (leNat data % 2 ^ (8 * 2 ^ size)))))
  | .fetch c x va pa => (false, s.addCode c (s.ctx c x).part (s.ctx c x).job va pa data)
  | .copy cl id off _ =>
    match (s.cluster cl).copies.find? fun c => c.id == id with
    | none => (false, s)
    | some c => (false, s.copyPiece { c with got := Tab.set c.got off data })
  | .getr id off len =>
    match s.getrs.find? fun g => g.id == id with
    | none => (false, s)
    | some g =>
      if s.getrWaits g off len then (true, s)
      else
        let good := s.getrGood g off len
        let g := { g with pieces := g.pieces - 1, written := g.written + good }
        let s := { (s.getrWrite g off data) with getrs := s.getrs.map fun h => if h.id == id then g else h }
        (false, if g.pieces = 0 then s.getrEnd g stOk else s)
  | .packet rid va _ =>
    match s.runPkt rid with
    | none => (false, s)
    | some p =>
      let ended := fun (s : State) (ok : Bool) => s.modRun rid fun p => { p with owed := p.owed - 1, failed := p.failed || !ok }
      match s.pieceWrite (unitName 3 rid) p.die p.part p.job va data with
      | (.wait, s) => (true, s)
      | (.ok _, s) => (false, ended s true)
      | (.fail _, s) => (false, ended s false)
  | .node g n va _ =>
    match (s.graph g).bind (·.inst) with
    | none => (false, s)
    | some i => match s.pieceWrite (nodeName g n) i.die g.part g.job va data with
      | (.wait, s) => (true, s)
      | (.ok _, s) => (false, s.nodeAnswer g n stOk)
      | (.fail c, s) => (false, s.nodeAnswer g n c)
  | .read name _ _ va n pa => (false, s.readPiece name va n fun u => { u with got := Tab.set u.got pa data })
  | .relay _ die ep tag => (false, s.emit die ep (.atomicresp tag (wd (leNat data))))
  | .host _ _ size => (false, { s with board := { s.board with hostResp := data.take (2 ^ size) } })
  | .barrier rid k =>
    (false, s.modRun rid fun p => { p with vals := p.vals.set k (wd (leNat data)), pollAt := s.clock })

/-- READRESP and ATOMICRESP: the request that a tag names, of the peer that answers (R364, R365). -/
def State.answered (s : State) (tag ep : Nat) (data : List Byte) : Bool × State :=
  let s := s.heard ep
  match s.waits.find? fun w => w.tag == tag && w.peer == ep with
  | none => (false, s)
  | some w => match s.respond tag w.req data with
    | (true, t) => (true, t)
    | (false, t) => (false, t.dropWait tag)

/-- Whether the answer to a request has arrived and is held. -/
def State.answerHeld (s : State) (tag : Nat) : Bool :=
  s.held.any fun h => match h.2.body with
    | .readresp t _ => t == tag
    | .atomicresp t _ => t == tag
    | _ => false

/-- A response takes effect at its port. -/
def State.takeAnswer (s : State) (port : Nat) (pkt : Pkt) (tag : Nat) (data : List Byte) : State :=
  State.hold port pkt (s.answered tag pkt.sdev data)

/-- READRESP (R364, R377). -/
def execReadresp (port : Nat) (pkt : Pkt) (s : State) : Out :=
  arrival port pkt (fun s => match pkt.body with
    | .readresp tag data => s.takeAnswer port pkt tag data
    | _ => s) s

/-- ATOMICRESP (R363). -/
def execAtomicresp (port : Nat) (pkt : Pkt) (s : State) : Out :=
  arrival port pkt (fun s => match pkt.body with
    | .atomicresp tag old => s.takeAnswer port pkt tag (leBytes 8 old.toNat)
    | _ => s) s

/-- A request that will not be answered, with the status for a copy or GETR (R364, R366). -/
def State.unanswered (s : State) (w : PeerWait) (status : Nat) : State :=
  let s := s.dropWait w.tag
  match w.req with
  | .load c x va _ => s.answer c x w.tag (.fault tPerm (wd va))
  | .atomic c x va _ _ => s.answer c x w.tag (.fault tPerm (wd va))
  | .fetch c x _ _ =>
    let y := s.ctx c x
    if y.st == .running && ((s.core c).slotOf y).isNone then s.trapAt c x tPerm (wd ((s.core c).missing y)) y.pc else s
  | .getr id _ _ => match s.getrs.find? fun g => g.id == id with
    | none => s
    | some g => s.getrEnd g status
  | .copy cl id _ _ => match (s.cluster cl).copies.find? fun c => c.id == id with
    | none => s
    | some c => s.copyPiece { c with status := if c.status = 0 then status else c.status }
  | .packet rid _ _ => s.modRun rid fun p => { p with owed := p.owed - 1, failed := true }
  | .node g n _ _ => s.nodeAnswer g n status
  | .barrier rid _ => s.modRun rid fun p => { p with failed := true, pollAt := s.clock }
  | .read name _ _ va n _ => s.readPiece name va n fun u => { u with status := if u.status = 0 then status else u.status }
  | .relay _ _ _ _ => s
  | .host _ _ _ => s

/-- What waits for an isolated peer ends (R366). -/
def State.resolveIsolated (s : State) : State :=
  (s.waits.filter fun w => s.peers.any fun p => p.2.valid && p.2.isol && p.2.ep == w.peer).foldl (fun s w =>
    if s.waits.any fun v => v.tag == w.tag then s.unanswered w stIsolated else s) s

/-- READ_TIMEOUT (R364, R365). -/
def execReadTimeout (tag : Nat) (s : State) : Out :=
  match s.waits.find? fun w => w.tag == tag with
  | none => .next s
  | some w => stepIf (decide (w.deadline ≤ s.clock) && !s.answerHeld tag) (fun s =>
      let part := s.reqPart w.req
      let die := s.reqDie w.req
      ((s.unanswered w stTimeout).peerTimeout w.peer part die).resolveIsolated) s

/-- An atomic takes effect at its port: on its flow from an Amnath peer, once; as the carrier's transaction from another (R349, R361,
R363). -/
def State.takeAtomic (s : State) (port : Nat) (pkt : Pkt) : State :=
  match pkt.body with
  | .atomic tag _ _ dpart daddr op size sgn arg cmp =>
    if s.feottePeer pkt.sdev then s.flowIn 0 port 0 pkt
    else State.hold port pkt (s.performAtomic (portDie port) pkt.sdev tag dpart daddr op size sgn arg cmp)
  | _ => s

/-- ATOMIC (R349, R361, R363). -/
def execAtomic (port : Nat) (pkt : Pkt) (s : State) : Out :=
  arrival port pkt (fun s => s.takeAtomic port pkt) s

/-- The SEQ of a packet on a flow. -/
def pktSeqOf (p : Pkt) : Option Nat := (flowKeyOf p).map fun k => k.2.2.2.2

/-- The packets of a flow that an acknowledgement of a SEQ leaves (R360, R362). -/
def ackedTo (q : Nat) (l : List Pkt) : List Pkt :=
  match findPos (fun p => pktSeqOf p == some q) l with
  | some i => l.drop (i + 1)
  | none => l

/-- A FLOWACK of a peer takes effect (R360, R362, R379). -/
def State.takeAck (s : State) (sdev score flow cls q : Nat) : State :=
  let mine := fun (f : Flow) => f.handle == flow && f.cls.code == cls && f.dest.ddev == sdev && !f.broken
    && (ackedTo q f.unacked).length != f.unacked.length
  if (s.flowsOf score).any mine then
    ((s.modFlow score mine fun f => { f with unacked := ackedTo q f.unacked, rounds := 0, since := s.clock }).sendWaiting score).sendCloses score
  else s

/-- FLOWACK (R360, R362, R379). -/
def execFlowack (port : Nat) (pkt : Pkt) (s : State) : Out :=
  arrival port pkt (fun s => match pkt.body with
    | .flowack score flow cls q => s.takeAck pkt.sdev score flow cls q
    | _ => s) s

/-- A message from its 64 bytes (R12). -/
def msgOf (b : List Byte) : Msg :=
  let h := wd (leNat (b.take 8))
  let l := wd (leNat ((b.drop 8).take 8))
  { kind := match wbits h 3 0 with
      | 1 => .task
      | 2 => .seed
      | 3 => .landing
      | 4 => .stream
      | 5 => .streamend
      | 6 => .trap
      | 7 => .event
      | n => .reserved n
    pri := wbit h 4, taddr := wbit h 5, ord := wbit h 6, flow := wbits h 15 8, seq := wbits h 31 16, ddev := wbits h 47 32,
    dpart := wbits h 52 48, handler := wbits h 58 53, lgen := wbits h 63 60, lid := wbits l 11 0, dest := wbits l 35 12,
    sdev := wbits l 51 36, score := wbits l 63 52, payload := (List.range 6).map fun i => wd (fieldAt b (16 + 8 * i) 8) }

/-- A fabric packet from its bytes (R12, R345, R349, R350); the layouts that the spec does not give are free values. Mark: DESIGN CHOICE (log
entry 78). -/
def pktOf (b : List Byte) : Pkt :=
  let c := b.drop 8
  let body := match byteAt b 0 with
    | 1 => PktBody.message (msgOf c)
    | 2 => .bead (fieldAt c 0 2 % 2 ^ 14) (byteAt c 2) (byteAt c 3 % 32) (fieldAt c 6 2 % 2 ^ 14) (fieldAt c 8 8 % 2 ^ 44)
        ((c.drop 16).take (fieldAt c 4 2))
    | 3 => .beam (fieldAt c 0 2 % 2 ^ 14) (byteAt c 2) (byteAt c 3 % 32) (fieldAt c 4 4) (fieldAt c 8 2 % 2 ^ 14)
    | 4 => .notice (fieldAt c 0 2 % 2 ^ 14) (byteAt c 2) (byteAt c 3 % 2 == 1) (fieldAt c 4 4)
    | n => if 5 ≤ n ∧ n ≤ 10 then Config.bodyOf n c else .unknown n
  { inj := fieldAt b 2 2, sdev := fieldAt b 4 2, ddev := fieldAt b 6 2, body := body }

/-- The bytes of a packet whose envelope and first bytes these are: a bead's by its LEN, none of the other layouts of R12 and R350 more
than 256; of the types whose layout the spec does not give it is a free value (R345, R349, R368). Mark: DESIGN CHOICE (log entry 78). -/
def packetBytes (b : List Byte) : Nat :=
  let n := byteAt b 0
  if n = 2 then 24 + fieldAt b 12 2 else if 5 ≤ n ∧ n ≤ 10 then Config.packetLen b else 0

/-- Bytes that a store of a peer writes outside the fabric window; one that its translation refuses has no effect (R349, R364). -/
def State.plainStore (s : State) (port : Nat) (pkt : Pkt) (dpart daddr : Nat) (data : List Byte) : State :=
  match s.beadPieces dpart (splitAt (2 ^ 16) 4 daddr data.length) with
  | none => s.noteRange dpart (splitAt (2 ^ 16) 4 daddr data.length)
  | some l => if s.piecesWait l then State.hold port pkt (true, s) else State.writeAll dpart l data s

/-- A whole packet takes effect at its port. A store that one carries has no address in the fabric window (R368). -/
def State.takePacket (s : State) (port : Nat) (pkt : Pkt) : State :=
  match pkt.body with
  | .message m => s.takeMessage port pkt m
  | .flowclose score flow cls _ => s.takeClose port pkt score flow cls
  | .readreq tag dpart daddr len => s.takeRead port pkt.sdev tag dpart daddr len
  | .readresp tag data => s.takeAnswer port pkt tag data
  | .atomicresp tag old => s.takeAnswer port pkt tag (leBytes 8 old.toNat)
  | .atomic _ _ _ _ _ _ _ _ _ _ => s.takeAtomic port pkt
  | .store dpart daddr data => if inFabricWindow daddr then s else s.plainStore port pkt dpart daddr data
  | .flowack score flow cls q => s.takeAck pkt.sdev score flow cls q
  | .unknown _ => s.epDrop (portDie port) EpDrop.addBadtype
  | .bead _ _ _ _ _ _ => s.rodPacket port pkt
  | .beam _ _ _ _ _ => s.rodPacket port pkt
  | .notice _ _ _ _ => s.rodPacket port pkt

/-- A whole packet that was written into the fabric window by a device (R368). -/
def State.windowPacket (s : State) (port : Nat) (src : Nat) (b : List Byte) : State :=
  let p : Pkt := { pktOf b with src := src }
  if p.sdev ≠ src then s.epDrop (portDie port) EpDrop.addBadtype
  else if s.expired p then s.epDrop (portDie port) EpDrop.addExpired
  else s.takePacket port p

/-- A write into the fabric window: a whole packet, or a half that waits for its partner (R368). -/
def State.windowWrite (s : State) (port src addr : Nat) (data : List Byte) : State :=
  let d := portDie port
  let tag := addr / 2 ^ 9 % 2 ^ 31
  let upper := addr / 256 % 2 == 1
  let halved := upper || (data.length == 256 && decide (256 < packetBytes data))
  if addr % 256 ≠ 0 ∨ (s.feottePeer src) = false then s.epDrop d EpDrop.addBadtype
  else if !halved then s.windowPacket port src data
  else match s.halves.find? fun h => h.die == d && h.src == src && h.tag == tag && h.upper != upper with
    | some h =>
      let s := { s with halves := s.halves.erase h }
      s.windowPacket port src (if upper then h.data ++ data else data ++ h.data)
    | none => { s with halves := s.halves ++ [⟨d, src, tag, upper, data, s.clock + Config.ms 2⟩] }

/-- A store takes effect at its port: into the fabric window it carries a packet (R349, R364, R368). -/
def State.takeStore (s : State) (port : Nat) (pkt : Pkt) (dpart daddr : Nat) (data : List Byte) : State :=
  if inFabricWindow daddr then s.windowWrite port pkt.sdev daddr data else s.plainStore port pkt dpart daddr data

/-- STORE (R349, R364, R368). -/
def execStore (port : Nat) (pkt : Pkt) (s : State) : Out :=
  arrival port pkt (fun s => match pkt.body with
    | .store dpart daddr data => s.takeStore port pkt dpart daddr data
    | _ => s) s

/-- A packet that was held takes effect, or is held again. -/
def State.takeHeld (s : State) (port : Nat) (pkt : Pkt) : State :=
  match pkt.body with
  | .store dpart daddr data => s.takeStore port pkt dpart daddr data
  | _ => s.takePacket port pkt

/-- Whether the lifetime of a held packet of an Amnath peer is over; one that a deferred-arrival buffer has held is the exception of
R346. -/
def State.heldExpired (s : State) (pkt : Pkt) : Bool := s.feottePeer pkt.sdev && s.expired pkt && !pkt.deferred

/-- What is due without being asked for: bytes of cluster caches that have been dirty for 64 µs are performed (R340); every packet that is held
is tried again, in the order of arrival, but one whose lifetime is over (R346); and so are the kicks and control writes that wait (R42),
the retries of side logs (R248), the bytes of overflow rings (R80) and the entries of deferral areas (R388). What a reorder buffer holds past
its lifetime is discarded (R346), and the tile of a REKEY is written once all that waited for it has been merged (R260). -/
def State.dueArrivals (s : State) : State :=
  let s := s.dueBytes.dueRetries.dueSpills.dueDeferred.dropStale
  (s.held.foldl (fun (s : State) h =>
    if s.heldExpired h.2 then s.epDrop (portDie h.1) EpDrop.addExpired else s.takeHeld h.1 h.2) { s with held := [] }).dueNotices.endRekey

/-- UNPAIRED_HALF_EXPIRY (R346, R368). -/
def execUnpairedHalfExpiry (i : Nat) (s : State) : Out :=
  match s.halves[i]? with
  | none => .next s
  | some h => stepIf (decide (h.deadline ≤ s.clock)) (fun s =>
      { s.epDrop h.die EpDrop.addExpired with halves := dropAt s.halves i }) s

/-- BADTYPE_PACKET (R345, R351). -/
def execBadtypePacket (port : Nat) (pkt : Pkt) (s : State) : Out :=
  match pkt.body with
  | .unknown n => stepIf (n == 0 || decide (10 < n)) (fun s => s.epDrop (portDie port) EpDrop.addBadtype) s
  | _ => .next s

/-- FLOWACK_TIMER (R362). -/
def execFlowackTimer (i : Nat) (s : State) : Out :=
  match s.recvs[i]? with
  | none => .next s
  | some r => stepIf (decide (0 < r.unsent) && r.ackAt.any fun t => decide (t ≤ s.clock)) (fun s =>
      { s.sendFlowAck r with recvs := putAt s.recvs i { r with unsent := 0, ackAt := none } }) s

/-- FLOW_RETRANSMIT (R362, R365, R419): a round of retransmission, or after eight without progress the end of the flow. -/
def execFlowRetransmit (core i : Nat) (s : State) : Out :=
  match (s.flowsOf core)[i]? with
  | none => .next s
  | some f =>
    let due := !f.broken && !f.unacked.isEmpty && f.dest.ddev != selfEp && decide (f.since + Config.us 50 ≤ s.clock)
    stepIf due (fun s =>
      let put := fun (s : State) (g : Flow) => { s with flows := s.flows.set core (putAt (s.flowsOf core) i g) }
      if f.rounds < 8 then
        f.unacked.foldl (fun s p => s.emit (dieOf core) f.dest.ddev p.body) (put s { f with rounds := f.rounds + 1, since := s.clock })
      else
        let part := if f.cls = .atomic then (s.partOf core).getD 0 else f.part
        let s := (put s { f with broken := true, unacked := [], waiting := [] }).freeEvent roleFault (some (dieOf core)) part (dieOf core)
        let watched := s.jobs.any fun j =>
          j.desc.part == part && (s.launch ⟨part, superLid j.desc.super, superLgen j.desc.super⟩).isSome
        let s := { s with pfaults := s.pfaults ++ (if watched then [] else [(part, tFlow)]) }
        ((s.peerTimeout f.dest.ddev part (dieOf core)).resolveIsolated).sendCloses core) s

/-- ISOL_CLEAR (R347, R366). -/
def execIsolClear (peer : Nat) (s : State) : Out :=
  stepIf (decide (peer < 1024)) (fun s => s.modPeer peer fun p => { p with isol := false }) s

end Sys2Proof.Machine
end

