-- ==== Sys2Proof/Machine/Collect.lean ====
section
/-! DEFINITION. Collective graphs: images, instances and nodes (R63, R380 to R392, R399, R400, R432). -/

namespace Sys2Proof.Machine

/-- A node record, with its successors from the image's list (R381). -/
def nodeOf (succ : List Nat) (b : List Byte) : GNode :=
  { ntype := byteAt b 0, rankord := byteAt b 1 % 2 == 1, npred := fieldAt b 2 2, succ := (succ.drop (fieldAt b 4 2)).take (fieldAt b 6 2),
    addr0 := fieldAt b 8 8, addr1 := fieldAt b 16 8, len := fieldAt b 24 4, rod0 := fieldAt b 28 2, rodn := fieldAt b 30 2,
    arg0 := wd (fieldAt b 32 8), arg1 := wd (fieldAt b 40 8) }

/-- A rod entry (R382). -/
def grodOf (e : Nat) : GRod :=
  { rod := e % 2 ^ 14, send := e / 2 ^ 14 % 2 == 1, rank := e / 2 ^ 16 % 2 ^ 10, tdev := e / 2 ^ 16 % 2 ^ 16, trod := e / 2 ^ 32 % 2 ^ 14,
    tpart := e / 2 ^ 46 % 2 ^ 5 }

/-- The bytes of an image after its header, by the header (R380). -/
def imageRest (h : List Byte) : Nat := 64 * fieldAt h 0 2 + (2 * fieldAt h 2 2 + 7) / 8 * 8 + 8 * fieldAt h 4 2

/-- A graph from its image (R380 to R382). -/
def graphOf (key : GKey) (b : List Byte) : Graph :=
  let nn := fieldAt b 0 2
  let ns := fieldAt b 2 2
  let sb := 64 + 64 * nn
  let rb := sb + (2 * ns + 7) / 8 * 8
  let succ := (List.range ns).map fun i => fieldAt b (sb + 2 * i) 2
  { key := key, rank := fieldAt b 6 2, nranks := fieldAt b 8 2, defaddr := fieldAt b 16 8, deflen := fieldAt b 24 8,
    failrec := fieldAt b 32 8, nodes := (List.range nn).map (fun i => nodeOf succ ((b.drop (64 + 64 * i)).take 64)),
    rods := (List.range (fieldAt b 4 2)).map fun i => grodOf (fieldAt b (rb + 8 * i) 8) }

/-- A header whose fields lie outside their ranges (R380, R383). -/
def headerBad (h : List Byte) : Bool :=
  let out := fun (n lo hi : Nat) => decide (n < lo) || decide (hi < n)
  out (fieldAt h 0 2) 1 1024 || decide (4096 < fieldAt h 2 2) || decide (256 < fieldAt h 4 2) || out (fieldAt h 8 2) 1 1024
    || decide (fieldAt h 8 2 ≤ fieldAt h 6 2) || decide (fieldAt h 16 8 % 64 ≠ 0) || decide (fieldAt h 24 8 % 512 ≠ 0)
    || decide (fieldAt h 32 8 % 8 ≠ 0)

/-- A node whose fields lie outside their ranges (R381, R386, R391). -/
def GNode.bad (n : GNode) (nrods : Nat) : Bool :=
  decide (n.ntype < 1) || decide (7 < n.ntype) || decide (1024 < n.npred)
    || ([2, 3, 4].contains n.ntype && decide (nrods ≤ n.rod0))
    || (n.ntype == 2 && (decide (n.len < 1) || decide (65536 < n.len)))
    || (n.ntype == 5 && (decide (n.rodn < 1) || decide (64 < n.rodn) || decide (nrods < n.rod0 + n.rodn) || wbits n.arg1 2 1 == 3))

/-- The counts of predecessors after every startable node has been taken away; the fuel bounds the depth. -/
def acyclicFrom (nodes : List GNode) : Nat → List Nat → Bool
  | 0, left => left.isEmpty
  | fuel + 1, left =>
    let next := left.filter fun i => left.any fun j => ((nodes[j]?).map fun n => n.succ.contains i).getD false
    left.isEmpty || (next.length < left.length && acyclicFrom nodes fuel next)

/-- A graph that loading refuses, by the image alone (R383). -/
def Graph.badImage (g : Graph) (h b : List Byte) : Bool :=
  let nn := g.nodes.length
  let succ := (List.range (fieldAt h 2 2)).map fun i => fieldAt b (64 + 64 * nn + 2 * i) 2
  headerBad h || (g.nodes.any fun n => n.bad g.rods.length)
    || ((List.range nn).any fun i => decide (fieldAt h 2 2 < fieldAt b (64 + 64 * i + 4) 2 + fieldAt b (64 + 64 * i + 6) 2))
    || (succ.any fun i => decide (nn ≤ i))
    || ((List.range nn).any fun i => ((g.nodes[i]?).map (·.npred)).getD 0 != succ.count i)
    || !acyclicFrom g.nodes nn (List.range nn)
    || (g.rods.any fun r => !r.send && decide (g.nranks ≤ r.rank))
    || (g.rods.map (·.rod)).eraseDups.length != g.rods.length

/-- Whether an address of a job translates to device memory (R58, R380). -/
def State.sealedAt (s : State) (part job va : Nat) : Bool :=
  match s.xlate part job va 3 with
  | .ok e => inGlobal va && paKind (e.phys va) == .sealed
  | _ => false

/-- A graph that loading refuses for its deferral area, its rods, its place among the loaded ones, or a target that is no Amnath part
(R380, R383). -/
def State.graphRefused (s : State) (g : Graph) : Bool :=
  (decide (g.defaddr ≠ 0) && !s.sealedAt g.key.part g.key.job g.defaddr) ||
  (s.graph g.key).isSome || decide (64 ≤ s.graphs.length)
    || decide (8192 < (s.graphs.map fun o => o.nodes.length).sum + g.nodes.length)
    || (g.rods.any fun r => !s.rodOwned g.key.part r.rod || (s.rod r.rod).st != .free || (s.rod r.rod).use != .program
        || (r.send && !s.feottePeer r.tdev))

/-- A graph is loaded: its rods enter graph role (R383). -/
def State.loadGraph (s : State) (g : Graph) : State :=
  let take := fun (s : State) (p : Nat × GRod) => s.modRod p.2.rod fun r =>
    { r with use := .graph g.key p.1, send := p.2.send, part := g.key.part, job := g.key.job, block := none, count := 0, gen := 0,
             expect := none, short := 0, nput := 0, sender := none, tdev := if p.2.send then p.2.tdev else 0,
             trod := if p.2.send then p.2.trod else 0, tpart := if p.2.send then p.2.tpart else 0 }
  ((List.range g.rods.length).zip g.rods).foldl take { s with graphs := s.graphs ++ [g] }

/-- A graph is unloaded: its rods go into quarantine (R383, R388). -/
def State.unloadGraph (s : State) (g : Graph) : State :=
  g.rods.foldl (fun s r => s.freeRod r.rod) { s with graphs := s.graphs.filter fun o => o.key != g.key }

/-- The address that a field of a node names (R381). -/
def baseAddr (base : List Nat) (f : Nat) : Nat :=
  let off := f % 2 ^ 60
  if f / 2 ^ 63 = 1 then off else (base.getD (f / 2 ^ 60 % 8) 0 + off) % 2 ^ 64

/-- The earliest time at which rods may begin a new block (R387, R395). -/
def State.spacing (s : State) (rods : List Nat) : Nat :=
  rods.foldl (fun t n =>
    let r := s.rod n
    let t := if r.block.isSome then max t (r.genAt + Config.us 64) else t
    if r.st = .quarantine then max t r.quarUntil else t) s.clock

/-- An instance of a graph is taken up by a die's walker: it starts once the spacing allows it (R384, R387). -/
def State.newInst (s : State) (g : Graph) (die : Nat) (owner : GOwner) (phase : Nat) (base : List Nat) : State :=
  let s := s.dropReads fun n => decide (nodeName g.key 0 ≤ n) && decide (n < nodeName g.key 0 + 2 ^ 11)
  let i : GInst := { num := g.next, die := die, owner := owner, phase := phase, base := base, startAt := some (s.spacing (g.rods.map (·.rod))) }
  s.modGraph g.key fun g => { g with next := (g.next + 1) % 2 ^ 16, inst := some i }

/-- GRAPH_PACKET (R63, R384, R390): at a STOPPED handle or in a cancelled phase the instance aborts at once. -/
def execGraphPacket (rid : Nat) (s : State) : Out :=
  pktEvent rid 7 (fun r s =>
    let key : GKey := ⟨r.part, r.job, fieldAt r.bytes 16 2 % 2 ^ 10⟩
    let phase := pktPhase r.bytes
    match s.graph key with
    | none =>
      let t := s.finishPkt rid false
      if (t.runPkt rid).isNone then t.leavePhase r.part r.job phase true else t
    | some g =>
      if g.inst.isSome then s
      else
        let s := s.newInst g r.die (.packet rid) phase []
        if g.stopped then s.abortInst key 0xFFFF g.status
        else if (s.phaseOf r.part r.job phase).any fun p => p.cancelled then s.cancelInst key
        else s) s

/-- The packet that an instance belongs to counts as started; the boundary of its phase is marked if it ends one (R53, R387). -/
def State.collectStarted (s : State) (o : GOwner) : State :=
  match o with
  | .run _ _ => s
  | .packet rid => match s.runPkt rid with
    | none => s
    | some r =>
      if r.begun then s
      else
        let s := s.modRun rid fun r => { r with begun := true }
        if pktPhaseEnd r.bytes then s.markPhase r.part r.job (pktPhase r.bytes) else s

/-- The name of a graph's walker. -/
def walkerName (k : GKey) : Nat := nodeName k 1024

/-- The base table of an instance: that of its run block, or the one its packet names (R63, R384). -/
def State.baseTable (s : State) (key : GKey) (i : GInst) : URes (List Nat) × State :=
  match i.owner with
  | .run _ _ => (.ok i.base, s)
  | .packet rid => match s.runPkt rid with
    | none => (.ok i.base, s)
    | some r => match s.globalRead (walkerName key) i.die key.part key.job (fieldAt r.bytes 24 8) 64 with
      | (.ok b, s) => (.ok ((List.range 8).map fun k => fieldAt b (8 * k) 8), s)
      | (.fail c, s) => (.fail c, s)
      | (.wait, s) => (.wait, s)

/-- The rods of a graph at the block of an instance (R387). -/
def State.armGraph (s : State) (g : Graph) (num : Nat) : State :=
  let b := 4 * num % 256
  let t := s.shortTmo g.key.part
  g.rods.foldl (fun s r => s.modRod r.rod fun q =>
    { (if r.send then q.open_ s.clock b t else q.arm s.clock b t) with block := some b }) s

/-- GRAPH_INSTANCE_START (R384, R387, R388). -/
def execGraphInstanceStart (key : GKey) (s : State) : Out :=
  match (s.graph key).bind fun g => g.inst.map fun i => (g, i) with
  | none => .next s
  | some (g, i) =>
    stepIf (i.aborted.isNone && i.startAt.any fun t => decide (t ≤ s.clock)) (fun s =>
      match s.baseTable key i with
      | (.wait, s) => s
      | (.fail c, s) =>
        let (w, s) := s.draw
        ((s.modInst key fun i => { i with startAt := none }).abortInst key (w.toNat % 2 ^ 16) c).collectStarted i.owner
      | (.ok base, s) =>
        let s := (s.armGraph g i.num).modInst key fun i =>
          { i with startAt := none, base := base, counts := g.nodes.map (·.npred), begun := g.nodes.map fun _ => false,
                   nodes := g.nodes.map fun n => if n.npred = 0 then .ready else .waiting }
        (s.applyDeferred (g.rods.map (·.rod))).collectStarted i.owner) s

/-- A node of the active instance that runs, or that has become startable and starts now, the lowest of those (R385): the graph, the
instance, the node and whether its work has begun. -/
def State.nodeAt (s : State) (key : GKey) (n type : Nat) : Option (Graph × GInst × GNode × Bool) :=
  match s.graph key with
  | none => none
  | some g => match g.inst, g.nodes[n]? with
    | some i, some d =>
      let begun := (i.begun[n]?).getD false
      let runs := i.nodes[n]? == some .running && (begun || i.aborted.isNone || [1, 2].contains d.ntype)
      let starts := i.nodes[n]? == some .ready && i.aborted.isNone && !(i.nodes.take n).contains .ready
      if d.ntype = type ∧ (runs || starts) then some (g, i, d, begun) else none
    | _, _ => none

/-- A startable node runs from its first step on (R385). -/
def State.nodeStart (s : State) (key : GKey) (n : Nat) : State :=
  s.modInst key fun i => if i.nodes[n]? = some .ready then { i with nodes := putAt i.nodes n .running } else i

/-- A step of a node of a type. -/
def nodeEvent (key : GKey) (n type : Nat) (f : Graph → GInst → GNode → Bool → State → State) (s : State) : Out :=
  match s.nodeAt key n type with
  | none => .next s
  | some (g, i, d, begun) => .next (f g i d begun (s.nodeStart key n))

/-- A node's work has begun; a node fails with a status, and its instance aborts (R390). -/
def State.nodeBegun (s : State) (key : GKey) (n : Nat) : State := s.modInst key fun i => { i with begun := putAt i.begun n true }
@[inherit_doc State.nodeBegun] def State.nodeFail (s : State) (key : GKey) (n status : Nat) : State :=
  (s.setNode key n .failed).abortInst key n status

/-- NODE_COPY (R385, R386): a write of it that a merge dropped fails it. -/
def execNodeCopy (key : GKey) (n : Nat) (s : State) : Out :=
  nodeEvent key n 1 (fun _ i d begun s =>
    let name := nodeName key n
    if begun then
      if i.owed.get 0 n = 0 ∧ s.asking (.unit name) = false then
        if s.seals.dropped.contains name then s.nodeFail key n stSeal else s.setNode key n .ended
      else s
    else
      let s := s.modSeal fun z => { z with dropped := z.dropped.filter (· != name) }
      let rows := if d.len = 0 then [] else [(baseAddr i.base d.addr0, baseAddr i.base d.addr1)]
      match s.copyBlock (.unit name) name i.die key.part key.job d.len rows (.node key n) with
      | (.wait, s) => s
      | (.fail c, s) => s.nodeFail key n c
      | (.ok (k, c), s) =>
        let s := (s.nodeBegun key n).modInst key fun i => { i with owed := i.owed.set n k }
        if c = stOk then s else s.nodeFail key n c) s

/-- The status of a rod fault, and of a cancel, in a failure record (R390). -/
def stRodFault : Nat := 12
@[inherit_doc stRodFault] def stCancelled : Nat := 13

/-- The destination of a PUTC node as translated: a failure where a page is not peer memory of the rod's target (R372, R386). -/
def State.nodeDest (s : State) (tdev : Nat) (l : List (Nat × Nat × Nat)) : Bool :=
  l.all fun p => match paKind p.2.1 with
    | .peer i => (s.peer i).ep == tdev
    | _ => false

/-- NODE_PUTC (R347, R372, R386). -/
def execNodePutc (key : GKey) (n : Nat) (s : State) : Out :=
  nodeEvent key n 2 (fun g i d begun s =>
    if begun then s
    else
      let name := nodeName key n
      let rn := ((g.rods[d.rod0]?).map (·.rod)).getD 0
      let r := s.rod rn
      let a := baseAddr i.base d.addr0
      let b := baseAddr i.base d.addr1
      if r.send = false ∨ r.st ≠ .open_ ∨ s.feottePeer r.tdev = false then s.nodeFail key n stRodFault
      else if inGlobal a = false ∨ inGlobal (a + (d.len - 1)) = false then s.nodeFail key n stAperture
      else match State.unitMap name i.die none key.part key.job 0 (pagesIn d.len) a d.len s with
        | (.wait, s) => s
        | (.fail c, s) => s.nodeFail key n c
        | (.ok src, s) =>
          if src.any fun p => paKind p.2.1 != .sealed then s.nodeFail key n stPerm
          else if inGlobal b = false ∨ inGlobal (b + (d.len - 1)) = false then s.nodeFail key n stRodFault
          else match State.unitMap name i.die none key.part key.job 1 (pagesIn d.len) b d.len s with
            | (.wait, s) => s
            | (.fail c, s) => s.nodeFail key n c
            | (.ok dst, s) =>
              let beads := beadsOf src dst b d.len
              if s.nodeDest r.tdev dst = false ∨ r.nput = 1024 ∨ 2 ^ 32 ≤ r.count + beads.length then s.nodeFail key n stRodFault
              else
                let j : PutJob := { rod := rn, gen := r.gen, cmd := ⟨none, beads⟩, since := s.clock, node := some (key, n) }
                (s.pushPut i.die rn j).nodeBegun key n) s

/-- NODE_BEAM (R386): its beam is sent once the puts before it have been injected (R443). -/
def execNodeBeam (key : GKey) (n : Nat) (s : State) : Out :=
  nodeEvent key n 3 (fun g _ d _ s =>
    let rn := ((g.rods[d.rod0]?).map (·.rod)).getD 0
    let r := s.rod rn
    if r.send = false ∨ r.st ≠ .open_ then s.nodeFail key n stRodFault
    else if s.putsOf rn then s
    else (s.sendBeam (rodDie rn) rn).setNode key n .ended) s

/-- NODE_RODWAIT (R386). -/
def execNodeRodwait (key : GKey) (n : Nat) (s : State) : Out :=
  nodeEvent key n 4 (fun g _ d _ s =>
    match (s.rod (((g.rods[d.rod0]?).map (·.rod)).getD 0)).st with
    | .done => s.setNode key n .ended
    | .fault => s.nodeFail key n stRodFault
    | _ => s) s

/-- The rods of a REDUCE node, and whether every one is DONE, or any in FAULT (R391, R392). -/
def Graph.inputs (g : Graph) (d : GNode) : List Nat := (g.rods.drop d.rod0).take d.rodn |>.map (·.rod)
@[inherit_doc Graph.inputs] def State.inputsDone (s : State) (g : Graph) (d : GNode) : Bool :=
  (g.inputs d).all fun n => (s.rod n).st == .done

/-- The bytes of an element of a REDUCE, and the tiles of its destination: their number, and the range of one (R391). -/
def GNode.elemBytes (d : GNode) : Nat := if wbit d.arg1 0 then 2 else 4
@[inherit_doc GNode.elemBytes] def reduceTiles (dst len : Nat) : Nat := if len = 0 then 0 else (dst + (len - 1)) / 4096 + 1 - dst / 4096
@[inherit_doc GNode.elemBytes] def tileRange (dst len i : Nat) : Nat × Nat :=
  let lo := max dst ((dst / 4096 + i) * 4096)
  (lo, min (dst + len) ((dst / 4096 + i + 1) * 4096) - lo)

/-- NODE_REDUCE (R391, R392): the checks at its start, and its end once every tile has been reduced; in rank order it waits for every
input even where it has no byte to write. -/
def execNodeReduce (key : GKey) (n : Nat) (s : State) : Out :=
  nodeEvent key n 5 (fun g i d begun s =>
    let dst := baseAddr i.base d.addr1
    let done := (i.tiles.filter fun p => p.1 == n).length
    if d.len % d.elemBytes ≠ 0 then s.nodeFail key n stMalformed
    else if begun = false then s.nodeBegun key n
    else if done = reduceTiles dst d.len ∧ (d.rankord = false ∨ s.inputsDone g d = true) then s.setNode key n .ended
    else s) s

/-- The contributions of a REDUCE in the order in which they are combined, none for the local one (R392). -/
def reduceOrder (g : Graph) (i : GInst) (d : GNode) : List (Option Nat) :=
  let inputs := List.range d.rodn
  if d.rankord then
    let rank := fun (k : Nat) => ((g.rods[d.rod0 + k]?).map (·.rank)).getD 0
    let low := inputs.filter fun k => decide (rank k < g.rank)
    let high := inputs.filter fun k => decide (g.rank ≤ rank k)
    let sort := fun (l : List Nat) => l.mergeSort fun a b => decide (rank a ≤ rank b)
    (sort low).map some ++ [none] ++ (sort high).map some
  else
    none :: ((i.doneRods.filter fun r => decide (d.rod0 ≤ r) && decide (r < d.rod0 + d.rodn)).map fun r => some (r - d.rod0))

/-- One element reduced from its contributions (R392). -/
def reduceElem (d : GNode) (l : List Nat) : Nat :=
  let f := FFmt.f32
  let src := if wbit d.arg1 0 then FFmt.bf16 else f
  let step := fun (acc c : Nat) =>
    let a := f.decode acc
    let b := src.decode c
    (match wbits d.arg1 2 1 with
      | 0 => f.add .rne false a b
      | 1 => f.minmax true a b
      | _ => f.minmax false a b).1
  match l with
  | [] => 0
  | c :: t =>
    let acc := t.foldl step (f.conv .rne none false false (src.decode c)).1
    if wbit d.arg1 0 then (FFmt.bf16.conv .rne none false false (f.decode acc)).1 else acc

/-- A range read by a REDUCE at its seal engines: sealed device memory (R391). -/
def State.reduceRead (s : State) (name die part job va n : Nat) : URes (List Byte) × State :=
  if inGlobal va = false ∨ inGlobal (va + (n - 1)) = false then (.fail stAperture, s)
  else match State.unitMap name die none part job 0 (pagesIn n) va n s with
    | (.fail c, s) => (.fail c, s)
    | (.wait, s) => (.wait, s)
    | (.ok l, s) =>
      if l.any fun p => paKind p.2.1 != .sealed then (.fail stPerm, s)
      else match s.readPieces l with
        | some b => (.ok b, s)
        | none => (.fail stSeal, l.foldl (fun s p => s.noteLost part p.2.1) s)

/-- The contributions' bytes in order. -/
def State.reduceReads (name die part job n : Nat) : List Nat → State → URes (List (List Byte)) × State
  | [], s => (.ok [], s)
  | va :: t, s => match s.reduceRead name die part job va n with
    | (.fail c, s) => (.fail c, s)
    | (.wait, s) => (.wait, s)
    | (.ok b, s) => match State.reduceReads name die part job n t s with
      | (.ok l, s) => (.ok (b :: l), s)
      | r => r

/-- REDUCE_TILE (R391, R392): one destination tile, once every input is DONE. -/
def execReduceTile (key : GKey) (n tile : Nat) (s : State) : Out :=
  nodeEvent key n 5 (fun g i d begun s =>
    let dst := baseAddr i.base d.addr1
    if begun = false ∨ s.inputsDone g d = false ∨ i.tiles.contains (n, tile) = true ∨ reduceTiles dst d.len ≤ tile then s
    else
      let es := d.elemBytes
      let (lo, k) := tileRange dst d.len tile
      let e0 := (lo - dst) / es
      let cnt := (lo - dst + (k - 1)) / es + 1 - e0
      let at_ := fun (o : Option Nat) => (match o with
        | none => baseAddr i.base d.addr0
        | some r => (d.arg0.toNat + r * d.len) % 2 ^ 64) + e0 * es
      match State.reduceReads (nodeName key n) i.die key.part key.job (cnt * es) ((reduceOrder g i d).map at_) s with
      | (.wait, s) => s
      | (.fail c, s) => s.nodeFail key n c
      | (.ok l, s) =>
        if inGlobal lo = false ∨ inGlobal (lo + (k - 1)) = false then s.nodeFail key n stAperture
        else match State.unitMap (nodeName key n) i.die none key.part key.job 1 2 lo k s with
          | (.wait, s) => s
          | (.fail c, s) => s.nodeFail key n c
          | (.ok m, s) =>
            let out := ((List.range cnt).flatMap fun e => leBytes es (reduceElem d (l.map fun b => fieldAt b (es * e) es)))
            let pieces := m.map fun p => (p.2.1, p.2.2)
            if m.any fun p => paKind p.2.1 != .sealed then s.nodeFail key n stPerm
            else match s.writeBead key.part pieces ((out.drop (lo - dst - e0 * es)).take k) with
              | .written s => s.modInst key fun i => { i with tiles := i.tiles ++ [(n, tile)] }
              | .failed s => s.nodeFail key n stSeal
              | .dropped s => s
              | .wait s => s) s

/-- The message of a SEND node (R150, R386). -/
def nodeMsg (die : Nat) (d : GNode) (b : List Byte) : Msg :=
  let w := d.arg0
  let dest := (destOf w).norm
  { kind := .seed, taddr := dest.taddr, ddev := dest.ddev, dpart := dest.dpart, handler := wbits w 53 48, lgen := wbits d.arg1 15 12,
    lid := wbits d.arg1 11 0, dest := dest.dest, sdev := selfEp, score := die * 1024,
    payload := (List.range 6).map fun i => wd (fieldAt b (8 * i) 8) }

/-- NODE_SEND (R386). -/
def execNodeSend (key : GKey) (n : Nat) (s : State) : Out :=
  nodeEvent key n 6 (fun _ i d begun s =>
    if begun then s
    else if wbit d.arg0 30 || wbit d.arg0 31 then s.nodeFail key n stMalformed
    else match s.globalRead (nodeName key n) i.die key.part key.job (baseAddr i.base d.addr0) 48 with
      | (.wait, s) => s
      | (.fail c, s) => s.nodeFail key n c
      | (.ok b, s) =>
        let m := nodeMsg i.die d b
        if m.ddev ≠ selfEp then
          match s.peerAt m.ddev with
          | some (_, p) =>
            if p.feotte && !p.isol then (s.emit i.die m.ddev (.message m)).setNode key n .ended
            else (s.epDrop i.die EpDrop.addIsolated).setNode key n .ended
          | none => (s.epDrop i.die EpDrop.addIsolated).setNode key n .ended
        else match s.inboundCore i.die m with
          | (.wait, s) => s
          | (.none_, s) => (s.tileDrop i.die m).setNode key n .ended
          | (.core c, s) => if (s.core c).pressed then s else (s.toMesh m c (.node key n)).nodeBegun key n) s

/-- COMPSIG of a LAUNCH template that a node places (R50, R58): bad where it cannot be a signal. -/
def State.nodeSig (s : State) (name die part job sig : Nat) : URes Unit × State :=
  if sig = 0 then (.ok (), s)
  else if !signalAddr sig then (.fail stMalformed, s)
  else match s.unitXlate name die none part job sig 3 with
    | (.wait, s) => (.wait, s)
    | (.fail _, s) => (.fail stMalformed, s)
    | (.ok e, s) => (if paKind (e.phys sig) = .sealed then .ok () else .fail stMalformed, s)

/-- NODE_LAUNCH (R386): its template is placed, and then its seeds leave; the launch's completion ends the node. -/
def execNodeLaunch (key : GKey) (n : Nat) (clusters : List Nat) (s : State) : Out :=
  nodeEvent key n 7 (fun _ i d begun s =>
    let name := nodeName key n
    if begun then
      let req := LaunchReq.parse (i.templates.get [] n)
      let lk := req.key key.part
      match s.launch lk with
      | none => s
      | some l =>
        let s := s.seedLaunch l req
        if s.seeded lk then s.noteEnd lk else s
    else match s.globalRead name i.die key.part key.job (baseAddr i.base d.addr0) 128 with
      | (.wait, s) => s
      | (.fail c, s) => s.nodeFail key n c
      | (.ok b, s) =>
        let req := LaunchReq.parse b
        match s.nodeSig name i.die key.part key.job req.sig with
        | (.wait, s) => s
        | (.fail c, s) => s.nodeFail key n c
        | (.ok _, s) =>
          let p : Placement := { req := req, owner := .node key n, graph := some key.handle, phase := i.phase, die := i.die }
          if pktType b ≠ 1 ∨ req.gang ≠ 0 then s.nodeFail key n stMalformed
          else match s.place name key.part key.job clusters [p] with
            | (.malformed, s) => s.nodeFail key n stMalformed
            | (.wait, s) => s
            | (.short, s) => s
            | (.later, s) => s
            | (.placed, s) =>
              (s.nodeBegun key n).modInst key fun i => { i with templates := i.templates.set n b }) s

/-- NODE_FINISH (R385): a node that has ended tells its successors, and those whose count reaches zero start. -/
def execNodeFinish (key : GKey) (n : Nat) (s : State) : Out :=
  match (s.graph key).bind fun g => g.inst.map fun i => (g, i) with
  | none => .next s
  | some (g, i) =>
    stepIf (i.nodes[n]? == some .ended) (fun s =>
      let succ := ((g.nodes[n]?).map (·.succ)).getD []
      let counts := succ.foldl (fun c k => putAt c k ((c.getD k 0) - 1)) i.counts
      let nodes := putAt i.nodes n .finished
      let ready := fun (k : Nat) (st : NodeSt) => st == .waiting && counts.getD k 1 == 0 && i.aborted.isNone
      s.modInst key fun i =>
        { i with counts := counts,
                 nodes := ((List.range nodes.length).zip nodes).map fun p => if ready p.1 p.2 then .ready else p.2 }) s

/-- The signal and value of an instance or XALL, by what it reports to. -/
def State.ownerSig (s : State) (o : GOwner) : Nat × Nat :=
  match o with
  | .run sig val => (sig, val)
  | .packet rid => match s.runPkt rid with
    | some r => (pktSig r.bytes, pktVal r.bytes)
    | none => (0, 0)

/-- An instance or XALL has been reported to the level above (R31, R432). -/
def State.ownerDone (s : State) (o : GOwner) (part job phase : Nat) (failed : Bool) : State :=
  let s := match o with
    | .run _ _ => s
    | .packet rid => { s with running := s.running.filter fun r => r.id != rid }
  s.leavePhase part job phase failed

/-- INSTANCE_RETIRE (R389, R432). -/
def execInstanceRetire (key : GKey) (s : State) : Out :=
  match (s.graph key).bind fun g => g.inst.map fun i => (g, i) with
  | none => .next s
  | some (g, i) =>
    let closed := g.rods.all fun r => !(r.send && ((s.rod r.rod).st == .sent || s.putsOf r.rod))
    stepIf (i.startAt.isNone && i.aborted.isNone && (i.nodes.all fun st => st == .finished) && closed) (fun s =>
      let (sig, val) := s.ownerSig i.owner
      let w3 := key.handle + i.num * 2 ^ 16
      let done := fun (s : State) (lost : Bool) =>
        (s.modGraph key fun g => { g with inst := none }).ownerDone i.owner key.part key.job i.phase lost
      match s.sigAct (walkerName key) i.die key.part key.job .graph sig false val w3 with
      | (.wait, s) => s
      | (.done, s) => done s false
      | (.lost, s) => done s true) s

/-- Whether nothing that an aborted instance lets run to its end is left (R390). -/
def State.instQuiet (s : State) (g : Graph) (i : GInst) : Bool :=
  ((List.range g.nodes.length).all fun n =>
    let d := g.nodes[n]?
    let begun := (i.begun[n]?).getD false
    !(i.nodes[n]? == some .running
      && (d.any fun d => [1, 2].contains d.ntype || (begun && (d.ntype == 6 || (d.ntype == 5 && s.inputsDone g d))))))
    && !(s.puts.any fun p => p.2.node.any fun k => k.1 == g.key)
    && !(s.launches.any fun l => match l.owner with
      | .node k _ => k == g.key
      | .packet _ => false)

/-- The 16 bytes of a failure record (R390). -/
def failRecord (node num status : Nat) : List Byte := leBytes 2 node ++ leBytes 2 num ++ leBytes 1 status ++ leBytes 11 0

/-- The failure record written where it can be; none while its translation or its tile waits (R390). -/
def State.putRecord (s : State) (key : GKey) (die va : Nat) (b : List Byte) : Option State × State :=
  if va = 0 ∨ inGlobal va = false then (some s, s)
  else match s.unitXlate (nodeName key 1025) die none key.part key.job va 1 with
    | (.wait, s) => (none, s)
    | (.fail _, s) => (some s, s)
    | (.ok e, s) =>
      let pa := e.phys va
      if paKind pa ≠ .sealed then (some s, s)
      else if s.writeWaits (tileOf pa) then (none, s)
      else
        let t := s.writePoc pa key.part b 2
        (some t, t)

/-- INSTANCE_ABORT (R390, R432). -/
def execInstanceAbort (key : GKey) (s : State) : Out :=
  match (s.graph key).bind fun g => g.inst.map fun i => (g, i) with
  | none => .next s
  | some (g, i) => match i.aborted with
    | none => .next s
    | some (node, status) =>
      stepIf (s.instQuiet g i) (fun s =>
        match s.putRecord key i.die g.failrec (failRecord node i.num status) with
        | (none, s) => s
        | (some s, _) =>
          let (sig, val) := s.ownerSig i.owner
          let done := fun (s : State) =>
            ((s.collectStarted i.owner).modGraph key fun g => { g with inst := none, stopped := true, status := status }).ownerDone
              i.owner key.part key.job i.phase true
          match s.sigAct (walkerName key) i.die key.part key.job .graph sig true val (key.handle + i.num * 2 ^ 16) with
          | (.wait, s) => s
          | (_, s) => done s) s

/-- GRAPH_STOPPED_END (R400). -/
def execGraphStoppedEnd (key : GKey) (s : State) : Out :=
  match s.graph key with
  | none => .next s
  | some g =>
    stepIf (g.inst.isNone && g.stopEnd.any fun p => decide (p.1 ≤ s.clock)) (fun s =>
      s.modGraph key fun g => { g with stopped := false, next := (g.stopEnd.map (·.2)).getD g.next, stopEnd := none }) s

/-- COMPSIG of a block, checked at issue (R58). -/
def checkCompsig (sig : Nat) : M Unit := do
  if sig = 0 then pure ()
  else
    guardM (decide (sig % 8 ≠ 0)) tAlign (wd sig)
    guardM (!inGlobal sig) tAperture (wd sig)
    let _ ← takeOp sig 3 sealedOnly
    pure ()

/-- GRUN (R58, R399). -/
def execGrun (d a b : Nat) (s : State) : Out :=
  finish (do
    let x0 ← getMe
    let v ← operands (.dst d) (.src a) (.src b)
    let handle := wbits v.a 9 0
    let started := x0.pend.find? fun p => p.key == handle
    match started.bind (·.ans) with
    | some (.word w) => writeX d w
    | _ =>
      let s ← get
      let key : GKey := ⟨s.me.part, s.me.job, handle⟩
      guardM (s.graph key).isNone tGraph
      let w ← checkAccess v.b.toNat 80 64
      let blk ← loadWin ((← getMe).stampFor (x0.tainted b)) w v.b.toNat 80
      let sig := fieldAt blk 64 8
      checkCompsig sig
      let s ← get
      match s.graph key with
      | none => trapM tGraph
      | some g =>
        if g.stopped then writeX d 2#64
        else if g.inst.isSome then writeX d 1#64
        else
          awaitRelease 5
          let s ← get
          let x := s.me
          let base := (List.range 8).map fun i => fieldAt blk (8 * i) 8
          let t := (s.newInst g (dieOf s.cur.core) (.run sig (fieldAt blk 72 4)) x.phase base).joinPhase x.part x.job x.phase
          set t
          let out := wd (g.next * 2 ^ 16)
          if s.clock < s.spacing (g.rods.map (·.rod)) then
            modMe fun x => { x with pend := [⟨0, handle, some (.word out)⟩] }
            blockM (.graph x.part x.job handle g.next)
          else writeX d out) s

/-- GCANCEL (R400). What RESET = 1 writes to x[d] is not stated: a free value. -/
def execGcancel (d a : Nat) (s : State) : Out :=
  finish (do
    let v ← operands (.dst d) (.src a) .none
    let s ← get
    let key : GKey := ⟨s.me.part, s.me.job, wbits v.a 9 0⟩
    let inst := wbits v.a 25 10
    match s.graph key with
    | none => trapM tGraph
    | some g =>
      if wbit v.a 27 then
        let s := if g.inst.isSome then s.cancelInst key else s
        let (w, s) := s.draw
        set (s.modGraph key fun g => { g with stopEnd := some (s.clock + Config.ms 2, inst) })
        writeX d w
      else if g.inst.any fun i => wbit v.a 26 || i.num == inst then
        set (s.cancelInst key)
        writeX d 0#64
      else writeX d 1#64) s

end Sys2Proof.Machine
end

