-- ==== Sys2Proof/Machine/Alltoall.lean ====
section
/-! DEFINITION. The transposing all-to-all: its checks, its start, its end, and its packet and instruction (R63, R393 to R397, R401,
R444). -/

namespace Sys2Proof.Machine

/-- The fields of an XALL's block, or of an XALL packet's bytes 16 to 63 (R63, R401). -/
structure XallReq where
  srcMap : Nat
  dstMap : Nat
  srcBase : Nat
  dstBase : Nat
  peerTbl : Nat
  rodBase : Nat
  deriving DecidableEq, Repr

/-- The fields from 48 bytes. -/
def xallReqOf (b : List Byte) : XallReq :=
  ⟨fieldAt b 0 8, fieldAt b 8 8, fieldAt b 16 8, fieldAt b 24 8, fieldAt b 32 8, fieldAt b 40 4⟩

/-- The entries of a peer table: endpoint and partition by rank (R395). -/
def peersFrom (b : List Byte) (n : Nat) : List (Nat × Nat) :=
  (List.range n).map fun r => (fieldAt b (8 * r) 2, byteAt b (8 * r + 2) % 32)

/-- The rods of an XALL: the receive rods and the send rods of every other rank (R395). -/
def xallRods (rodBase nranks me : Nat) : List Nat :=
  let others := (List.range nranks).filter (· != me)
  others.map (rodBase + ·) ++ others.map (rodBase + nranks + ·)

/-- A rod that an XALL of a job can take: FREE, or parked by an earlier one (R395). -/
def State.xallTakes (s : State) (part job n : Nat) : Bool :=
  let r := s.rod n
  decide (n < 2 ^ 14) && s.rodOwned part n && (match r.use with
    | .program => r.st == .free
    | .xall _ active => !active && r.st != .fault && r.part == part && r.job == job
    | .graph _ _ => false)

/-- The rank that names this device in a peer table, if exactly one does (R395). -/
def rankOf (peers : List (Nat × Nat)) (part : Nat) : Option Nat :=
  let mine := (List.range peers.length).filter fun r => peers[r]? == some (selfEp, part)
  match mine with
  | [r] => some r
  | _ => none

/-- The checks of R401 on what has been read: the XALL, or the cause of its trap. -/
def State.xallCheck (s : State) (part job phase die : Nat) (o : GOwner) (q : XallReq) (src dst : LMap) (tbl : List Byte) : Except Nat Xall :=
  let peers := peersFrom tbl src.nranks
  match rankOf peers part with
  | none => .error tFmt
  | some me =>
    let rods := xallRods q.rodBase src.nranks me
    if !(rods.all fun n => s.xallTakes part job n && rodDie n == rodDie q.rodBase) then .error tRod
    else .ok { id := 0, part := part, job := job, phase := phase, die := die, owner := o, src := src, dst := dst, srcBase := q.srcBase,
               dstBase := q.dstBase, peers := peers, me := me, rodBase := q.rodBase }

/-- The rods of an XALL (R395). -/
def Xall.rods (x : Xall) : List Nat := xallRods x.rodBase x.src.nranks x.me

/-- An XALL joins its phase and waits for a layout-map engine; its rods are its own from now on (R31, R395). -/
def State.addXall (s : State) (x : Xall) : State :=
  let (id, s) := s.fresh
  let x := { x with id := id }
  let s := x.rods.foldl (fun s n => s.modRod n fun r => { r with use := .xall id true, part := x.part, job := x.job }) s
  { s with xalls := s.xalls ++ [x] }

/-- XALL (R58, R401). -/
def execXall (a : Nat) (s : State) : Out :=
  finish (do
    let x0 ← getMe
    let v ← operands .none (.src a) .none
    let w ← checkAccess v.a.toNat 64 64
    let stamp := (← getMe).stampFor (x0.tainted a)
    let blk ← loadWin stamp w v.a.toNat 64
    let q := xallReqOf blk
    checkCompsig (fieldAt blk 48 8)
    guardM (decide (q.srcMap % 16 ≠ 0)) tAlign (wd q.srcMap)
    guardM (decide (q.dstMap % 16 ≠ 0)) tAlign (wd q.dstMap)
    let ws ← checkAccess q.srcMap 48 16
    let wt ← checkAccess q.dstMap 48 16
    let src := LMap.parse (← loadWin stamp ws q.srcMap 48)
    let dst := LMap.parse (← loadWin stamp wt q.dstMap 48)
    guardM (src.bad || dst.bad || !src.agrees dst) tFmt
    let wp ← checkAccess q.peerTbl (8 * src.nranks) 1
    let tbl ← loadWin stamp wp q.peerTbl (8 * src.nranks)
    let s ← get
    let me := s.me
    match s.xallCheck me.part me.job me.phase (dieOf s.cur.core) (.run (fieldAt blk 48 8) (fieldAt blk 56 4)) q src dst tbl with
    | .error c => trapM c
    | .ok x =>
      awaitRelease 5
      modify fun s => (s.addXall x).joinPhase x.part x.job x.phase) s

/-- What an XALL packet reads: its maps and its peer table (R63, R401). -/
def State.xallRead (s : State) (name die part job : Nat) (q : XallReq) : URes (LMap × LMap × List Byte) × State :=
  match s.globalRead name die part job q.srcMap 48 with
  | (.wait, s) => (.wait, s)
  | (.fail c, s) => (.fail c, s)
  | (.ok a, s) => match s.globalRead name die part job q.dstMap 48 with
    | (.wait, s) => (.wait, s)
    | (.fail c, s) => (.fail c, s)
    | (.ok b, s) =>
      let src := LMap.parse a
      let dst := LMap.parse b
      if src.bad || dst.bad || !src.agrees dst then (.fail stMalformed, s)
      else match s.globalRead name die part job q.peerTbl (8 * src.nranks) with
        | (.wait, s) => (.wait, s)
        | (.fail c, s) => (.fail c, s)
        | (.ok t, s) => (.ok (src, dst, t), s)

/-- A malformed XALL packet, and one whose phase has been cancelled, is consumed as if it had not started (R50, R401, R436). -/
def State.dropXallPacket (s : State) (r : RunPkt) (bad : Bool) : State :=
  match (if bad then s.abortReady r.key else (true, s)) with
  | (false, s) => s
  | (true, s) => match s.failSig r.key r.die (!bad) r.bytes with
    | (none, s) => s
    | (some s, _) =>
      let t := { s with running := s.running.filter fun q => q.id != r.id }
      if bad then t.abortQueue r.key 3 else t

/-- XALL_PACKET (R63, R401). One whose maps or peer table cannot be read is malformed. Mark: DESIGN CHOICE (log entry 115). -/
def execXallPacket (rid : Nat) (s : State) : Out :=
  pktEvent rid 8 (fun r s =>
    let phase := s.phaseOf r.part r.job (pktPhase r.bytes)
    if r.begun || s.xalls.any fun x => x.owner == .packet rid then s
    else if phase.any fun p => p.cancelled then s.dropXallPacket r false
    else
      let q := xallReqOf (r.bytes.drop 16)
      if q.srcMap % 16 ≠ 0 ∨ q.dstMap % 16 ≠ 0 ∨ (phase.any fun p => p.marked) = true then s.dropXallPacket r true
      else match s.xallRead (unitName 3 rid) r.die r.part r.job q with
        | (.wait, s) => s
        | (.fail _, s) => s.dropXallPacket r true
        | (.ok (src, dst, t), s) => match s.xallCheck r.part r.job (pktPhase r.bytes) r.die (.packet rid) q src dst t with
          | .error _ => s.dropXallPacket r true
          | .ok x => ((s.addXall x).joinPhase x.part x.job x.phase).collectStarted (.packet rid)) s

/-- The one block of generations at which an XALL's rods start: the block after the previous XALL's on parked rods, and block 0 on FREE ones
(R395, R444). Where they come of several, it follows that of the first rod that has one. Mark: DESIGN CHOICE (log entry 114). -/
def State.xallBlock (s : State) (x : Xall) : Nat :=
  ((x.rods.findSome? fun n => (s.rod n).block).map fun b => (b + 4) % 256).getD 0

/-- The rods of an XALL armed and opened at its block (R395, R444). -/
def State.armXall (s : State) (x : Xall) : State :=
  let t := s.shortTmo x.part
  let others := (List.range x.src.nranks).filter (· != x.me)
  let block := s.xallBlock x
  let s := others.foldl (fun s p => s.modRod (x.rodBase + p) fun r => { r.arm s.clock block t with block := some block }) s
  others.foldl (fun s p => s.modRod (x.rodBase + x.src.nranks + p) fun r =>
    let peer := x.peers.getD p (0, 0)
    { r.open_ s.clock block t with
        block := some block, tdev := peer.1, tpart := peer.2, trod := (x.rodBase + x.me) % 2 ^ 14 }) s

def State.modXall (s : State) (id : Nat) (f : Xall → Xall) : State :=
  { s with xalls := s.xalls.map fun x => if x.id == id then f x else x }

/-- The ranges of a rank's local memory that hold a run of canonical bytes. -/
def Xall.srcRanges (x : Xall) (canon n : Nat) : List (Nat × Nat) := rangesOf (x.src.byteAddrs x.srcBase canon n)

/-- The beads toward a rank, their sources translated with the job's tables (R396). -/
def State.xallBeads (x : Xall) : List (Nat × Nat) → State → URes (List BeadSpec) × State
  | [], s => (.ok [], s)
  | (canon, n) :: t, s =>
    match State.mapRanges (unitName 9 x.id) x.die x.part x.job 0 (x.srcRanges canon n) s with
    | (.fail c, s) => (.fail c, s)
    | (.wait, s) => (.wait, s)
    | (.ok l, s) =>
      if l.any fun p => match paKind p.1 with
        | .peer _ => true
        | _ => false
      then (.fail stPerm, s)
      else match State.xallBeads x t s with
        | (.ok r, s) => (.ok (⟨canon, l⟩ :: r), s)
        | z => z

/-- The beads of every rank in sending order (R396). -/
def State.xallPlan (x : Xall) : List Nat → State → URes (List (Nat × List BeadSpec)) × State
  | [], s => (.ok [], s)
  | r :: t, s => match State.xallBeads x (x.src.pieces x.dst x.me r) s with
    | (.fail c, s) => (.fail c, s)
    | (.wait, s) => (.wait, s)
    | (.ok b, s) => match State.xallPlan x t s with
      | (.ok l, s) => (.ok ((r, b) :: l), s)
      | z => z

/-- The beads toward one rank stand with the endpoint, their beam after the last (R396). -/
def State.xallSend (s : State) (x : Xall) (p : Nat × List BeadSpec) : State :=
  let n := x.rodBase + x.src.nranks + p.1
  let r := s.rod n
  s.pushPut x.die n { rod := n, gen := r.gen, cmd := ⟨none, p.2⟩, beams := [(x.die, r.gen, p.2.length)] }

/-- The local part copied piece by piece (R396): done, failed, or waiting. -/
def State.xallLocal (x : Xall) : List (Nat × Nat) → State → URes Unit × State
  | [], s => (.ok (), s)
  | (canon, n) :: t, s =>
    match State.mapRanges (unitName 9 x.id) x.die x.part x.job 0 (x.srcRanges canon n) s with
    | (.fail c, s) => (.fail c, s)
    | (.wait, s) => (.wait, s)
    | (.ok l, s) =>
      if l.any fun p => match paKind p.1 with
        | .peer _ => true
        | _ => false
      then (.fail stPerm, s)
      else match (l.mapM fun p => s.readPoc p.1 p.2).map List.flatten with
        | none => (.fail stSeal, l.foldl (fun s p => s.noteLost x.part p.1) s)
        | some data => match s.xallWrite x canon data with
          | .written s => State.xallLocal x t s
          | .failed s => (.fail stSeal, s)
          | .dropped s => State.xallLocal x t s
          | .wait s => (.wait, s)

/-- XALL_START (R396, R444): with a layout-map engine of its die and the spacing of its rods, it arms its rods; then it reads its source
and hands the endpoint its beads; then it copies its local part. -/
def execXallStart (id : Nat) (s : State) : Out :=
  match s.xalls.find? fun x => x.id == id with
  | none => .next s
  | some x =>
    let busy := (s.xalls.filter fun y => y.die == x.die && y.started && !y.failed).length
    if x.failed then .next s
    else if !x.started then
      stepIf (decide (busy < 4) && decide (s.spacing x.rods ≤ s.clock)) (fun s =>
        ((s.armXall x).modXall id fun x => { x with started := true }).applyDeferred x.rods) s
    else if !x.sent then
      let n := x.src.nranks
      match State.xallPlan x ((List.range (n - 1)).map fun i => (x.me + 1 + i) % n) s with
      | (.wait, s) => .next s
      | (.fail _, s) => .next (s.failXall id)
      | (.ok plan, s) => .next ((plan.foldl (fun s p => s.xallSend x p) s).modXall id fun x => { x with sent := true })
    else if !x.localDone then
      match State.xallLocal x (x.src.pieces x.dst x.me x.me) s with
      | (.wait, s) => .next s
      | (.fail _, s) => .next (s.failXall id)
      | (.ok _, s) => .next (s.modXall id fun x => { x with localDone := true })
    else .next s

/-- Whether an XALL has finished on this device (R397). -/
def State.xallDone (s : State) (x : Xall) : Bool :=
  let others := (List.range x.src.nranks).filter (· != x.me)
  x.started && x.sent && x.localDone && !(s.puts.any fun p => x.rods.contains p.2.rod)
    && (others.all fun p => (s.rod (x.rodBase + p)).st == .done)
    && (others.all fun p => (s.rod (x.rodBase + x.src.nranks + p)).st == .open_)

/-- XALL_FINISH (R397, R460): its rods are parked, or after a failure they are in FAULT. -/
def execXallFinish (id : Nat) (s : State) : Out :=
  match s.xalls.find? fun x => x.id == id with
  | none => .next s
  | some x =>
    stepIf (x.failed || s.xallDone x) (fun s =>
      let (sig, val) := s.ownerSig x.owner
      let done := fun (s : State) (failed : Bool) =>
        let s := { s with
          xalls := s.xalls.filter (fun y => y.id != id)
          rods := s.rods.map fun _ (r : Rod) => if r.use == RodUse.xall id true then { r with use := RodUse.xall id false } else r }
        s.ownerDone x.owner x.part x.job x.phase failed
      match s.sigAct (unitName 9 id) x.die x.part x.job .xall sig x.failed val 0 with
      | (.wait, s) => s
      | (.done, s) => done s x.failed
      | (.lost, s) => done s true) s

end Sys2Proof.Machine
end

