-- ==== Sys2Proof/Machine/System.lean ====
section
/-! DEFINITION. The system instructions of page 5, supervisor access to parked contexts, and the steps that traps, the watchdog, the
event latch and the masked window take (R402 to R418). -/

namespace Sys2Proof.Machine

/-- MASKLEN (R413): the next instruction of a context whose window has been open for 64 µs traps instead of executing. -/
def execMasklen (core ctx : Nat) (s : State) : Host.Outcome State Fault Refusal :=
  let x := s.ctx core ctx
  stepIf (x.st == .running && x.maskLate s.clock) (fun s => s.trapAt core ctx tMasklen 0#64 x.pc) s

/-- UNDEF (R109, R111): a chain that names no instruction traps at decode. -/
def execUndef (cause : UndefCause) (s : State) : Host.Outcome State Fault Refusal :=
  finish (match cause with
    | .illegal => trapM tIllegal
    | .pfx => trapM tPrefix) s

/-- A masked window that has reached a limit traps MASKLEN in place of its next instruction (R413). -/
def State.maskTrap (s : State) : Host.Outcome State Fault Refusal := finish (trapM tMasklen) s

/-- A trap that an instruction takes as its effect: the flags that came with what it popped enter FPFLAGS, since it is not executed
again (R182, R404, R410). -/
def trapAfter (cause a : Nat) : M Unit := do
  let v ← operands .none (.src a) .none
  modify fun s => if s.cur.flags = [] then s else s.noteFlags s.cur.core s.cur.ctx (allFlags s.cur.flags)
  trapM cause v.a

/-- TRAP (R410). -/
def execTrap (a : Nat) (s : State) : Out := finish (trapAfter tTrap a) s

/-- SYSCALL (R410). -/
def execSyscall (a : Nat) (s : State) : Out := finish (trapAfter tSyscall a) s

/-- BKPT (R410). -/
def execBkpt (s : State) : Out := finish (trapM tBkpt) s

/-- The core, the place and the park sequence of a target word (R403). -/
def targetCore (w : Word) : Nat := wbits w 11 0
@[inherit_doc targetCore] def targetCtx (w : Word) : Nat := wbits w 15 12
@[inherit_doc targetCore] def targetSeq (w : Word) : Nat := wbits w 23 16

/-- The status of a command to the context that a target word names, by the core it comes from (R408): 2 NOTOWNED, 1 NOTPARKED, 0 where
the target may be acted on. -/
def State.targetStatus (s : State) (core : Nat) (w : Word) : Nat :=
  let x := s.ctx (targetCore w) (targetCtx w)
  if s.partOf (targetCore w) ≠ s.partOf core then 2
  else if x.st ≠ .parked ∨ x.pseq ≠ targetSeq w then 1
  else 0

/-- The word at an address of a target's code, as a fetch with its translation finds it (R95, R96, R411): from the core's fetch buffer, the
cluster's cache, memory or a peer. SRET waits for a walk and for a peer's answer; none where the word cannot be fetched, which traps nobody. -/
def skipWord (core : Nat) (x : Ctx) (va : Nat) : M (Option Half) := do
  let s ← get
  match (s.core core).codeWord x.part x.job va with
  | some w => return some w
  | none =>
    if !inGlobal va then return none
    let half := fun (pa : Nat) (b : List Byte) => BitVec.ofNat 16 (fieldAt b (pa % 64) 2)
    match s.unitXlate (unitName 16 (s.cur.core * 2 ^ 20 + s.cur.ctx)) (dieOf core) (some (clusterOf core)) x.part x.job va 2 with
    | (.wait, t) =>
      set t
      blockM .backPressure
    | (.fail _, t) =>
      set t
      return none
    | (.ok e, t) =>
      set t
      let pa := e.phys va
      match paKind pa with
      | .invalid => return none
      | .peer _ => match t.reachPeer pa with
        | none => return none
        | some p =>
          if p.isol && ((← getMe).asked (2 ^ 65 + lineOf pa)).isNone then
            set (t.epDrop (dieOf core) EpDrop.addIsolated)
            return none
          let a ← awaitAnswer (2 ^ 65 + lineOf pa) (do
            let s ← get
            let tag := s.serial
            set (s.askPeer (dieOf core) x.part p.ep (.load s.cur.core s.cur.ctx va 64) fun q => .readreq q x.part (peerAddr (lineOf pa * 64)) 64)
            return tag)
          match a with
          | .bytes b => return some (half pa b)
          | _ => return none
      | _ =>
        if t.cached core e && t.lineBusy (clusterOf core) (lineOf pa) then blockM .backPressure
        let b := if t.cached core e then (t.cacheLine (clusterOf core) (lineOf pa) x.part).map (·.1) else t.readPoc (lineOf pa * 64) 64
        if b.isNone then set (t.noteLost x.part pa)
        return b.map (half pa)

/-- The words that SKIP counts, at most n of them, where they are at hand (R411). -/
def skipCount (word : Nat → Option Half) : Nat → Nat → Nat
  | 0, _ => 0
  | n + 1, va => match word va with
    | none => 1
    | some w => if w.toNat / 2 ^ 11 ≠ 31 ∨ w = 0xFFFF#16 then 1 else 1 + skipCount word n (va + 2)

/-- The words that SKIP counts in a target's code, at most n of them (R411). -/
def skipLen (core : Nat) (x : Ctx) : Nat → Nat → M Nat
  | 0, _ => return 0
  | n + 1, va => do
    match ← skipWord core x va with
    | none => return 1
    | some w => if w.toNat / 2 ^ 11 ≠ 31 ∨ w = 0xFFFF#16 then return 1 else return 1 + (← skipLen core x n (va + 2))

/-- An acquire at device scope by a context that goes on (R411). -/
def State.acquireNow (s : State) (core ctx : Nat) : State := s.modCtx core ctx fun x => { x with acqStamp := s.clock }

/-- The return from a trap (R404, R411): RESUME at the resume PC, with the port latch where the trapping instruction runs again; SKIP
past its n words; or TERMINATE. -/
def State.returnFrom (s : State) (core ctx mode n : Nat) : State :=
  let x := s.ctx core ctx
  match mode with
  | 0 => (s.resumeAt core ctx x.rpc (x.rpc == x.pc)).acquireNow core ctx
  | 1 => (s.resumeAt core ctx (x.trappc + wd (2 * n)) false).acquireNow core ctx
  | _ => s.terminate core ctx

/-- SRET (R411). -/
def execSret (d a b : Nat) (s : State) : Out :=
  finish (do
    needLevel .supervisor
    let v ← operands (.dst d) (.src a) (.src b)
    awaitRelease 4
    let s ← get
    let mode := wbits v.b 1 0
    let st := s.targetStatus s.cur.core v.a
    if st ≠ 0 then writeX d (wd st)
    else if mode = 3 then writeX d 3#64
    else
      let x := s.ctx (targetCore v.a) (targetCtx v.a)
      let n ← if mode = 1 then skipLen (targetCore v.a) x 5 x.trappc.toNat else pure 0
      modify fun s => s.returnFrom (targetCore v.a) (targetCtx v.a) mode n
      writeX d 0#64) s

/-- Bits [64q + 63 : 64q] of a mask register, and their writing. -/
def maskPart (m : Mask) (q : Nat) : Word := m.extractLsb' (64 * q) 64
@[inherit_doc maskPart] def putMaskPart (m : Mask) (q : Nat) (v : Word) : Mask :=
  (m &&& ~~~BitVec.ofNat 256 ((2 ^ 64 - 1) * 2 ^ (64 * q))) ||| BitVec.ofNat 256 (v.toNat * 2 ^ (64 * q))

/-- Bytes [8w + 7 : 8w] of a row, and their writing. -/
def rowPart (r : Row) (w : Nat) : Word := r.extractLsb' (64 * w) 64
@[inherit_doc rowPart] def putRowPart (r : Row) (w : Nat) (v : Word) : Row :=
  (r &&& ~~~BitVec.ofNat 2048 ((2 ^ 64 - 1) * 2 ^ (64 * w))) ||| BitVec.ofNat 2048 (v.toNat * 2 ^ (64 * w))

/-- What a selector of TCMD names in a target (R407). -/
inductive Sel where
  | reg (n : Nat)
  | mask (n q : Nat)
  | rpc
  | special (n : Nat)
  | row (n w : Nat)
  deriving DecidableEq, Repr

/-- The state that SEL selects, none where it is BADSEL for any access (R407). -/
def Ctx.sel (x : Ctx) (n : Nat) : Option Sel :=
  if 0x001 ≤ n ∧ n ≤ 0x017 then (if n < x.alloc then some (.reg n) else none)
  else if 0x020 ≤ n ∧ n < 0x040 then some (.mask ((n - 0x020) / 4) (n % 4))
  else if n = 0x040 then some .rpc
  else if 0x100 ≤ n ∧ n ≤ 0x113 then some (.special (n - 0x100))
  else if 0x1000 ≤ n then (if (n - 0x1000) / 32 < x.rows then some (.row ((n - 0x1000) / 32) (n % 32)) else none)
  else none

/-- The value of selected state. -/
def State.readSel (s : State) (core ctx : Nat) (e : Sel) : Word :=
  let x := s.ctx core ctx
  match e with
  | .reg n => x.reg n
  | .mask n q => maskPart (x.mask n) q
  | .rpc => x.rpc
  | .special n => s.special core ctx n
  | .row n w => rowPart ((s.core core).row (x.rowIdx x.vbase n)) w

/-- Selected state written, none where the write is BADSEL (R407, R408). -/
def State.writeSel (s : State) (core ctx : Nat) (e : Sel) (v : Word) : Option State :=
  let x := s.ctx core ctx
  match e with
  | .reg n => some (s.setCtx core ctx (x.setReg n v false))
  | .mask n q => some (s.setCtx core ctx (x.setMask n (putMaskPart (x.mask n) q v)))
  | .rpc => if wbit v 0 then none else some (s.setCtx core ctx { x with rpc := v })
  | .special n =>
    if specialRO n then none
    else match x.putSpecial n v with
      | .ok y => some (s.setCtx core ctx y)
      | .error _ => none
  | .row n w => some (s.modCore core fun k =>
      let i := x.rowIdx x.vbase n
      k.setRow i (putRowPart (k.row i) w v))

/-- TCMD as it holds a finished command: its selector and the status (R407). -/
def tcmdDone (t : BitVec 17) (status : Nat) : BitVec 17 := BitVec.ofNat 17 (t.toNat % 2 ^ 13 + status * 2 ^ 14)

/-- A command of a supervisor context takes effect (R408): a refused or BADSEL command reads and changes nothing. -/
def State.command (s : State) (core ctx : Nat) (write : Bool) : State :=
  let x := s.ctx core ctx
  let w := wd x.tsel.toNat
  let c := targetCore w
  let n := targetCtx w
  let fin := fun (s : State) (st : Nat) (data : Option Word) =>
    s.modCtx core ctx fun x => { x with tcmd := tcmdDone x.tcmd st, tdata := data.getD x.tdata }
  match s.targetStatus core w with
  | 0 => match (s.ctx c n).sel (x.tcmd.toNat % 2 ^ 13) with
    | none => fin s 3 none
    | some e =>
      if write then match s.writeSel c n e x.tdata with
        | some t => fin t 0 none
        | none => fin s 3 none
      else fin s 0 (some (s.readSel c n e))
  | st => fin s st none

/-- The command that a context has sent with an SWR to TCMD and that has not been answered. -/
def Ctx.commandOpen (x : Ctx) (write : Bool) : Option Pending :=
  (x.asked 0x132).filter fun p => p.ans.isNone && x.tcmd.getLsbD 13 == write

/-- A command's turn: its effect, and the answer that lets the supervisor context go on. -/
def tcmdStep (core ctx : Nat) (write : Bool) (s : State) : Out :=
  match (s.ctx core ctx).commandOpen write with
  | none => .next s
  | some p => .next ((s.command core ctx write).answer core ctx p.id (.word 0#64))

/-- TCMD_READ (R408). -/
def execTcmdRead (core ctx : Nat) (s : State) : Out := tcmdStep core ctx false s

/-- TCMD_WRITE (R408). -/
def execTcmdWrite (core ctx : Nat) (s : State) : Out := tcmdStep core ctx true s

/-- SWR to a privileged register (R39, R184, R250, R407, R408): a write to an RC register is ignored. -/
def swrPrivileged (sr : Nat) (v : Word) : M Unit :=
  match sr with
  | 0x122 =>
    if wbit v 28 then do
      let n := wbits v 27 24
      let _ ← awaitAnswer (0x12200 + n) (do
        modify fun s => s.modMyCore fun k => { k with discards := k.discards ++ [n] }
        let (id, s) := (← get).fresh
        set s
        return id)
      return
    else pure ()
  | 0x130 => modMe fun x => { x with tsel := v.setWidth 24 }
  | 0x131 => modMe fun x => { x with tdata := v }
  | 0x132 => do
    let _ ← awaitAnswer 0x132 (do
      modMe fun x => { x with tcmd := BitVec.ofNat 17 (v.toNat % 2 ^ 14) }
      let (id, s) := (← get).fresh
      set s
      return id)
    return
  | _ => pure ()

/-- SWR (R125, R412). Where the source pops a flagged result of q7, the flags that it latches are raised like any (R182), although R183 lets
no SWR to FPFLAGS or FPCTL raise any: an enabled one traps FPE ahead of the write, and the others enter FPFLAGS after it. Mark: DESIGN CHOICE
(log entry 116). -/
def execSwr (a sr : Nat) (s : State) : Out :=
  finish (do
    checkSpecial sr true
    let v ← operands .none (.src a) .none
    if sr < 0x14 then
      match (← getMe).putSpecial sr v.a with
      | .ok x => setMe x
      | .error c => trapM c
    else swrPrivileged sr v.a) s

/-- MASKW (R413). -/
def execMaskw (s : State) : Out :=
  finish (do
    let x ← getMe
    guardM x.masked.isSome tMasklen
    setMe { x with masked := some ⟨0, (← get).clock⟩ }) s

/-- UNMASKW (R413). -/
def execUnmaskw (s : State) : Out := finish (modMe fun x => { x with masked := none }) s

/-- Whether a page range [va, va + len) meets the range that TLBI names; a length of zero names every address (R414). -/
def tlbiMeets (a n va len : Nat) : Bool := decide (n = 0) || (decide (va < a + n) && decide (a < va + len))

/-- The stage-1 translations of a job for a range are gone from every cluster of its partition, stalled walks of the range begin again,
and the side logs retry its pages (R243, R248, R414). -/
def State.invalidate (s : State) (part job a n : Nat) : State :=
  let keep := fun (e : TlbEnt) => !(e.part == part && e.job == job && tlbiMeets a n e.va (2 ^ e.bits))
  let s := { s with clusters := s.clusters.map fun _ k =>
    if k.valid && k.part == part then { k with tlb := k.tlb.filter keep } else k }
  let s := s.walks.foldl (fun s w => match w.st with
    | .stalled t => if w.part = part ∧ w.job = job ∧ tlbiMeets a n (w.page * 2 ^ 16) (2 ^ 16) then s.runWalk w t false else s
    | _ => s) s
  let pages := (s.cores.flatMap fun p => (p.2.log.filter fun e =>
    e.part == part && e.job == job && tlbiMeets a n (pageOf e.va * 2 ^ 16) (2 ^ 16)).map fun e => pageOf e.va).eraseDups
  pages.foldl (fun s p => s.replayPage part job p) s

/-- TLBI (R414). -/
def execTlbi (a b : Nat) (s : State) : Out :=
  finish (do
    needLevel .supervisor
    let v ← operands .none (.src a) (.src b)
    awaitRelease 4
    modify fun s => s.invalidate s.me.part s.me.job v.a.toNat v.b.toNat) s

/-- KEYLD (R261, R415). -/
def execKeyld (d a b : Nat) (s : State) : Out :=
  finish (do
    needLevel .firmware
    let v ← operands (.dst d) (.src a) (.src b)
    let s ← get
    if v.b.toNat % 8 ≠ 0 then trapM tAlign v.b
    if v.b ≠ 0#64 ∧ s.steer s.cur.core s.me v.b.toNat 32 ≠ some .scratch then trapM tAperture v.b
    let n := wbits v.a 5 0
    if (s.seals.cmd.any fun c => c.2 == n) then blockM .rekey
    if wbits v.a 63 6 ≠ 0 then writeX d 2#64
    else if (s.kslot n).tiles ≠ 0 then writeX d 1#64
    else
      let key := if v.b = 0#64 then [] else s.localBytes s.cur.core s.me .scratch v.b.toNat 32
      set (s.modKslot n fun k => { k with loaded := v.b != 0#64, key := key })
      writeX d 0#64) s

/-- A bit of a firmware core's event latch is set (R416). -/
def State.setLatch (s : State) (core bit : Nat) : State :=
  s.modCore core fun k => { k with latch := k.latch ||| wd (2 ^ bit) }

/-- The column cores, and those of a role (R70, R447). -/
def State.columnCores (s : State) : List Nat := (List.range 4096).filter s.isFw
@[inherit_doc State.columnCores] def State.coresOfRole (s : State) (role : Nat) : List Nat :=
  s.columnCores.filter fun c => s.roleOf c == role

/-- A latch bit set on several cores. -/
def State.setLatches (s : State) (cores : List Nat) (bit : Nat) : State := cores.foldl (fun s c => s.setLatch c bit) s

/-- WAITEV (R416). The microseconds to wait name the request, which WAITEV_TIMEOUT answers. -/
def execWaitev (d a b : Nat) (s : State) : Out :=
  finish (do
    needLevel .firmware
    let v ← operands (.dst d) (.src a) (.src b)
    let s ← get
    let m := s.myCore.latch &&& v.a
    if m ≠ 0#64 then
      set (s.modMyCore fun k => { k with latch := k.latch &&& ~~~m })
      writeX d m
    else if (s.me.pend.any fun p => p.ans.isSome) then writeX d 0#64
    else
      modMe fun x => { x with waitAt := some (x.waitAt.getD s.clock), pend := [⟨0, v.b.toNat, none⟩] }
      blockM (.event v.a)) s

/-- WAITEV_TIMEOUT (R416): a WAITEV whose microseconds have passed since its issue returns 0. -/
def execWaitevTimeout (core ctx : Nat) (s : State) : Out :=
  let x := s.ctx core ctx
  let waits := match x.why with
    | some (.event _) => x.st == .blocked
    | _ => false
  let due := x.pend.any fun p => decide (p.key ≠ 0) && (x.waitAt.any fun t => decide (t + Config.us p.key ≤ s.clock))
  stepIf (waits && due) (fun s =>
    s.setCtx core ctx { x.goOn with pend := x.pend.map fun p => { p with ans := some (.word 0#64) } }) s

/-- EVENT_TICK (R416): every 100 µs a firmware core's tick comes. -/
def execEventTick (core : Nat) (s : State) : Out :=
  stepIf (s.isFw core && decide (core < 4096) && decide ((s.core core).tickAt + Config.us 100 ≤ s.clock)) (fun s =>
    (s.modCore core fun k => { k with tickAt := k.tickAt + Config.us 100 }).setLatch core 0) s

/-- A core's issue stops or goes on; run timers do not count while it is halted (R417). -/
def State.haltCore (s : State) (core : Nat) (on : Bool) : State :=
  let now := s.clock
  let f := fun (_ : Nat) (x : Ctx) =>
    if on then x.stopTimer now
    else if (x.st == .running || x.st == .blocked) && x.runAt.isNone then { x with runAt := some now } else x
  s.modCore core fun k => { k with halted := on, ctxs := k.ctxs.map f }

/-- HALTC (R417). -/
def execHaltc (d a : Nat) (s : State) : Out :=
  finish (do
    needLevel .firmware
    let v ← operands (.dst d) (.src a) .none
    let core := wbits v.a 11 0
    if (← get).isFw core then writeX d 1#64
    else
      modify fun s => s.haltCore core (wbit v.a 12)
      writeX d 0#64) s

/-- The cycles that a context's run timer has counted (R418). -/
def Ctx.ran (x : Ctx) (now : Nat) : Nat := x.runUsed + (x.runAt.map fun t => now - t).getD 0

/-- The limit of a context's run timer in cycles, 0 for none (R418). -/
def State.runLimit (s : State) (x : Ctx) : Nat :=
  let w := (s.part x.part).wdpol
  if x.pri then Config.us (wbits w 15 0) else Config.ms (wbits w 31 16)

/-- WATCHDOG (R418): the microseconds counted are in TRAPADDR. -/
def execWatchdog (core ctx : Nat) (s : State) : Out :=
  let x := s.ctx core ctx
  let limit := s.runLimit x
  stepIf ((x.st == .running || x.st == .blocked) && decide (ctx < 16) && decide (limit ≠ 0) && decide (limit ≤ x.ran s.clock)) (fun s =>
    (s.dropAsks core ctx).trapAt core ctx tWatchdog (wd (x.ran s.clock / Config.cyclesPerUs)) x.pc) s

/-- The codes that CAUSE of PRESET takes: a trap code of R402, TRAPLOST or a request (R402, R419). -/
def presetCodes : List Nat :=
  [tIllegal, tPrefix, tPriv, tRegbound, tRowbound, tAlign, tAperture, tPage, tPerm, tSeal, tFpe, tMasklen, 0x0D, tSigabort, tQueue, tRing, tFmt,
    tRod, tFlow, tGraph, tBkpt, tTrap, tSyscall, tWatchdog, tCancelled, tOverflowring, tGather, tLoopseq, 0x40, 0x41]

/-- PARKLIM (R418, R419): which of its codes CAUSE of PRESET then shows is not given, a free value. -/
def execParklim (core ctx : Nat) (s : State) : Out :=
  let x := s.ctx core ctx
  let limit := Config.ms (wbits (s.part x.part).wdpol 47 32)
  let due := x.st == .parked && !s.isFw core && decide (limit ≠ 0) && decide (x.parkedAt + limit ≤ s.clock)
    && !(s.pfaults.any fun p => p.1 == x.part)
  stepIf due (fun s =>
    let (w, s) := s.draw
    { s with pfaults := s.pfaults ++ [(x.part, presetCodes.getD (w.toNat % 30) 0x40)] }) s

end Sys2Proof.Machine
end

