-- ==== Sys2Proof/Machine/Reset.lean ====
section
/-! DEFINITION. Partition reset: what it discards, and the rewinding of command queues (R354, R419 to R421). -/

namespace Sys2Proof.Machine

/-- A core of a partition as its reset leaves it: contexts FREE, reservations released, regions and rows zero, and the format context
at its reset value (R295, R420). -/
def Core.purge (k : Core) (part : Nat) (owned : Bool) : Core :=
  let mine := k.resvs.filter fun r => r.part == part
  let here := fun (n : Nat) => (k.ctxs.find n).any fun x => x.part == part
  let sp := mine.foldl (fun m r => m.clear r.spBase (r.spBytes + r.spots.length * r.stkBytes)) k.sp
  let inRows := fun (n : Nat) => mine.any fun r => decide (r.rowBase ≤ n) && decide (n < r.rowBase + r.spots.length * r.rows)
  { k with
    ctxs := k.ctxs.filter (fun p => p.2.part != part)
    resvs := k.resvs.filter (fun r => r.part != part)
    sp := sp
    rows := k.rows.filter (fun p => !inRows p.1)
    hq := k.hq.filter (fun q => q.msg.dpart != part)
    lq := k.lq.filter (fun q => q.msg.dpart != part)
    held := k.held.filter (fun m => m.dpart != part)
    streams := k.streams.filter (fun p => p.2.part != part)
    log := k.log.filter (fun e => e.part != part)
    fmt := if owned then {} else k.fmt
    mx := k.mx.filter (fun p => !here p.1)
    lsLast := k.lsLast.filter (fun p => !here p.1)
    runs := k.runs.filter (fun p => p.2.part != part)
    save := k.save.filter fun p => p.1 != part }

/-- The engines of a cluster without the commands and cooperations of a partition; what a column core's firmware gave them, which is of no
partition, stays (R73, R321, R420). -/
def Cluster.purge (k : Cluster) (part : Nat) (fw : Nat → Bool) : Cluster :=
  { k with copies := k.copies.filter (fun r => r.part != part || fw r.core)
           mx := k.mx.filter (fun p => p.2.part != part || fw p.1)
           coops := k.coops.filter fun p => p.2.part != part || p.2.members.any fun m => fw m.1 }

/-- Whether a request outlives its partition's reset: the stores and atomics that its contexts had already sent on. -/
def PocReq.outlives (r : PocReq) : Bool :=
  let own := match r.origin with
    | .ctx _ _ => true
    | .cache _ => true
    | _ => false
  own && (match r.op with
    | .write _ => true
    | .full _ => true
    | .amo _ _ _ _ _ => true
    | _ => false)

/-- A rod after its partition's reset: in quarantine, a graph's rod still in graph role (R354). -/
def Rod.release (r : Rod) (now : Nat) : Rod :=
  { r with st := .quarantine, quarUntil := now + Config.ms 2, repeats := [], flagdue := false, rearm := false, list := [], block := none,
           use := match r.use with
             | .graph k i => .graph k i
             | _ => .program }

/-- A sender that no longer exists hears of nothing. -/
def Sender.orphan (who : Sender) (gone : Nat → Nat → Bool) : Sender :=
  match who with
  | Sender.ctx core n => if gone core n then .hw else who
  | _ => who

/-- Whether a request to a peer is a column core's, whose firmware is of no partition (R73). -/
def State.fwReq (s : State) (r : PeerReq) : Bool :=
  match r with
  | .load c _ _ _ => s.isFw c
  | .atomic c _ _ _ _ => s.isFw c
  | .fetch c _ _ _ => s.isFw c
  | .getr id _ _ => s.getrs.any fun g => g.id == id && s.isFw g.core
  | .copy cl id _ _ => (s.cluster cl).copies.any fun c => c.id == id && s.isFw c.core
  | _ => false

/-- Whether a request at a seal engine, or a walk, is a column core's (R73). -/
def State.fwPoc (s : State) (r : PocReq) : Bool :=
  match r.origin with
  | .ctx core _ => s.isFw core
  | .copy cl id => (s.cluster cl).copies.any fun c => c.id == id && s.isFw c.core
  | _ => false
@[inherit_doc State.fwPoc] def State.fwWalk (s : State) (w : Walk) : Bool :=
  w.reqs.any fun r => match r.asker with
    | .ctx core _ => s.isFw core
    | .fetch core _ => s.isFw core
    | .pref core _ => s.isFw core
    | .unit _ => false

/-- The messages of a partition that its reset drops, each with the core whose NI holds it or that it was on the way to: in queues and
overflow rings, on the mesh, in reorder buffers and at ports (R420). -/
def State.doomed (s : State) (part : Nat) : List (Nat × Msg) :=
  let held := s.cores.flatMap fun p => if s.isFw p.1 then []
    else ((p.2.hq ++ p.2.lq ++ p.2.resvs.flatMap (·.ringQ)).map (·.msg) ++ p.2.held.toList).map fun m => (p.1, m)
  let moving := (s.mesh.filter fun f => !s.isFw f.core).map fun f => (f.core, f.msg)
  let pkts := (s.reorder.map fun e => (e.die, e.pkt)) ++ s.held.map fun h => ((if h.1 < 16 then h.1 / 4 else (h.1 - 16) % 4), h.2)
  let early := pkts.filterMap fun p => match p.2.body with
    | .message m => some (1024 * p.1, m)
    | _ => none
  (held ++ moving ++ early).filter fun p => p.2.dpart == part

/-- What R420 discards of a partition, its command queues and its jobs apart. -/
def State.discard (s : State) (part : Nat) : State :=
  let owns := fun (core : Nat) => s.partOf core == some part
  let gone := fun (core ctx : Nat) => !s.isFw core && (if 2 ^ 40 ≤ ctx then (ctx - 2 ^ 40) / 2 ^ 20 == part else (s.ctx core ctx).part == part)
  let rodOf := fun (n : Nat) => (s.rod n).part == part
  let rids := (s.running.filter fun r => r.part == part).map (·.id)
  let stuck := fun (m : Msg) (core : Nat) => m.dpart == part && !s.isFw core
  let drop := fun (r : PocReq) => r.part == part && !r.outlives && !s.fwPoc r
  let orphan := fun (r : PocReq) => match r.origin with
    | Origin.ctx core n => if gone core n then { r with origin := .none_ } else r
    | _ => r
  let reset := fun (_ : Nat) (r : Rod) =>
    if r.part == part && r.st != .quarantine && (r.st != .free || r.use != .program) then r.release s.clock else r
  let void := fun (v : SavedJob) => if v.part == part then { v with void := true, cores := [] } else v
  let stop := fun (q : Preq) => if q.part == part && q.busy then { q with busy := false, fail := false, op := 0 } else q
  let freedNow := (s.launches.filter fun l => l.key.part == part).map fun l =>
    (⟨part, false, l.key.lid, l.key.lgen, s.clock⟩ : FreedId)
  let freedRec := fun (r : RecvRec) => r.part == part || (r.cls != .atomic && owns r.core)
  let clearPhase := fun (p : Phase) => if p.part == part then { p with members := 0, marked := false } else p
  { s with
    cores := s.cores.map fun c k => if s.isFw c then k else k.purge part (owns c)
    clusters := s.clusters.map fun _ k => k.purge part s.isFw
    dies := s.dies.map fun _ d => { d with preq := stop d.preq }
    parts := s.parts.set part { s.part part with flagor := 0#5 }
    phases := s.phases.map clearPhase
    freed := s.freed ++ freedNow
    launches := s.launches.filter fun l => l.key.part != part
    seedings := s.seedings.filter fun z => z.key.part != part
    mesh := (s.mesh.filter fun f => !stuck f.msg f.core).map fun f => { f with sender := f.sender.orphan gone }
    acks := (s.acks ++ (s.mesh.filter fun f => stuck f.msg f.core).map (·.sender)).map fun w => w.orphan gone
    readAhead := s.readAhead.filter fun r => r.1.part != part
    placing := s.placing.filter fun p => p.part != part
    running := s.running.filter fun r => r.part != part
    watches := s.watches.filter fun w => !rids.contains w.rid
    poc := (s.poc.filter fun r => !drop r).map orphan
    walks := s.walks.filter fun w => w.part != part || s.fwWalk w
    rods := s.rods.map reset
    puts := s.puts.filter fun p => !rodOf p.2.rod
    flows := s.flows.filter fun p => !owns p.1
    recvs := s.recvs.filter fun r => !freedRec r
    reorder := s.reorder.filter fun p => match p.pkt.body with
      | .message m => m.dpart != part
      | .atomic _ _ _ dpart _ _ _ _ _ _ => dpart != part
      | .flowclose score flow cls _ => !(s.recvs.any fun r => freedRec r && r.named p.pkt.sdev score flow cls)
      | _ => true
    waits := s.waits.filter fun w => s.reqPart w.req != part || s.fwReq w.req
    ureads := s.ureads.filter fun u => !(s.waits.any fun w => match w.req with
      | .read name p _ _ _ _ => name == u.name && p == part
      | _ => false)
    getrs := s.getrs.filter fun g => g.part != part || s.isFw g.core
    deferred := s.deferred.filter fun d => !rodOf d.rod
    held := s.held.filter fun p => match p.2.body with
      | .message m => m.dpart != part
      | .store dpart _ _ => dpart != part
      | .atomic _ _ _ dpart _ _ _ _ _ _ => dpart != part
      | _ => true
    graphs := s.graphs.map fun g => if g.key.part == part then { g with inst := none } else g
    xalls := s.xalls.filter fun x => x.part != part
    saves := s.saves.map void
    seals := { s.seals with sigEnds := s.seals.sigEnds.filter fun e => e.part != part }
    pfaults := s.pfaults.filter fun p => p.1 != part }

/-- A partition's reset up to its command queues: its messages are dropped with a count as STALE, and all that R420 names is discarded (R38,
R420). Mark: DESIGN CHOICE (log entry 119). -/
def State.purge (s : State) (part : Nat) : State :=
  ((s.doomed part).foldl (fun s p => s.loseMsg p.1 .stale p.2) s).discard part

/-- The read index of a queue's last fence record, none inside where there is none, it cannot be read, or the span exceeds the ring; and none
at all while its translation waits for the memory master (R245, R421). -/
def State.rewindTo (s : State) (q : RQueue) : Option (Option Nat) × State :=
  if q.fencerec = 0 ∨ q.recorded = false then (some none, s)
  else match s.unitXlate (queueName q.key) q.die none q.key.part q.key.job q.fencerec 0 with
    | (.wait, s) => (none, s)
    | (.fail _, s) => (some none, s)
    | (.ok e, s) => match s.readPoc (e.phys q.fencerec) 32, s.readOwn (q.entry + 32) 8 with
      | some b, some w =>
        let f := fieldAt b 0 8
        (some (if (leNat w + (2 ^ 64 - f)) % 2 ^ 64 ≤ 2 ^ q.log2 then some f else none), s)
      | _, _ => (some none, (s.noteLost q.key.part (e.phys q.fencerec)).noteLost q.key.part q.entry)

/-- A command queue after its partition's reset: at its last fence record where there is one, and STOPPED (R421). -/
def RQueue.rewound (q : RQueue) (n : Option Nat) : RQueue :=
  { q with ridx := n.getD q.ridx, kmax := n.getD q.kmax, st := .stopped, ready := [], granted := false, short := false, pollAt := none, deficit := 0 }

/-- A command queue of a partition that is reset goes back, where it is resident or else in its entry; true when it has (R420, R421). An
entry that cannot be read, or that is no command queue's, stays as it is. -/
def State.rewind (s : State) (key : QKey) : Bool × State :=
  match s.queue key, s.job key.part key.job with
  | some q, _ => match s.rewindTo q with
    | (none, s) => (false, s)
    | (some n, s) => (true, s.modQueue key fun q => q.rewound n)
  | none, none => (true, s)
  | none, some j => match s.readEntry key j 0 with
    | (.wait, s) => (false, s)
    | (.fail _, s) => (true, s)
    | (.ok (pa, b), s) =>
      if entryKind b ≠ 1 then (true, s)
      else
        let q := queueOf key 0 pa b []
        match s.rewindTo q with
        | (none, s) => (false, s)
        | (some n, s) => (true, s.swapOut (q.rewound n))

/-- Queues that go back, and those of them whose turn is not over. -/
def State.rewindSome : List QKey → State → List QKey × State
  | [], s => ([], s)
  | k :: t, s =>
    let (done, s) := s.rewind k
    let (l, s) := State.rewindSome t s
    (if done then l else k :: l, s)

/-- The command queues of a partition, the resident ones and every place of its jobs' tables. -/
def State.rewindKeys (s : State) (part : Nat) : List QKey :=
  ((s.queues.filter fun q => q.key.part == part && !q.work).map (·.key)) ++
    (s.jobs.filter fun j => j.desc.part == part).flatMap fun j =>
      ((List.range j.desc.qtlen).map fun h => (⟨part, j.desc.job, h⟩ : QKey)).filter fun k => (s.queue k).isNone

/-- The fault and reset handlers: the lowest core of the role on each die (R447). -/
def State.faultHandlers (s : State) : List Nat := (List.range 4).filterMap fun d => s.roleCore roleFault (some d)

/-- The rest of a partition reset: its queues go back, and with the last of them BUSY clears and latch bit 5 is set (R420, R421). -/
def State.resetQueues (s : State) (r : PartReset) : State :=
  let (left, s) := State.rewindSome r.left s
  let others := s.resets.filter fun q => q.part != r.part
  if left ≠ [] then { s with resets := others ++ [{ r with left := left }] }
  else
    let done := s.presetBusy && s.presetPart == r.part
    { s.unshort with resets := others, presetBusy := s.presetBusy && !done, presetCause := r.cause }.setLatches s.faultHandlers 5

/-- A partition reset in the order of R420. Its queues stop at once. -/
def State.resetPart (s : State) (part cause : Nat) : State :=
  let s := s.purge part
  let s := { s with queues := s.queues.map fun (q : RQueue) => if q.key.part == part && !q.work then q.stop else q }
  s.resetQueues ⟨part, cause, s.rewindKeys part⟩

/-- The cause of a reset that is due: a partition fault, or a request in PRESET (R419). -/
def State.resetCause (s : State) (part : Nat) : Option Nat :=
  match s.pfaults.find? fun p => p.1 == part with
  | some p => some p.2
  | none => if s.presetBusy && s.presetPart == part then some 0x41 else none

/-- PARTITION_RESET (R419 to R421): it begins, or goes on with the queues whose translations waited for the memory master. -/
def execPartitionReset (part : Nat) (s : State) : Out :=
  match s.resets.find? fun r => r.part == part with
  | some r => .next (s.resetQueues r)
  | none => match s.resetCause part with
    | some c => .next (s.resetPart part c)
    | none => .next s

end Sys2Proof.Machine
end

