-- ==== Sys2Proof/Machine/Preempt.lean ====
section
/-! DEFINITION. Pre-emption: live-range tables, checkpoints, full saves, and the saving and restoring of a job (R413, R422 to R427). -/

namespace Sys2Proof.Machine

/-- A range of a live-range table (R426): KIND, START and LENGTH. -/
abbrev LiveRange := Nat × Nat × Nat

/-- An entry of a live-range table (R426). -/
def liveRange (e : Nat) : LiveRange := (e % 4, e / 2 ^ 8 % 2 ^ 24, e / 2 ^ 32 % 2 ^ 24)

/-- A range that makes a table malformed, under the reservation and the allocation of its context (R426). -/
def liveBad (r : Resv) (x : Ctx) (e : LiveRange) : Bool :=
  let (kind, start, len) := e
  match kind with
  | 0 => decide (start % 8 ≠ 0) || decide ((start + len) % 8 ≠ 0) || decide (r.spBytes < start + len)
  | 1 => decide (start % 8 ≠ 0) || decide ((start + len) % 8 ≠ 0) || decide (r.stkBytes < start + len)
  | 2 => decide (x.rows < start + len)
  | _ => decide (start = 0) || decide (x.alloc < start + len)

/-- Whether a range of a kind holds a byte, a row or a register. -/
def liveHas (l : List LiveRange) (kind n : Nat) : Bool :=
  l.any fun e => e.1 == kind && decide (e.2.1 ≤ n) && decide (n < e.2.1 + e.2.2)

/-- The table at an address, read as a load (R424, R426). -/
def readLive (a : Word) (tainted : Bool) : M (List LiveRange) := do
  let w ← checkAccess a.toNat 8 8
  let h ← loadWin ((← getMe).stampFor tainted) w a.toNat 8
  let n := byteAt h 0
  if n = 0 ∨ 64 < n then trapM tFmt
  let w ← checkAccess a.toNat (8 + 8 * n) 8
  let b ← loadWin ((← getMe).stampFor tainted) w a.toNat (8 + 8 * n)
  let l := (List.range n).map fun i => liveRange (fieldAt b (8 + 8 * i) 8)
  let s ← get
  if l.any (liveBad (s.resvOf s.cur.core s.me) s.me) then trapM tFmt
  return l

/-- A saved context's registers that are not live read as 0xFF in every byte, untainted (R426). -/
def Ctx.fillRegs (x : Ctx) (live : Option (List LiveRange)) : Ctx :=
  match live with
  | none => x
  | some l => (List.range x.alloc).foldl (fun (x : Ctx) n =>
      if liveHas l 3 n then x else x.setReg n (BitVec.allOnes 64) false) x

/-- What a save keeps of a context, which is SAVED and goes on from the PC it had: commands that waited in the work-queue unit are
pushed again, and a request that was not answered is made again (R424 to R426). -/
def Ctx.saved (x : Ctx) (live : Option (List LiveRange)) : Ctx :=
  { x.fillRegs live with
      st := .saved, why := none, q1 := (x.withdrawn ++ x.q1).map (fun c => { c with waiting := none, missed := false }), withdrawn := [],
      pend := x.pend.filter (fun p => p.ans.isSome), xans := [], relAt := none, waitAt := none, runAt := none, runUsed := 0 }

/-- The save of a launch on a core changed. -/
def State.modSaved (s : State) (core : Nat) (key : LKey) (f : SavedCore → SavedCore) : State :=
  let g := fun (c : SavedCore) =>
    if c.core == core && c.resv.part == key.part && c.resv.lid == key.lid && c.resv.lgen == key.lgen then f c else c
  { s with saves := s.saves.map fun j => { j with cores := j.cores.map g } }

/-- A context is SAVED: its state, matrix status, sequencer record and side-log entries move to its launch's save, and its place is free
(R424 to R427). -/
def State.saveCtx (s : State) (core n : Nat) (live : Option (List LiveRange)) : State :=
  let x := s.ctx core n
  let k := s.core core
  let was : CtxSt := match x.st with
    | .parked => .parked
    | .exiting => .exiting
    | _ => .running
  let put := fun (c : SavedCore) =>
    { c with ctxs := c.ctxs.set n (x.saved live), was := c.was.set n was,
             mx := (k.mx.find n).elim c.mx fun m => c.mx.set n m,
             lsLast := (k.lsLast.find n).elim c.lsLast fun m => c.lsLast.set n m,
             live := live.elim c.live fun l => c.live.set n l,
             log := c.log ++ k.log.filter fun e => e.ctx == n }
  let name := savedName (s.resvOf core x) n
  let re := fun (w : Sender) => if w == .ctx core n then Sender.ctx core name else w
  let s := (s.dropAsks core n).modSaved core x.lkey put
  let s := s.modCore core fun k =>
    Core.keepAcq x { k with ctxs := k.ctxs.del n, mx := k.mx.del n, lsLast := k.lsLast.del n, log := k.log.filter fun e => e.ctx != n }
  { s with mesh := s.mesh.map (fun f => { f with sender := re f.sender }), acks := s.acks.map re }

/-- CKPT (R413, R424). -/
def execCkpt (a : Nat) (s : State) : Out :=
  finish (do
    let x0 ← getMe
    let v ← operands .none (.src a) .none
    let s ← get
    if s.myCore.saving s.me then
      let live ← (if v.a = 0#64 then pure none else do
        let l ← readLive v.a (x0.tainted a)
        pure (some l) : M (Option (List LiveRange)))
      let s ← get
      guardM s.me.masked.isSome tMasklen
      modMe Ctx.withdrawDeqw
      let s ← get
      if !s.drained s.cur.core s.cur.ctx then blockM .drain
      let s := if s.cur.flags = [] then s else s.noteFlags s.cur.core s.cur.ctx (allFlags s.cur.flags)
      set ((s.setMe (s.me.retire s.cur.npc)).saveCtx s.cur.core s.cur.ctx live)
      throw .ended) s

/-- FULL_SAVE (R413, R425): PARKED and EXITING contexts at once, the others 50 µs after the request has reached the core; the ports drain
first, and the instruction that waits to issue is not executed. A context in a masked window or in a CKPT is not saved so. -/
def execFullSave (core ctx : Nat) (s : State) : Out :=
  let k := s.core core
  let x := s.ctx core ctx
  let late := k.save.any fun p => p.1 == x.part && p.2.1 == x.job && decide (p.2.2 + Config.us 50 ≤ s.clock)
  let rest := x.st == .parked || x.st == .exiting
  let runs := (x.st == .running || x.st == .blocked) && late && x.masked.isNone && x.why != some .drain
  stepIf (decide (ctx < 16) && k.saving x && (rest || runs)) (fun s =>
    let s := s.modCtx core ctx Ctx.withdrawDeqw
    if s.drained core ctx then s.saveCtx core ctx none
    else if rest then s
    else (s.dropAsks core ctx).setCtx core ctx { s.ctx core ctx with st := .blocked, why := some .saving }) s

/-- The contexts of a job on a core, what ended tasks have left among them. -/
def Core.ofJob (k : Core) (part job : Nat) : List (Nat × Ctx) :=
  k.ctxs.filter fun p => p.2.part == part && p.2.job == job && (p.2.st != .free || decide (16 ≤ p.1))

/-- The reservations of a job on a core. -/
def Core.resvsOf (k : Core) (part job : Nat) : List Resv := k.resvs.filter fun r => r.part == part && r.job == job && !r.stub && r.valid

/-- A SAVE begins (R422): the job's command queues are swapped out, its messages are no longer dispatched, the request reaches its
cores, and contexts that do not run are saved. -/
def State.beginSave (s : State) (die : Nat) (q : Preq) : State :=
  let queues := s.queues.filter fun o => o.key.part == q.part && o.key.job == q.job && !o.work
  let s := (queues.foldl (fun s o => s.swapOut o) s).unplace fun p => p.part == q.part && p.job == q.job
  let has := fun (k : Core) => !(k.resvsOf q.part q.job).isEmpty
  let recs := (s.cores.filter fun p => !s.isFw p.1).flatMap fun p => (p.2.resvsOf q.part q.job).map fun r =>
    ({ core := p.1, resv := r } : SavedCore)
  let hold := fun (c : Nat) (k : Core) => if has k && !s.isFw c then
      { k with save := k.save ++ [(q.part, q.job, s.clock)],
               resvs := k.resvs.map fun r => if r.part == q.part && r.job == q.job then { r with hold := true } else r } else k
  let s := { s with cores := s.cores.map hold, saves := s.saves ++ [SavedJob.mk die q.part q.job q.area recs false] }
  let s := s.modDie die fun d => { d with preq := { d.preq with op := 3 } }
  let now := s.cores.flatMap fun p => ((p.2.ofJob q.part q.job).filter fun c =>
    decide (c.1 < 16) && p.2.saving c.2 && (c.2.st == .parked || c.2.st == .exiting)).map fun c => (p.1, c.1)
  now.foldl (fun s p => if s.drained p.1 p.2 then s.saveCtx p.1 p.2 none else s) s

/-- Bytes of a region that are not live read as 0xFF (R426). -/
def deadBytes (l : List Byte) (lo n : Nat) (keep : Nat → Bool) : List Byte :=
  (List.range l.length).map fun i => if lo ≤ i ∧ i < lo + n ∧ keep (i - lo) = false then 0xFF#8 else l.getD i 0#8

/-- The scratchpad and the stacks of a launch as a save keeps them (R426). -/
def SavedCore.region (c : SavedCore) (l : List Byte) : List Byte :=
  let whole := c.ctxs.isEmpty || c.ctxs.any fun p => (c.live.find p.1).isNone
  let union := c.live.flatMap (·.2)
  let l := if whole then l else deadBytes l 0 c.resv.spBytes (liveHas union 0)
  c.ctxs.foldl (fun l p => match c.live.find p.1 with
    | some v => deadBytes l (c.resv.spBytes + p.2.index * c.resv.stkBytes) c.resv.stkBytes (liveHas v 1)
    | none => l) l

/-- The rows of a launch as a save keeps them, by their index from the row base (R426). -/
def SavedCore.keepRows (c : SavedCore) (k : Core) : Tab Row :=
  let r := c.resv
  (List.range (r.spots.length * r.rows)).map fun i =>
    let owner := c.ctxs.find? fun p => p.2.index == i / r.rows
    let dead := owner.any fun p => (c.live.find p.1).any fun l =>
      -- a row index of the table is under VBASE
      !((List.range r.rows).any fun n => liveHas l 2 n && (p.2.vbase + n) % r.rows == i % r.rows)
    (i, if dead then BitVec.allOnes 2048 else k.row (r.rowBase + i))

/-- A launch's reservation becomes a stub with its ring (R423). -/
def Resv.toStub (r : Resv) : Resv :=
  { r with spots := [], regs := 0, rows := 0, spBytes := 0, stkBytes := 0, stub := true, hold := false }

/-- The launch state of a core is saved and its reservation released (R422, R426). -/
def State.saveCore (s : State) (c : SavedCore) : State :=
  let r := c.resv
  let key : LKey := ⟨r.part, r.lid, r.lgen⟩
  let k := s.core c.core
  let mine := fun (q : InMsg) => q.msg.dpart == r.part && q.msg.lid == r.lid && q.msg.lgen == r.lgen
  let strm := fun (e : StreamEnt) => e.part == r.part && e.lid == r.lid && e.lgen == r.lgen && e.st != .free
  let bytes := k.sp.bytes r.spBase (r.spBytes + r.spots.length * r.stkBytes)
  let s := s.modSaved c.core key fun c =>
    { c with sp := c.region bytes, rows := c.keepRows k, hq := k.hq.filter mine, lq := k.lq.filter mine,
             streams := k.streams.filter (fun p => strm p.2), done := true }
  let k := k.modResv key Resv.toStub
  s.setCore c.core { k with hq := k.hq.filter (fun q => !mine q), lq := k.lq.filter (fun q => !mine q),
                            streams := k.streams.filter (fun p => !strm p.2),
                            save := k.save.filter fun p => !(p.1 == r.part && p.2.1 == r.job) }

/-- A SAVE ends once every context of the job has been saved (R422). -/
def State.endSave (s : State) (die : Nat) (q : Preq) : State :=
  let mine := fun (v : SavedJob) => v.part == q.part && v.job == q.job && v.area == q.area
  let recs := ((s.saves.filter mine).flatMap (·.cores)).filter fun c => !c.done
  let s := (recs.foldl (fun s c => s.saveCore c) s).unshort
  let s := (s.queues.filter fun o => o.key.part == q.part && o.key.job == q.job).foldl (fun s o => s.swapOut o) s
  let s := s.modDie die fun d => { d with preq := { d.preq with op := 0, busy := false } }
  s.setLatches s.columnCores 4

/-- PREEMPT_SAVE (R422): the SAVE that PREQ asks for begins, and ends once nothing of the job is left on its cores. -/
def execPreemptSave (die : Nat) (s : State) : Out :=
  let q := (s.die die).preq
  let left := s.cores.any fun p => !s.isFw p.1 && !(p.2.ofJob q.part q.job).isEmpty
  if q.busy && q.op == 1 then .next (s.beginSave die q)
  else stepIf (q.busy && q.op == 3 && !left) (fun s => s.endSave die q) s

/-- Whether two ranges of numbers do not meet. -/
def apart (a n b m : Nat) : Bool := n == 0 || m == 0 || decide (a + n ≤ b) || decide (b + m ≤ a)

/-- Whether everything that a saved reservation held on a core is free again: places, registers, rows, the region, inbound entries,
stream-table entries and side-log entries (R422). -/
def Core.fits (k : Core) (c : SavedCore) : Bool :=
  let r := c.resv
  let n := r.spots.length
  let others := k.resvs.filter fun o => !o.stub
  let regs := (others.map fun o => o.spots.length * o.regs).sum
  (others.all fun o => r.spots.all fun p => !o.spots.contains p)
    && (r.spots.all fun p => (k.ctx p).st == .free)
    && decide (regs + n * r.regs ≤ 256)
    && (others.all fun o => apart r.rowBase (n * r.rows) o.rowBase (o.spots.length * o.rows)
        && apart r.spBase (r.spBytes + n * r.stkBytes) o.spBase (o.spBytes + o.spots.length * o.stkBytes))
    && decide (k.hq.length + c.hq.length ≤ 16) && decide (k.lq.length + c.lq.length ≤ 32)
    && decide (k.log.length + c.log.length ≤ 64)
    && (c.streams.all fun p => (k.streams.get {} p.1).st == .free)

/-- A saved context as it goes on: its run timer starts again, and stands still on a halted core (R417, R418, R427). -/
def Ctx.restored (x : Ctx) (was : CtxSt) (now : Nat) (halted : Bool) : Ctx :=
  { x with st := was, parkedAt := now, runAt := if was = .running ∧ halted = false then some now else none }

/-- Packets of a stream that the ring took while only the stub was left go through their chains, in order (R37, R423). -/
def State.ringStreams (core : Nat) (key : LKey) : List InMsg → State → State
  | [], s => s
  | q :: t, s =>
    let put := fun (s : State) (l : List InMsg) => s.modCore core fun k => k.modResv key fun r => { r with ringQ := r.ringQ ++ l }
    let s := match q.msg.kind with
      | .stream => (s.streamData core q.msg 48).1
      | .streamend => if q.bytes.isSome then put s [q] else
        let (s, im) := s.streamEnd core q.msg q.seq
        put s [im]
      | _ => put s [q]
    State.ringStreams core key t s

/-- A launch on a core is as the save kept it (R422, R426, R427). A launch that has ended since is left out. -/
def State.restoreCore (s : State) (c : SavedCore) : State :=
  let key : LKey := ⟨c.resv.part, c.resv.lid, c.resv.lgen⟩
  let k := s.core c.core
  match k.resv key with
  | none => s
  | some stub =>
    let r := { c.resv with ring := stub.ring, ringBytes := stub.ringBytes, ringQ := [], ringTail := stub.ringTail, unwritten := stub.unwritten,
                           pressed := stub.pressed, mark := stub.mark, stub := false, hold := false }
    let n := r.spBytes + r.spots.length * r.stkBytes
    let rows := c.rows.foldl (fun (t : Tab Row) p => t.set (r.rowBase + p.1) p.2) k.rows
    let ctxs := c.ctxs.foldl (fun (t : Tab Ctx) p => t.set p.1 (p.2.restored (c.was.get .running p.1) s.clock k.halted)) k.ctxs
    let k := { k.modResv key (fun _ => r) with
      sp := (k.sp.clear r.spBase n).store r.spBase c.sp, rows := rows, ctxs := ctxs,
      mx := c.mx.foldl (fun (t : Tab MxCtx) p => t.set p.1 p.2) k.mx,
      lsLast := c.lsLast.foldl (fun (t : Tab LsLast) p => t.set p.1 p.2) k.lsLast,
      streams := c.streams.foldl (fun (t : Tab StreamEnt) p => t.set p.1 p.2) k.streams,
      log := c.log ++ k.log, hq := c.hq ++ k.hq, lq := c.lq ++ k.lq }
    let re := fun (w : Sender) => match w with
      | Sender.ctx core n => match c.ctxs.find? fun p => core == c.core && savedName c.resv p.1 == n with
        | some p => Sender.ctx core p.1
        | none => w
      | w => w
    let s := { s.setCore c.core k with mesh := s.mesh.map (fun f => { f with sender := re f.sender }), acks := s.acks.map re }
    let s := State.ringStreams c.core key stub.ringQ s
    ((c.log.map fun e => (e.part, e.job, pageOf e.va)).eraseDups).foldl (fun s p => s.replayOn c.core p.1 p.2.1 p.2.2) s

/-- Launches restored core by core, none where a resource of one is not free. -/
def State.restoreAll : List SavedCore → State → Option State
  | [], s => some s
  | c :: t, s =>
    if ((s.core c.core).resv ⟨c.resv.part, c.resv.lid, c.resv.lgen⟩).isNone then State.restoreAll t s
    else if (s.core c.core).fits c then State.restoreAll t (s.restoreCore c)
    else none

/-- A RESTORE (R422): of a void save it does nothing and sets VOID; it waits with FAIL while a resource is not free. -/
def State.restoreJob (s : State) (die : Nat) (q : Preq) : State :=
  let fin := fun (s : State) (void : Bool) =>
    (s.modDie die fun d => { d with preq := { d.preq with op := 0, busy := false, fail := false, void := void } }).setLatches
      s.columnCores 4
  let mine := fun (v : SavedJob) => v.part == q.part && v.job == q.job && v.area == q.area
  match s.saves.find? mine with
  | none => fin s false
  | some v =>
    let t := { s with saves := s.saves.erase v }
    if v.void then fin t true
    else match State.restoreAll v.cores t with
      | some u => fin u false
      | none => s.modDie die fun d => { d with preq := { d.preq with fail := true } }

/-- PREEMPT_RESTORE (R422). -/
def execPreemptRestore (die : Nat) (s : State) : Out :=
  let q := (s.die die).preq
  stepIf (q.busy && q.op == 2) (fun s => s.restoreJob die q) s

end Sys2Proof.Machine
end

