-- ==== Sys2Proof/Machine/Board.lean ====
section
/-! DEFINITION. Boot, warm reset, the control-space registers, power and temperature (R72, R261, R347, R348, R352, R418, R422, R429,
R446 to R453, R456, R457). -/

namespace Sys2Proof.Machine

def State.modBoard (s : State) (f : Board → Board) : State := { s with board := f s.board }

/-- The bytes of a bank of the boot flash from an offset on. -/
def Board.flashBytes (b : Board) (bank off n : Nat) : List Byte := Memory.bytes (b.flash.get [] bank) off n

/-- A ROLEMAP byte as R447 names it: die, row and column of the firmware columns. -/
def roleByte (roles : List Byte) (d j i : Nat) : Nat := byteAt roles (d * 128 + 32 * j + i)

/-- A valid role map (R447). -/
def rolesValid (w : Nat) (roles : List Byte) : Bool :=
  let on := fun (d r : Nat) => ((List.range 4).map fun j => ((List.range 32).filter fun i => roleByte roles d j i == r).length).sum
  let all := fun (r : Nat) => ((List.range 4).map fun d => on d r).sum
  ((List.range 512).all fun i => decide (byteAt roles i ≤ 5))
    && ((List.range 4).all fun d => (List.range 4).all fun j => decide (j < w) || ((List.range 32).all fun i => roleByte roles d j i == 0))
    && ((List.range 4).all fun d => decide (1 ≤ on d 2) && decide (1 ≤ on d 3))
    && decide (all 1 = 1) && decide (all 4 = 1) && decide (all 5 = 1)

/-- The table of a bank (R446). -/
def tableOf (bank : Nat) (b : List Byte) : Thoelle :=
  { bank := bank, svn := fieldAt b 6 2, width := byteAt b 8, roles := (b.drop 0x80).take 512, capdef := fieldAt b 0x280 2,
    hbmtrip := byteAt b 0x282, wddef := wd (fieldAt b 0x288 8), fabdef := wd (fieldAt b 0x290 8), fwdigest := (b.drop 0x18).take 64,
    signed := b.take 0x400 }

/-- The checks of the boot ROM on a bank, in their order (R448): the table, or the fail code of the first that fails. -/
def Board.verify (b : Board) (bank : Nat) : Nat ⊕ Thoelle :=
  let t := b.flashBytes bank 0 4608
  let key := (t.drop 0x400).take 1793
  let e := tableOf bank t
  if fieldAt t 0 4 ≠ 0xA3C50001 ∨ fieldAt t 4 2 ≠ 1 then .inl 0x01
  else if e.svn < b.svnfuse then .inl 0x02
  else if (Config.digest key).take 32 ≠ Config.pkhash
      ∨ Config.tableSigned key ((Config.digest e.signed).take 64) ((t.drop 0xC00).take 1536) = false then .inl 0x03
  else if ¬(e.width = 1 ∨ e.width = 2 ∨ e.width = 4) ∨ e.capdef < 1000 ∨ 2700 < e.capdef ∨ e.hbmtrip < 100 ∨ 110 < e.hbmtrip
      ∨ rolesValid e.width e.roles = false then .inl 0x05
  else if (Config.digest (b.flashBytes bank 4608 (fieldAt t 0x10 8))).take 64 ≠ e.fwdigest then .inl 0x04
  else .inr e

/-- The fail codes of self-test, of training after a warm reset, and of a trip during boot (R449, R450). -/
def testFails (cold : Bool) (code : Nat) : Bool :=
  (cold && [0x10, 0x11].contains code) || [0x12, 0x13, 0x14, 0x20, 0x21].contains code

/-- The safe diagnostic state (R450, R451). -/
def State.enterSafe (s : State) (fail : Nat) (detail : Word) : State :=
  s.modBoard fun b =>
    let cap := (b.table.map (·.capdef)).getD 2700
    { b with stage := 15, fail := fail, safe := true, faildet := detail, cap := cap, capOn := cap }

/-- The reservation under which a column core runs its firmware (R73). -/
def fwResv : Resv :=
  { part := 0, lid := 0, lgen := 0, job := 0, spots := List.range 16, regs := 16, rowBase := 0, rows := 8, spBase := 0, spBytes := 65536,
    stkBytes := 2048, ring := 0, ringBytes := 0 }

/-- The low n bits of a word. -/
def lowBits (v : Word) (n : Nat) : Word := wd (v.toNat % 2 ^ n)

/-- Firmware starts on the column cores with the table's defaults, reserved bits as zero (R5, R446, R449). -/
def State.startFirmware (s : State) (t : Thoelle) : State :=
  let s := s.modBoard fun b => { b with stage := 5, fail := 0, table := some t, cap := t.capdef, capOn := t.capdef }
  let parts := (List.range 32).map fun p => (p, ({ wdpol := lowBits t.wddef 48, fabpol := lowBits t.fabdef 28 } : Part))
  let s := { s with parts := parts }
  s.columnCores.foldl (fun s c => s.modCore c fun k => { k with resvs := [fwResv], fwHandlers := Config.fwHandlers c }) s

/-- The memory BIST of a cold boot, which runs once the logic BIST has passed, has filled the repair maps (R449, log entry 117). -/
def State.selfTest (s : State) (cold : Bool) : State :=
  if cold then
    let (n, s) := s.fresh
    s.modBoard fun b => { b with repair := Config.repairMaps n }
  else s

/-- Boot (R448 to R451): the first bank that passes every check, with the first failure of each bank recorded, then self-test or training
with its outcome, then the firmware. A trip stops it whether or not a bank passes. -/
def State.boot (s : State) (cold : Bool) (code : Nat) (detail : Word) : State :=
  let go := fun (s : State) (t : Thoelle) =>
    let u := (s.modBoard fun b => { b with table := some t, bank := t.bank, svn := t.svn }).selfTest (cold && code != 0x10)
    if testFails cold code then u.enterSafe code detail else u.startFirmware t
  match s.board.verify 0 with
  | .inr t => go s t
  | .inl f => match s.board.verify 1 with
    | .inr t => go (s.modBoard fun b => { b with bankFail := (f, 0) }) t
    | .inl g =>
      let s := s.modBoard fun b => { b with bankFail := (f, g) }
      if code = 0x20 ∨ code = 0x21 then s.enterSafe code detail else s.enterSafe f 7#64

/-- A reset that the hardware starts by itself: what training then finds is free (R449, R457, log entry 117). -/
def State.ownReset (s : State) : State :=
  let (n, s) := s.fresh
  s.boot false (Config.trainingOutcome n).1 (Config.trainingOutcome n).2

/-- What a cold reset leaves: the fuses and the flash, the host's own memory, and the model's own bookkeeping (log entry 10). -/
def State.coldClear (s : State) : State :=
  { State.reset with
    agenda := s.agenda, serial := s.serial, draws := s.draws, egress := s.egress, mem := s.mem.filter fun c => decide (paKind c.1 = .host),
    board := { flash := s.board.flash, svnfuse := s.board.svnfuse } }

/-- COLD_RESET (R448). -/
def execColdReset (selftest : Nat) (detail : Word) (s : State) : Out := .next (s.coldClear.boot true selftest detail)

/-- Every GiB of device memory (R234, R255). -/
def allGibs : List Nat := List.range 504 ++ (List.range 1512).map (· + 1024)

/-- What every warm reset keeps (R453): memory, now lost, the clock, and what power and the sensors have done. -/
def State.warmClear (s : State) (lastrst : Nat) : State :=
  let b := s.board
  { State.reset with
    clock := s.clock, agenda := s.agenda, serial := s.serial, draws := s.draws, egress := s.egress, mem := s.mem,
    seals := { tiles := s.seals.tiles, refresh := s.seals.refresh, lost := allGibs },
    board := { flash := b.flash, svnfuse := b.svnfuse, repair := b.repair, warmcnt := min (b.warmcnt + 1) 65535, lastrst := lastrst, podOff := b.podOff,
               limited := b.limited, halved := b.halved } }

/-- A graceful warm reset begins (R452): front ends and NIs stop, and every context and engine command is abandoned; the buffers have
still to be written back. -/
def State.stopAll (s : State) : State :=
  { State.reset with
    clock := s.clock, agenda := s.agenda, serial := s.serial, draws := s.draws, egress := s.egress, mem := s.mem,
    seals := { s.seals with sigEnds := [] }, poc := s.poc.filter PocReq.isWrite, board := { s.board with graceful := some s.clock } }

/-- Whether every tile buffer has been written back and every write queue has drained (R452). -/
def State.flushed (s : State) : Bool := s.poc.isEmpty && s.seals.incs.isEmpty && !(s.seals.buf.any fun p => p.2.dirty)

/-- Whether a boot has still to run: nothing else resets the device before it (log entry 118). -/
def Board.booting (b : Board) : Bool := b.stage != 5 && b.stage != 15

/-- BUSY of RESETCTL: a reset or boot runs (R452). -/
def Board.busy (b : Board) : Bool := b.graceful.isSome || b.booting

/-- GRACEFUL_WARM_RESET (R452): it begins, and resets once the buffers have been written back. While another reset or a boot runs, a
request for one is ignored. -/
def execGracefulWarmReset (selftest : Nat) (detail : Word) (s : State) : Out :=
  match s.board.graceful with
  | none => stepIf (!s.board.busy) State.stopAll s
  | some _ => stepIf s.flushed (fun s => (s.warmClear 1).boot false selftest detail) s

/-- FATAL_WARM_RESET (R452, R455), started by the hardware or, where no reset runs, by the host: a host's write of RESETCTL is
State.writeResetctl, and BUSY makes it ignored. -/
def execFatalWarmReset (selftest : Nat) (detail : Word) (s : State) : Out :=
  stepIf (!s.board.booting) (fun s => (s.warmClear 2).boot false selftest detail) s

/-- The host writes CMD of RESETCTL (R452). -/
def State.writeResetctl (s : State) (cmd : Nat) : State :=
  if s.board.busy then s
  else match cmd with
    | 1 => s.stopAll
    | 2 => (s.warmClear 2).ownReset
    | _ => s

/-- GRACEFUL_RESET_TIMEOUT (R452): a graceful reset not written back in 1 ms goes on as fatal. -/
def execGracefulResetTimeout (selftest : Nat) (detail : Word) (s : State) : Out :=
  stepIf ((s.board.graceful.any fun t => decide (t + Config.ms 1 ≤ s.clock)) && !s.flushed)
    (fun s => (s.warmClear 2).boot false selftest detail) s

/-- MODULE_POWER_REMOVAL (R457): nothing but the fuses and the flash is kept. -/
def execModulePowerRemoval (s : State) : Out := .next (s.coldClear.modBoard fun b => { b with powered := false })

/-- SVNBURN (R448): firmware raises SVNFUSE, a thermometer of 64, at most to the SVN of the accepted table. -/
def execSvnburn (n : Nat) (s : State) : Out :=
  stepIf (s.board.table.any fun t => decide (n ≤ min t.svn 64) && decide (s.board.svnfuse < n) && !s.board.safe) (fun s =>
    s.modBoard fun b => { b with svnfuse := n }) s

/-- BOOTSTAT and PWRSTAT (R451, R456). -/
def Board.bootstat (b : Board) : Word :=
  wd (b.stage + b.fail * 2 ^ 4 + b.bank * 2 ^ 12 + (if b.safe then 2 ^ 13 else 0) + b.svn * 2 ^ 16 + b.warmcnt * 2 ^ 32
    + b.lastrst * 2 ^ 48)

@[inherit_doc Board.bootstat]
def Board.pwrstat (b : Board) : Word :=
  wd (b.cap + b.now % 2 ^ 12 * 2 ^ 12 + (if b.throt then 2 ^ 24 else 0) + b.throtcnt * 2 ^ 32)

/-- Whether every core of a cluster is in the Abacist column, whether some are, and the cores that are not (R72). -/
def State.fwOnly (s : State) (cluster : Nat) : Bool := (List.range 16).all fun i => s.isFw (cluster * 16 + i)
@[inherit_doc State.fwOnly] def State.usableCores (s : State) (cluster : Nat) : Nat :=
  ((List.range 16).filter fun i => !s.isFw (cluster * 16 + i)).length

/-- CLPART of a cluster as it reads (R72). -/
def State.clpart (s : State) (cluster : Nat) : Word :=
  let k := s.cluster cluster
  let n := s.usableCores cluster
  wd (k.part + (if k.valid then 2 ^ 5 else 0) + (if 0 < n ∧ n < 16 then 2 ^ 6 else 0) + (if n = 0 then 2 ^ 7 else 0)
    + n % 16 * 2 ^ 8 + (if k.err then 2 ^ 12 else 0))

/-- Whether a launch holds a reservation on a cluster (R72). -/
def State.reserved (s : State) (cluster : Nat) : Bool :=
  (List.range 16).any fun i => !s.isFw (cluster * 16 + i) && ((s.core (cluster * 16 + i)).resvs.any fun r => !r.stub)

/-- A write of CLPART, and whether it was refused (R72). -/
def State.writeClpart (s : State) (cluster : Nat) (v : Word) : State × Bool :=
  let k := s.cluster cluster
  let part := if wbits v 4 0 < 20 then wbits v 4 0 else k.part
  let valid := wbit v 5 && !s.fwOnly cluster
  let refused := (part != k.part || valid != k.valid) && s.reserved cluster
  let err := refused || (k.err && !wbit v 12)
  (s.modCluster cluster fun k => if refused then { k with err := err } else { k with part := part, valid := valid, err := err }, refused)

/-- CLPART_WRITE (R72), by firmware, none of which runs in the safe state (R450). -/
def execClpartWrite (cluster : Nat) (v : Word) (s : State) : Out :=
  stepIf (decide (cluster < 256) && !s.board.safe) (fun s => (s.writeClpart cluster v).1) s

/-- A write of PREQ (R422): ignored while an operation runs. -/
def Preq.write (q : Preq) (v : Word) (now : Nat) : Preq :=
  if q.busy then q
  else
    let op := wbits v 12 11
    let go := op == 1 || op == 2
    { q with job := wbits v 5 0, part := wbits v 10 6, area := wbits v 55 16, op := if go then op else 0, busy := go,
             fail := q.fail && op != 2, void := q.void && op != 2, since := now }

/-- Fields of a register by the bit each begins at. -/
def fieldsWord (l : List (Nat × Nat)) : Word := wd (l.map fun f => f.2 * 2 ^ f.1).sum

/-- A flag as a field of one bit. -/
def flagBit (b : Bool) : Nat := if b then 1 else 0

/-- EPDROP as it reads (R351). -/
def EpDrop.word (e : EpDrop) : Word :=
  fieldsWord [(0, e.badtile), (8, e.expired), (16, e.gen), (24, e.badrod), (32, e.xlate), (40, e.isolated), (48, e.robfull), (56, e.badtype)]

/-- HBMREF of a layer as it reads; HOT is 1 above 95 °C (R238). -/
def Refresh.word (r : Refresh) : Word :=
  fieldsWord [(0, r.ivl), (16, r.temp % 256), (24, flagBit (decide (95 < r.temp))), (32, r.count % 2 ^ 32)]

/-- PEERTAB of a peer as it reads (R347). -/
def Peer.word (p : Peer) : Word :=
  fieldsWord [(0, p.ep), (16, flagBit p.valid), (17, flagBit p.carrier), (18, flagBit p.feotte), (19, flagBit p.isol), (20, p.tocnt % 16)]

/-- KSLOT of a slot as it reads (R261). -/
def KSlot.word (k : KSlot) : Word := fieldsWord [(0, k.part), (5, flagBit k.loaded), (8, k.tiles % 2 ^ 30)]

/-- PREQ of a die as it reads; OP is WO (R422). -/
def Preq.word (q : Preq) : Word :=
  fieldsWord [(0, q.job), (6, q.part), (13, flagBit q.busy), (14, flagBit q.fail), (15, flagBit q.void), (16, q.area)]

/-- Whether PRESET reads BUSY: a reset has been asked for there, or one runs (R419). -/
def State.presetRuns (s : State) : Bool := s.presetBusy || !s.resets.isEmpty

/-- A control-space register as it reads: WO and reserved fields as zero (R5, R7). The state of a core's contexts reads in a word whose layout
the spec does not give (R87). Mark: DESIGN CHOICE (log entry 121). -/
def State.regWord (s : State) (reg : CtlReg) : Word :=
  match reg with
  | .fwall d => (s.die d).fwall
  | .peertab i => (s.peer i).word
  | .fabpol p => (s.part p).fabpol
  | .wdpol p => (s.part p).wdpol
  | .rodblk d b => let r := s.rodblk.get (0, false) (d * 64 + b)
    fieldsWord [(0, r.1), (5, flagBit r.2)]
  | .kslot n => (s.kslot n).word
  | .fwdrange p i => (s.part p).fwdrange.get 0#64 i
  | .fwdtgt p => (s.part p).fwdtgt
  | .presetPart => fieldsWord [(0, s.presetPart), (6, flagBit s.presetRuns), (8, s.presetCause)]
  | .preq d => (s.die d).preq.word
  | .clpart c => s.clpart c
  | .epdrop d => (s.die d).epdrop.word
  | .hbmref k l => (s.seals.refresh.get {} (16 * k + l)).word
  | .pwrcap => s.board.pwrstat
  | .sealcmd => fieldsWord [(63, flagBit s.seals.cmd.isSome)]
  | .s2root p => (s.part p).s2root
  | .corestat c => Config.coreStat ((List.range 16).map fun n => (s.ctx c n).st.code)
  | .walkresp _ => 0#64
  | .read _ => 0#64

/-- The RC fields of a register clear once it has been read: those of EPDROP and THROTCNT (R7, R351, R456). -/
def State.clearRc (s : State) (reg : CtlReg) : State :=
  match reg with
  | .epdrop d => s.modDie d fun x => { x with epdrop := {} }
  | .pwrcap => s.modBoard fun b => { b with throtcnt := 0 }
  | _ => s

/-- A register is read: its value is the answer, and its RC fields clear (R7). -/
def State.readReg (s : State) (reg : CtlReg) : State :=
  (s.clearRc reg).modBoard fun b => { b with ctlResp := s.regWord reg }

/-- An access of a control-space register: its RW and W1C fields written, or a read, which the spec gives no row of its own. Mark: DESIGN
CHOICE (log entry 106) (R7, R73, R261, R347, R348, R352, R418, R419, R422, R429). -/
def State.writeReg (s : State) (reg : CtlReg) (v : Word) : State :=
  match reg with
  | .fwall d => s.modDie d fun x => { x with fwall := wd (v.toNat % 2 ^ 22 / 2 * 2 + 1) }
  | .peertab i => s.modPeer i fun p =>
      { p with ep := wbits v 15 0, valid := wbit v 16, carrier := wbit v 17, feotte := wbit v 18, isol := p.isol && !wbit v 19 }
  | .fabpol p => s.modPart p fun x => { x with fabpol := lowBits v 28 }
  | .wdpol p => s.modPart p fun x => { x with wdpol := lowBits v 48 }
  | .rodblk d b => { s with rodblk := s.rodblk.set (d * 64 + b) (wbits v 4 0, wbit v 5) }
  | .kslot n => s.modKslot n fun k => { k with part := wbits v 4 0 }
  | .fwdrange p i => s.modPart p fun x => { x with fwdrange := x.fwdrange.set i (lowBits v 52) }
  | .fwdtgt p => s.modPart p fun x => { x with fwdtgt := lowBits v 48 }
  | .presetPart => if s.presetRuns then s else { s with presetPart := wbits v 4 0, presetBusy := wbit v 5 }
  | .preq d => s.modDie d fun x => { x with preq := x.preq.write v s.clock }
  | .clpart c => (s.writeClpart c v).1
  | .read r => s.readReg r
  | _ => s

/-- Whether an access names a read. -/
def readsReg (r : CtlReg) : Bool :=
  match r with
  | .read _ => true
  | _ => false

/-- Whether a register of a number exists. -/
def regExists (r : CtlReg) : Bool :=
  match r with
  | .fwall d => decide (d < 4)
  | .peertab i => decide (i < 1024)
  | .fabpol p => decide (p < 32)
  | .wdpol p => decide (p < 32)
  | .rodblk d b => decide (d < 4) && decide (b < 64)
  | .kslot n => decide (n < 64)
  | .fwdrange p i => decide (p < 32) && decide (i < 8)
  | .fwdtgt p => decide (p < 32)
  | .presetPart => true
  | .preq d => decide (d < 4)
  | .clpart c => decide (c < 256)
  | .epdrop d => decide (d < 4)
  | .hbmref k l => decide (k < 8) && decide (l < 16)
  | .pwrcap => true
  | .sealcmd => true
  | .s2root p => decide (p < 32)
  | .corestat c => decide (c < 4096)
  | .walkresp d => decide (d < 4)
  | .read r => !readsReg r && regExists r

/-- REGISTER_WRITE (R7): an access of a control-space register by firmware, a write or a read; no firmware runs in the safe state (R450). -/
def execRegisterWrite (reg : CtlReg) (v : Word) (s : State) : Out :=
  stepIf (regExists reg && !s.board.safe) (fun s => s.writeReg reg v) s

/-- POWER_WINDOW (R456): a window of 1 µs ends; one that used more energy than the cap in force in it allows throttles the next, for which
the cap as it stands now is in force. -/
def execPowerWindow (energy mean : Nat) (s : State) : Out :=
  .next (s.modBoard fun b =>
    { b with now := mean, throt := b.delaying, throtcnt := if b.delaying then min (b.throtcnt + 1) (2 ^ 32 - 1) else b.throtcnt,
             delaying := decide (b.capOn < energy), capOn := b.cap })

/-- PWRCAP_WRITE (R456): firmware writes the cap, which is clamped, and a change sets latch bit 1 on every role-3 core. In the safe state
the cap stays (R450). -/
def execPwrcapWrite (v : Word) (s : State) : Out :=
  let cap := max 1000 (min 2700 (wbits v 11 0))
  stepIf (!s.board.safe) (fun s =>
    let t := s.modBoard fun b => { b with cap := cap }
    if cap = s.board.cap then t else t.setLatches (t.coresOfRole roleFault) 1) s

/-- The HBM trip temperature in force: the table's, or the least that one may name (R446, R450). -/
def State.hbmTrip (s : State) : Nat := (s.board.table.map (·.hbmtrip)).getD 100

/-- The refresh interval at a temperature (R238). -/
def refreshIvl (temp : Nat) : Nat := if 95 < temp then 975 else if 85 < temp then 1950 else 3900

/-- A thermal trip: a fatal warm reset, or, while a boot has still to run, the safe diagnostic state with the die or layer in FAILDET (R450,
R451, R457). Mark: DESIGN CHOICE (log entry 118). -/
def State.trip (s : State) (detail : Word) : State :=
  if s.board.booting then s.enterSafe 0x20 detail else (s.warmClear 2).ownReset

/-- THERMAL_BAND_CROSSING (R238, R457). -/
def execThermalBandCrossing (pt : ThermalPoint) (temp : Nat) (s : State) : Out :=
  let trip := s.hbmTrip
  let s := s.setLatches s.columnCores 2
  let less := fun (l : List Nat) (n : Nat) => l.filter (· != n)
  match pt with
  | .die d =>
    if 115 < temp then .next (s.trip (wd (1 + d % 2 ^ 8 * 2 ^ 8)))
    else .next (s.modBoard fun b => { b with halved :=
      if 105 < temp then (d :: less b.halved d) else if temp < 100 then less b.halved d else b.halved })
  | .layer k l =>
    let n := 16 * k + l
    let s := s.modSeal fun z =>
      let r := z.refresh.get {} n
      { z with refresh := z.refresh.set n { r with ivl := refreshIvl temp, temp := temp % 256 } }
    if trip + 5 < temp then .next (s.trip (wd (2 + k % 2 ^ 8 * 2 ^ 8 + l % 2 ^ 16 * 2 ^ 16)))
    else .next (s.modBoard fun b => { b with limited :=
      if trip < temp then (n :: less b.limited n) else if temp + 5 ≤ trip then less b.limited n else b.limited })

end Sys2Proof.Machine
end

