-- ==== Sys2Proof/Machine/Mailbox.lean ====
section
/-! DEFINITION. The host's side: mailbox requests, host accesses, function-level reset, translation requests, attestation and live
migration (R75, R251, R252, R334, R383, R428, R429, R454, R455, R459). -/

namespace Sys2Proof.Machine

/-- The status codes of a mailbox response (R454). -/
def mailOk : Nat := 0
@[inherit_doc mailOk] def mailBadcmd : Nat := 1
@[inherit_doc mailOk] def mailDenied : Nat := 2
@[inherit_doc mailOk] def mailRefused : Nat := 3
@[inherit_doc mailOk] def mailReset : Nat := 4

/-- A response with the request's SEQ, followed by MSI-X vector 0 (R454). -/
def State.mailReply (s : State) (fn seq cmd status : Nat) (body : List Byte) : State :=
  s.modBoard fun b => { b with mbox := b.mbox.set fn ⟨seq % 2 ^ 32, cmd, status, body, (b.mbox.get {} fn).irqs + 1, none, (b.mbox.get {} fn).req⟩ }

/-- A request stays unanswered for now (R454). -/
def State.mailWaits (s : State) (fn seq cmd : Nat) (body : Option (List Nat)) : State :=
  s.modBoard fun b => { b with mbox := b.mbox.set fn { b.mbox.get {} fn with pend := some (seq % 2 ^ 32, cmd, body) } }

/-- Whether an unanswered request is another than one of SEQ, CMD and body (R454): one whose doorbell has rung and that has not been taken
up yet is of any body. -/
def pendOther (p : Nat × Nat × Option (List Nat)) (seq cmd : Nat) (body : List Nat) : Bool :=
  (p.1, p.2.1) != (seq % 2 ^ 32, cmd) || p.2.2.any (· != body)

/-- The scheduler core that a doorbell wakes (R416, R454). -/
def State.doorbell (s : State) : State :=
  match s.roleCore roleSched none with
  | some c => s.setLatch c 3
  | none => s

/-- A request of the mailbox of function fn, 0 for the physical function and 1 + n for virtual function n (R450, R454): which requests the
ROM serves, which only the physical function may make, and the partition that a virtual function's request may name. While another request
of the function is unanswered the doorbell is ignored, and while a graceful reset runs nothing is served (R452); only a GRAPHLOAD stays unanswered once taken up, so that only its body is kept. -/
def mail (fn seq cmd : Nat) (rom pfOnly : Bool) (part : Option Nat) (f : State → State) (s : State) (body : List Nat := []) : Out :=
  let no := fun (s : State) (st : Nat) => s.mailReply fn seq cmd st []
  let pend := (s.board.mbox.get {} fn).pend
  if 128 < fn then .next s
  else if (if s.board.safe then fn ≠ 0 else s.board.stage ≠ 5 ∨ s.board.graceful.isSome) then .next s
  else if pend.any (pendOther · seq cmd body) then .next s
  else if s.board.safe then .next (if rom then f s else no s mailBadcmd)
  else
    let s := if pend.isSome then s else s.doorbell
    .next (if fn = 0 then f s
      else match s.board.vfs.find (fn - 1) with
        | none => no s mailDenied
        | some (v : Vf) => if pfOnly || part.any (· != v.part) then no s mailDenied else f s)

/-- MAILBOX_STATUS (R454). -/
def execMailboxStatus (fn seq : Nat) (s : State) : Out :=
  mail fn seq 0x01 true false none (fun s =>
    s.mailReply fn seq 0x01 mailOk (leBytes 8 s.board.bootstat.toNat ++ leBytes 8 s.board.faildet.toNat)) s

/-- FLASHWRITE (R454): bytes of the bank that is not in use, from an offset on. -/
def execFlashwrite (fn seq off : Nat) (data : List Byte) (s : State) : Out :=
  mail fn seq 0x02 true true none (fun s =>
    if 4608 + 2 ^ 26 < off + data.length then s.mailReply fn seq 0x02 mailRefused []
    else
      let bank := 1 - s.board.bank
      (s.modBoard fun b => { b with flash := b.flash.set bank (Memory.store (b.flash.get [] bank) off data) }).mailReply fn seq 0x02
        mailOk []) s

/-- REBOOT (R454): a cold reset of the module; the boot ROM runs next. -/
def execReboot (fn seq : Nat) (s : State) : Out := mail fn seq 0x03 true true none State.coldClear s

/-- PARTCFG (R72, R454): REFUSED where a CLPART write was. -/
def State.partcfg (s : State) (cfg : PartCfg) : State × Bool :=
  let (s, refused) := cfg.clusters.foldl (fun (a : State × Bool) c =>
    if c.1 < 256 then
      let (t, r) := a.1.writeClpart c.1 (wd c.2)
      (t, a.2 || r)
    else (a.1, true)) (s, false)
  let s := (cfg.slots.filter fun k => decide (k.1 < 64)).foldl (fun s k => s.modKslot k.1 fun x => { x with part := k.2 % 32 }) s
  let s := (cfg.blocks.filter fun b => decide (b.1 < 4) && decide (b.2.1 < 64)).foldl (fun (s : State) b =>
    { s with rodblk := s.rodblk.set (b.1 * 64 + b.2.1) (b.2.2 % 32, true) }) s
  let s := (cfg.vfs.filter fun v => decide (v.1 < 128)).foldl (fun s v => s.modBoard fun b =>
    { b with vfs := b.vfs.set v.1 ⟨v.2.1, v.2.2.1, v.2.2.2, true⟩ }) s
  (s, refused)

@[inherit_doc State.partcfg]
def execPartcfg (fn seq : Nat) (cfg : PartCfg) (s : State) : Out :=
  mail fn seq 0x10 false true none (fun s =>
    let (s, refused) := s.partcfg cfg
    s.mailReply fn seq 0x10 (if refused then mailRefused else mailOk) []) s

/-- Whether a generation of a job number may be used now (R32). -/
def State.jobFree (s : State) (d : JobDesc) : Bool :=
  let old := (s.freed.filter fun f => f.job && f.part == d.part && f.id == d.job && decide (s.clock < f.time + Config.ms 2)).getLast?
  (s.job d.part d.job).isNone && old.all fun f => d.jgen == (f.gen + 1) % 16

/-- Fields of a job descriptor outside their ranges (R74). -/
def jobDescBad (d : JobDesc) : Bool :=
  decide (64 ≤ d.job) || decide (16 ≤ d.jgen) || decide (d.qtlen < 1) || decide (4096 < d.qtlen) || decide (4 ≤ d.floor)
    || decide (20 ≤ d.part) || decide (d.qtab % 64 ≠ 0) || decide (d.phsig % 8 ≠ 0) || decide (d.ovfpool % 4096 ≠ 0)
    || decide (d.jobsig % 8 ≠ 0)

/-- The 64 bytes of a job descriptor (R74). -/
def jobDescBytes (d : JobDesc) : List Byte :=
  leBytes 1 (d.job % 64) ++ leBytes 1 (d.jgen % 16) ++ leBytes 2 d.qtlen ++ leBytes 1 (d.floor % 4) ++ leBytes 1 (d.part % 32) ++ leBytes 2 0
    ++ leBytes 8 d.super.toNat ++ leBytes 8 d.qtab ++ leBytes 8 d.phsig ++ leBytes 8 d.ovfpool ++ leBytes 8 d.ovflen ++ leBytes 8 d.s1root
    ++ leBytes 8 d.jobsig

/-- JOBCREATE (R32, R58, R74, R75). -/
def execJobcreate (fn seq addr : Nat) (desc : JobDesc) (s : State) : Out :=
  mail fn seq 0x11 false false (some desc.part) (fun s =>
    let t : State := { s.writePoc addr desc.part (jobDescBytes desc) 2 with jobs := s.jobs ++ [{ desc := desc, addr := addr }] }
    let sigs := t.sealedAt desc.part desc.job desc.phsig && t.sealedAt desc.part desc.job (desc.phsig + 2040)
      && (desc.jobsig == 0 || t.sealedAt desc.part desc.job desc.jobsig)
    let good := !jobDescBad desc && s.jobFree desc && paKind addr == .sealed && paKind (addr + 63) == .sealed
    if good && sigs then t.mailReply fn seq 0x11 mailOk [] else s.mailReply fn seq 0x11 mailRefused []) s

/-- The live job that a request names (R75). -/
def State.namedJob (s : State) (part job jgen : Nat) : Option Job := (s.job part job).filter fun j => j.desc.jgen == jgen

/-- JOBCLOSE (R75, R433). -/
def execJobclose (fn seq part job jgen : Nat) (s : State) : Out :=
  mail fn seq 0x12 false false (some part) (fun s =>
    if (s.namedJob part job jgen).isSome then (s.modJob part job fun j => { j with closed := true }).mailReply fn seq 0x12 mailOk []
    else s.mailReply fn seq 0x12 mailRefused []) s

/-- The image of a graph (R380), read with the job's tables. -/
def State.readImage (s : State) (key : GKey) (va : Nat) : URes (List Byte × List Byte) × State :=
  let name := unitName 8 (2 ^ 38 + key.part * 2 ^ 20 + key.job * 2 ^ 12 + key.handle)
  match s.unitRead name 0 none key.part key.job va 64 with
  | (.wait, s) => (.wait, s)
  | (.fail c, s) => (.fail c, s)
  | (.ok h, s) =>
    if headerBad h then (.ok (h, h), s)
    else match s.unitRead name 0 none key.part key.job va (64 + imageRest h) with
      | (.ok b, s) => (.ok (h, b), s)
      | (.fail c, s) => (.fail c, s)
      | (.wait, s) => (.wait, s)

/-- GRAPHLOAD (R75, R380, R383): an image that is not 64-byte aligned is refused (log entry 110). A read that
waits for the memory master leaves the request unanswered. -/
def execGraphload (fn seq part job jgen handle va : Nat) (s : State) : Out :=
  mail fn seq 0x13 false false (some part) (fun s =>
    let no := fun (s : State) => s.mailReply fn seq 0x13 mailRefused []
    let key : GKey := ⟨part, job, handle⟩
    if (s.namedJob part job jgen).isNone || decide (1024 ≤ handle) || decide (va % 64 ≠ 0) then no s
    else match s.readImage key va with
      | (.wait, s) => s.mailWaits fn seq 0x13 (some [part, job, jgen, handle, va])
      | (.fail _, s) => no s
      | (.ok (h, b), s) =>
        let g := graphOf key b
        if headerBad h || g.badImage h b || s.graphRefused g then no s
        else (s.loadGraph g).mailReply fn seq 0x13 mailOk []) s [part, job, jgen, handle, va]

/-- GRAPHUNLOAD (R75, R383): a graph with an active instance stays. -/
def execGraphunload (fn seq part job jgen handle : Nat) (s : State) : Out :=
  mail fn seq 0x14 false false (some part) (fun s =>
    match s.namedJob part job jgen, s.graph ⟨part, job, handle⟩ with
    | some _, some g =>
      if g.inst.isSome then s.mailReply fn seq 0x14 mailRefused [] else (s.unloadGraph g).mailReply fn seq 0x14 mailOk []
    | _, _ => s.mailReply fn seq 0x14 mailRefused []) s

/-- Whether a physical address lies in a forwarding range of a partition (R429). -/
def State.inForward (s : State) (part pa : Nat) : Bool :=
  (s.part part).fwdrange.any fun e => decide (wbits e.2 51 40 ≠ 0) && decide (wbits e.2 39 0 * 2 ^ 16 ≤ pa)
    && decide (pa < wbits e.2 39 0 * 2 ^ 16 + wbits e.2 51 40 * 2 ^ 16)

/-- Whether the page of a physical address has been granted to the host or a peer (R251). -/
def State.granted (s : State) (pa : Nat) : Bool :=
  s.board.grants.any fun g => decide (g.pa ≤ pa) && decide (pa < g.pa + if g.big then 2 ^ 29 else 2 ^ 16)

/-- The BARRIER packets in the slots of a command queue that have not been read, from index i on; the fuel bounds the slots (R43, R428). -/
def State.slotBars (s : State) (q : RQueue) : Nat → Nat → List (List Byte)
  | 0, _ => []
  | n + 1, i =>
    let b := ((s.mapped q.key.part q.key.job (q.slot i)).map fun pa => s.mem.bytes pa 64).getD []
    let rest := State.slotBars s q n (i + pktSlots (byteAt b 0))
    if q.kmax ≤ i then [] else if pktType b = 4 then b :: rest else rest

/-- Every command queue of a partition, the resident ones and those that stand in their table's entries (R40, R428). -/
def State.commandQueues (s : State) (part : Nat) : List RQueue :=
  let entry := fun (j : Job) (h : Nat) =>
    let key : QKey := ⟨part, j.desc.job, h⟩
    if (s.queue key).isSome then none
    else (s.mapped part j.desc.job (j.desc.qtab + 64 * h)).bind fun pa =>
      let b := s.mem.bytes pa 64
      let ready := ((s.readAhead.find? fun r => r.1 == key).map (·.2)).getD []
      if entryKind b = 1 ∧ entryGood b = true then some (queueOf key 0 pa b ready) else none
  (s.queues.filter fun q => q.key.part == part && !q.work)
    ++ (s.jobs.filter fun j => j.desc.part == part).flatMap fun j => (List.range j.desc.qtlen).filterMap (entry j)

/-- The BARRIERs of a partition's queues: those that run, those read, and those in slots below KMAX (R428). -/
def State.barriers (s : State) (part : Nat) : List (Nat × List Byte) :=
  let runs := (s.running.filter fun r => r.part == part && pktType r.bytes == 4).map fun r => (r.job, r.bytes)
  runs ++ (s.commandQueues part).flatMap fun q =>
    (((q.ready.map (·.bytes)).filter fun b => pktType b == 4) ++ s.slotBars q (min (q.kmax - q.ridx) (2 ^ q.log2)) q.ridx).map
      fun b => (q.key.job, b)

/-- The signals, by physical address, that BARRIERs and blocked SIGWAITs of a partition wait on (R428). -/
def State.waitedSignals (s : State) (part : Nat) : List Nat :=
  let waits := s.cores.flatMap fun p => p.2.ctxs.filterMap fun c =>
    if c.2.part = part ∧ c.2.st = .blocked then (match c.2.why with
      | some (.signal pa) => some pa
      | _ => none) else none
  let bars := (s.barriers part).flatMap fun r => (barrierWaits r.2).filterMap fun w => if w.1 = 0 then none else s.mapped part r.1 w.1
  waits ++ bars

/-- The reason code of a refused migration, 0 for none (R428). -/
def State.migrateReason (s : State) (part : Nat) (targetFree : Bool) : Nat :=
  if (s.waitedSignals part).any fun pa => s.granted pa && !s.inForward part pa then 1
  else if s.rods.any fun p => p.2.part == part && (p.2.st == .armed || p.2.st == .beamed || p.2.st == .sent) then 2
  else if (s.graphs.any fun g => g.key.part == part && g.inst.isSome) || (s.xalls.any fun x => x.part == part) then 3
  else if targetFree then 0 else 4

/-- A partition is gone from this device; operations on its signals are forwarded from now on (R428, R429). -/
def State.movePart (s : State) (part : Nat) : State :=
  let s := s.purge part
  let s := s.modPart part fun p => { p with moved := true }
  { s with jobs := s.jobs.filter fun j => j.desc.part != part
           phases := s.phases.filter fun p => p.part != part
           queues := s.queues.filter fun q => q.key.part != part
           graphs := s.graphs.filter fun g => g.key.part != part
           saves := s.saves.filter fun v => v.part != part
           resets := s.resets.filter fun r => r.part != part
           rods := s.rods.filter fun p => p.2.part != part }

/-- MIGRATE (R428): the reason of a refusal is in the response body. -/
def execMigrate (fn seq part _target : Nat) (targetFree : Bool) (s : State) : Out :=
  mail fn seq 0x15 false true none (fun s =>
    match s.migrateReason part targetFree with
    | 0 => (s.movePart part).mailReply fn seq 0x15 mailOk []
    | n => s.mailReply fn seq 0x15 mailRefused (leBytes 8 n)) s

/-- The bytes of bits 0 to n − 1. -/
def bitBytes (n : Nat) (p : Nat → Bool) : List Byte :=
  leBytes (n / 8) (((List.range n).filter p).map fun i => 2 ^ i).sum

/-- The 256 bytes of evidence for a nonce and a partition, none for the physical function (R459). -/
def State.evidence (s : State) (nonce : List Byte) (part : Option Nat) : List Byte :=
  let b := s.board
  let t := b.table
  let pad := fun (l : List Byte) (n : Nat) => (l ++ List.replicate n 0#8).take n
  pad nonce 32 ++ pad ((t.map (·.fwdigest)).getD []) 64 ++ pad ((t.map fun t => (Config.digest t.signed).take 64).getD []) 64
    ++ leBytes 2 b.svn ++ leBytes 2 b.svnfuse ++ leBytes 1 (part.getD 0xFF) ++ leBytes 3 0
    ++ bitBytes 256 (fun c => part == some (s.cluster c).part && (s.cluster c).valid)
    ++ bitBytes 64 (fun n => part == some (s.kslot n).part && (s.kslot n).loaded) ++ leBytes 8 s.nsNow ++ leBytes 40 0

/-- ATTEST (R459). -/
def execAttest (fn seq : Nat) (nonce : List Byte) (s : State) : Out :=
  mail fn seq 0x16 false false none (fun s =>
    let part := if fn = 0 then none else (s.board.vfs.find (fn - 1)).map (·.part)
    let e := s.evidence nonce part
    let sig := (Config.attestSign ((Config.digest e).take 64) ++ List.replicate 1536 0#8).take 1536
    s.mailReply fn seq 0x16 mailOk (e ++ sig ++ Config.identityKey ++ Config.vendorCert)) s

/-- The function whose device-memory window a partition's translations are mapped in: its lowest virtual function, or the physical one
(R251, R454). -/
def State.windowFn (s : State) (part : Nat) : Nat :=
  match s.board.vfs.first fun _ v => v.part == part with
  | some p => p.1 + 1
  | none => 0

/-- The 32-byte answer to a translation request (R251). -/
def translateAnswer (status perms size tag : Nat) (reply : Word) (itag : Nat) : List Byte :=
  leBytes 1 status ++ leBytes 1 perms ++ leBytes 2 size ++ leBytes 4 tag ++ leBytes 8 reply.toNat ++ leBytes 8 itag ++ leBytes 8 0

/-- The 32 bytes of a translation request (R251): OP is 1 to translate, 2 to acknowledge an invalidation. -/
def translateRequest (op part job jgen va len acc tag : Nat) : List Byte :=
  leBytes 1 op ++ leBytes 1 (acc % 4) ++ leBytes 2 (job % 64 + part % 32 * 2 ^ 8) ++ leBytes 4 tag ++ leBytes 8 va ++ leBytes 8 len
    ++ leBytes 8 (jgen % 16)

/-- The access that ACC asks for: [0] read, [1] write; a request for neither asks as for a read (R251). -/
def accOf (acc : Nat) : Nat := if acc % 4 = 2 then 1 else if acc % 4 = 3 then 3 else 0

/-- A peer's translation request arrives as an EVENT message to the memory master, with the request's bytes as its payload (R251). -/
def State.peerAsks (s : State) (part : Nat) (holder : Option Nat) (req : List Byte) : State :=
  if holder.isNone then s
  else s.event roleMemory none part 0 (((List.range 4).map fun i => wd (fieldAt req (8 * i) 8)) ++ [0#64, 0#64])

/-- An answer to a translation request goes to the host or to the peer that asked (R251). -/
def State.answerHolder (s : State) (holder : Option Nat) (b : List Byte) : State :=
  s.modBoard fun x => { x with answers := x.answers ++ [(holder, b)] }

/-- The bytes of the device-memory window of a function (R454). -/
def barBytes (fn : Nat) : Nat := if fn = 0 then 2 ^ 41 else 2 ^ 36

/-- TRANSLATE (R75, R251): reply is the BAR offset, or the address in the peer aperture, that the memory master gives. The answer is for the
page of VA, however long the range. Mark: DESIGN CHOICE (log entry 109). -/
def execTranslate (part job jgen va len acc : Nat) (tag : Nat) (reply : Word) (holder : Option Nat) (s : State) : Out :=
  let say := fun (s : State) (b : List Byte) => s.answerHolder holder b
  let s' := s
  let s := s.peerAsks part holder (translateRequest 1 part job jgen va len acc tag)
  if s.board.stage ≠ 5 then .next s'
  else if (s.namedJob part job jgen).isNone then .next (say s (translateAnswer 3 0 0 tag 0#64 0))
  else match s.xlate part job va (accOf acc) with
    | .ok e =>
      if paKind e.pa ≠ .sealed then .next (say s (translateAnswer 2 0 0 tag 0#64 0))
      else
        let big := e.bits == 29
        let (itag, s) := s.fresh
        let bits := if big then 29 else 16
        let base := e.phys (va / 2 ^ bits * 2 ^ bits)
        let g : Grant := { tag := itag, part := part, job := job, va := va / 2 ^ bits * 2 ^ bits, pa := base, big := big, holder := holder }
        let m : BarMap := ⟨s.windowFn part, reply.toNat / 2 ^ 16, base, if big then 2 ^ 13 else 1, itag⟩
        let s := s.modBoard fun b =>
          { b with grants := b.grants ++ [g], bar2 := if holder.isNone && decide ((m.page + m.pages) * 2 ^ 16 ≤ barBytes m.fn) then b.bar2 ++ [m] else b.bar2 }
        .next (say s (translateAnswer 0 ((if e.rd then 1 else 0) + if e.wr then 2 else 0) (if big then 1 else 0) tag reply itag))
    | .fault c => .next (say s (translateAnswer (if c = tPage then 1 else 2) 0 0 tag 0#64 0))
    | _ => .next (say s (translateAnswer 1 0 0 tag 0#64 0))

/-- A grant and its pages of a window are gone. -/
def Board.dropGrant (b : Board) (tag : Nat) : Board :=
  { b with grants := b.grants.filter (fun g => g.tag != tag), bar2 := b.bar2.filter fun m => m.tag != tag }

/-- ACKNOWLEDGE_INVALIDATION (R251, R252): a request with OP 2, a peer's as an EVENT message to the memory master, and its answer. The
request names the translation tag where the others hold their request tag. Mark: DESIGN CHOICE (log entry 109). -/
def execAcknowledgeInvalidation (tag : Nat) (s : State) : Out :=
  match s.board.grants.find? fun g => g.tag == tag && g.invalidated.isSome with
  | none => .next s
  | some g => .next (((s.peerAsks g.part g.holder (translateRequest 2 g.part g.job 0 g.va 0 0 tag)).modBoard fun b =>
      b.dropGrant tag).answerHolder g.holder (translateAnswer 0 0 0 tag 0#64 tag))

/-- INVALIDATION_TIMEOUT (R252, R365): a peer that has not acknowledged for 10 ms is isolated, and what waits for it ends. -/
def execInvalidationTimeout (tag : Nat) (s : State) : Out :=
  match s.board.grants.find? fun g => g.tag == tag with
  | none => .next s
  | some g => stepIf (g.invalidated.any fun t => decide (t + Config.ms 10 ≤ s.clock)) (fun s =>
      let s := s.modBoard fun b => b.dropGrant tag
      match g.holder.bind s.peerAt with
      | some (n, p) => if p.isol then s else (s.isolate n 0).resolveIsolated
      | none => s) s

/-- VF_FUNCTION_LEVEL_RESET (R455): the notify pages and window of the function are unmapped, its grants released, an unanswered request of
its mailbox fails, and the fault and reset handler is told. -/
def execVfFunctionLevelReset (vf : Nat) (s : State) : Out :=
  stepIf (decide (vf < 128) && s.board.stage == 5) (fun s =>
    let tags := (s.board.bar2.filter fun m => m.fn == vf + 1).map (·.tag)
    let s := s.modBoard fun b => tags.foldl (fun b t => b.dropGrant t) b
    let part := ((s.board.vfs.find vf).map (·.part)).getD 0
    let s := s.modBoard fun b => { b with vfs := b.vfs.map fun n v => if n = vf then { v with mapped := false } else v }
    let s := match (s.board.mbox.get {} (vf + 1)).pend with
      | some (seq, cmd, _) => s.mailReply (vf + 1) seq cmd mailReset []
      | none => s
    s.freeEvent roleFault none part 0) s

/-- The physical address behind an offset of a function's window (R454). -/
def Board.windowPa (b : Board) (fn off : Nat) : Option Nat :=
  if barBytes fn ≤ off then none
  else (b.bar2.find? fun m => m.fn == fn && decide (m.page ≤ off / 2 ^ 16) && decide (off / 2 ^ 16 < m.page + m.pages)).map fun m =>
    m.pa + (off - m.page * 2 ^ 16)

/-- An atomic of the host at a point of coherence (R275): natural alignment, the old value answered. At a tile whose writes wait it is not
taken yet, and the host's port offers it again (R259). Mark: DESIGN CHOICE (log entry 107). One on a signal in a forwarding range goes on to
the partition's new device (R429). Mark: DEDUCED (log entry 74). -/
def State.hostAtomic (s : State) (pa size : Nat) (op : AmoOp) (arg cmp : Word) : State :=
  let n := 2 ^ size
  let part := (s.kslot (s.tile (tileOf pa)).slot).part
  if (size ≠ 2 ∧ size ≠ 3) ∨ pa % n ≠ 0 then s
  else match s.forwardOf pa with
  | some (_, false) => s.epDrop (homeDie pa) EpDrop.addIsolated
  | some (p, true) => s.forward p pa op size false arg cmp (some (.host p 0 size))
  | none =>
  if s.writeWaits (tileOf pa) then s
  else if s.tileFails (tileOf pa) then s.poison part (tileOf pa)
  else
    let old := s.mem.num pa n
    let s := s.touchTile (tileOf pa) part
    { s with mem := s.mem.store pa (leBytes n (amoNew op size false old arg.toNat cmp.toNat)), board := { s.board with hostResp := leBytes n old } }

/-- RESETCTL as it reads: BUSY while a reset runs (R452). -/
def Board.resetctl (b : Board) : Word := fieldsWord [(2, flagBit b.busy)]

/-- The 4 KiB response area of a mailbox (R454). -/
def MBox.area (m : MBox) : List Byte :=
  (leBytes 4 m.seq ++ leBytes 2 m.status ++ leBytes 2 m.body.length ++ m.body ++ List.replicate 4096 0#8).take 4096

/-- Bytes of an area of BAR0, zero outside it. -/
def areaBytes (area : List Byte) (base off len : Nat) : List Byte :=
  (List.range len).map fun i => if off + i < base then 0#8 else (area.drop (off + i - base)).headD 0#8

/-- A read of BAR0 of a function (R47, R75, R451, R454, R456), none while a notify page's register waits for its entry. The physical
function has its registers and its mailbox, a virtual function its job's notify pages and its mailbox; a request area reads as written, and what is reserved
as zero. Mark: DESIGN CHOICE (log entry 107). -/
def State.readBar0 (s : State) (fn off len : Nat) : Option (List Byte) × State :=
  let b := s.board
  let mbox := (b.mbox.get {} fn).area
  let req := Memory.bytes (b.mbox.get {} fn).req 0 4096
  if fn = 0 then
    if off < 32 then
      (some (areaBytes ([b.bootstat, b.faildet, b.resetctl, b.pwrstat].flatMap fun w => leBytes 8 w.toNat) 0 off len), s)
    else (some (areaBytes (req ++ mbox) 0x10000 off len), s)
  else match b.vfs.find (fn - 1) with
    | none => (none, s)
    | some v =>
      if 0x40000 ≤ off then (some (areaBytes (req ++ mbox) 0x40000 off len), s)
      else if v.mapped then s.notifyRead v.part v.job v.jgen off len
      else (some (List.replicate len 0#8), s)

/-- The commands that the ROM serves, and those that only firmware does (R454). -/
def romCmds : List Nat := [0x01, 0x02, 0x03]
@[inherit_doc romCmds] def fwCmds : List Nat := [0x10, 0x11, 0x12, 0x13, 0x14, 0x15, 0x16]

/-- A doorbell is written (R450, R454): the request in the area waits for the row of its command, and one whose command is not served is
answered BADCMD. -/
def State.ringDoorbell (s : State) (fn : Nat) : State :=
  let m := s.board.mbox.get {} fn
  let seq := m.req.num 0 4
  let cmd := m.req.num 4 2
  let take := fun (s : State) (served : Bool) => if served then s.mailWaits fn seq cmd none else s.mailReply fn seq cmd mailBadcmd []
  if m.pend.isSome then s
  else if s.board.safe then take s (romCmds.contains cmd)
  else if s.board.stage ≠ 5 ∨ s.board.graceful.isSome then s
  else take s.doorbell ((romCmds ++ fwCmds).contains cmd)

/-- A write of a mailbox at an offset of it (R454): of its request area, or of the doorbell. -/
def State.writeMail (s : State) (fn off : Nat) (data : List Byte) : State :=
  if off + data.length ≤ 4096 then s.modBoard fun b =>
    let m := b.mbox.get {} fn
    { b with mbox := b.mbox.set fn { m with req := m.req.store off data } }
  else if off = 0x2000 then s.ringDoorbell fn
  else s

/-- A write of BAR0 (R47, R452, R454): of RESETCTL, of a mailbox, or of the mapped notify pages of a virtual function. The translation
mailbox is written by TRANSLATE and ACKNOWLEDGE_INVALIDATION. Mark: DESIGN CHOICE (log entry 107). -/
def State.writeBar0 (s : State) (fn off : Nat) (data : List Byte) : State :=
  if fn = 0 then
    if off = 0x10 then s.writeResetctl (byteAt data 0 % 4)
    else if 0x10000 ≤ off ∧ off < 0x20000 then s.writeMail 0 (off - 0x10000) data
    else s
  else match s.board.vfs.find (fn - 1) with
    | some v =>
      if 0x40000 ≤ off then s.writeMail fn (off - 0x40000) data
      else if v.mapped then s.notifyWrite v.part v.job v.jgen off data else s
    | none => s

/-- An access of BAR0 (R47, R450, R454): in the safe diagnostic state only the physical function answers. -/
def State.bar0 (s : State) (fn off : Nat) (op : HostOp) : State :=
  if s.board.safe && fn != 0 then s
  else match op with
    | .readBar0 n => match s.readBar0 fn off n with
      | (some b, s) => s.modBoard fun x => { x with hostResp := b }
      | (none, s) => s
    | .writeBar0 d => s.writeBar0 fn off d
    | _ => s

/-- Bytes that an access of a device-memory window covers, none for an access of BAR0. -/
def hostLen (op : HostOp) : Option Nat :=
  match op with
  | .read n => some n
  | .write d => some d.length
  | .fetchAdd z _ => some (2 ^ z)
  | .swap z _ => some (2 ^ z)
  | .cas z _ _ => some (2 ^ z)
  | .readBar0 _ => none
  | .writeBar0 _ => none

/-- HOST_ACCESS (R47, R275, R334, R454): an access to a mapped page of a device-memory window is performed at the point of coherence. One
that crosses a page or finds no mapping reaches nothing. -/
def execHostAccess (fn off : Nat) (op : HostOp) (s : State) : Out :=
  match hostLen op, s.board.windowPa fn off with
  | none, _ => .next (s.bar0 fn off op)
  | _, none => .next s
  | some len, some pa =>
    if s.board.stage ≠ 5 ∨ 2 ^ 16 < off % 2 ^ 16 + len then .next s
    else .next (match op with
      | .read n => match s.readPoc pa n with
        | some b => s.modBoard fun x => { x with hostResp := b }
        | none => s.noteLost (s.kslot (s.tile (tileOf pa)).slot).part pa
      | .write d => s.writePoc pa (s.kslot (s.tile (tileOf pa)).slot).part d 18
      | .fetchAdd z v => s.hostAtomic pa z .add v 0#64
      | .swap z v => s.hostAtomic pa z .swap v 0#64
      | .cas z c v => s.hostAtomic pa z .cas v c
      | _ => s)

end Sys2Proof.Machine
end

