-- ==== Sys2Proof/Machine/Dispatch.lean ====
section
/-! DEFINITION. One arm per constructor of Instr: each is one direct call of that instruction's meaning. -/

namespace Sys2Proof.Machine

open Sys2Proof

/-- The effect of an instruction, or of a step of another agent. -/
def exec (i : Instr) (s : State) : Host.Outcome State Fault Refusal :=
  match i with
  | .add d a b => Sys2Proof.Machine.execAdd d a b s
  | .sub d a b => Sys2Proof.Machine.execSub d a b s
  | .and d a b => Sys2Proof.Machine.execAnd d a b s
  | .or d a b => Sys2Proof.Machine.execOr d a b s
  | .xor d a b => Sys2Proof.Machine.execXor d a b s
  | .shl d a b => Sys2Proof.Machine.execShl d a b s
  | .shr d a b => Sys2Proof.Machine.execShr d a b s
  | .sra d a b => Sys2Proof.Machine.execSra d a b s
  | .mul d a b => Sys2Proof.Machine.execMul d a b s
  | .mulh d a b => Sys2Proof.Machine.execMulh d a b s
  | .mulhu d a b => Sys2Proof.Machine.execMulhu d a b s
  | .rol d a b => Sys2Proof.Machine.execRol d a b s
  | .div d a b => Sys2Proof.Machine.execDiv d a b s
  | .divu d a b => Sys2Proof.Machine.execDivu d a b s
  | .rem d a b => Sys2Proof.Machine.execRem d a b s
  | .remu d a b => Sys2Proof.Machine.execRemu d a b s
  | .min d a b => Sys2Proof.Machine.execMin d a b s
  | .max d a b => Sys2Proof.Machine.execMax d a b s
  | .minu d a b => Sys2Proof.Machine.execMinu d a b s
  | .maxu d a b => Sys2Proof.Machine.execMaxu d a b s
  | .seq d a b => Sys2Proof.Machine.execSeq d a b s
  | .sne d a b => Sys2Proof.Machine.execSne d a b s
  | .slt d a b => Sys2Proof.Machine.execSlt d a b s
  | .sltu d a b => Sys2Proof.Machine.execSltu d a b s
  | .sle d a b => Sys2Proof.Machine.execSle d a b s
  | .sleu d a b => Sys2Proof.Machine.execSleu d a b s
  | .sel d a b => Sys2Proof.Machine.execSel d a b s
  | .addw d a b => Sys2Proof.Machine.execAddw d a b s
  | .addi d a imm => Sys2Proof.Machine.execAddi d a imm s
  | .andi d a imm => Sys2Proof.Machine.execAndi d a imm s
  | .ori d a imm => Sys2Proof.Machine.execOri d a imm s
  | .xori d a imm => Sys2Proof.Machine.execXori d a imm s
  | .shli d a imm => Sys2Proof.Machine.execShli d a imm s
  | .shri d a imm => Sys2Proof.Machine.execShri d a imm s
  | .srai d a imm => Sys2Proof.Machine.execSrai d a imm s
  | .li d imm => Sys2Proof.Machine.execLi d imm s
  | .lih d imm => Sys2Proof.Machine.execLih d imm s
  | .mov d a => Sys2Proof.Machine.execMov d a s
  | .neg d a => Sys2Proof.Machine.execNeg d a s
  | .not d a => Sys2Proof.Machine.execNot d a s
  | .clz d a => Sys2Proof.Machine.execClz d a s
  | .ctz d a => Sys2Proof.Machine.execCtz d a s
  | .popc d a => Sys2Proof.Machine.execPopc d a s
  | .bswap d a => Sys2Proof.Machine.execBswap d a s
  | .sextb d a => Sys2Proof.Machine.execSextb d a s
  | .sexth d a => Sys2Proof.Machine.execSexth d a s
  | .sextw d a => Sys2Proof.Machine.execSextw d a s
  | .zextb d a => Sys2Proof.Machine.execZextb d a s
  | .zexth d a => Sys2Proof.Machine.execZexth d a s
  | .zextw d a => Sys2Proof.Machine.execZextw d a s
  | .qcnt d a => Sys2Proof.Machine.execQcnt d a s
  | .bfx d a imm => Sys2Proof.Machine.execBfx d a imm s
  | .bfi d a imm => Sys2Proof.Machine.execBfi d a imm s
  | .bez a imm => Sys2Proof.Machine.execBez a imm s
  | .bnz a imm => Sys2Proof.Machine.execBnz a imm s
  | .beq a b imm => Sys2Proof.Machine.execBeq a b imm s
  | .bne a b imm => Sys2Proof.Machine.execBne a b imm s
  | .blt a b imm => Sys2Proof.Machine.execBlt a b imm s
  | .bge a b imm => Sys2Proof.Machine.execBge a b imm s
  | .bltu a b imm => Sys2Proof.Machine.execBltu a b imm s
  | .bgeu a b imm => Sys2Proof.Machine.execBgeu a b imm s
  | .b imm => Sys2Proof.Machine.execB imm s
  | .call imm => Sys2Proof.Machine.execCall imm s
  | .loop d imm => Sys2Proof.Machine.execLoop d imm s
  | .loopStep m d imm => Sys2Proof.Machine.execLoopStep m d imm s
  | .movx d a imm => Sys2Proof.Machine.execMovx d a imm s
  | .movxw d a imm => Sys2Proof.Machine.execMovxw d a imm s
  | .jr a => Sys2Proof.Machine.execJr a s
  | .callr a => Sys2Proof.Machine.execCallr a s
  | .ret => Sys2Proof.Machine.execRet s
  | .exit => Sys2Proof.Machine.execExit s
  | .send a b mo => Sys2Proof.Machine.execSend a b mo s
  | .sendl d a b mo => Sys2Proof.Machine.execSendl d a b mo s
  | .reply a mo => Sys2Proof.Machine.execReply a mo s
  | .sends d a b mo => Sys2Proof.Machine.execSends d a b mo s
  | .srd d sr => Sys2Proof.Machine.execSrd d sr s
  | .vadd t d a b k => Sys2Proof.Machine.execVadd t d a b k s
  | .vsub t d a b k => Sys2Proof.Machine.execVsub t d a b k s
  | .vmul t d a b k => Sys2Proof.Machine.execVmul t d a b k s
  | .vdiv t d a b k => Sys2Proof.Machine.execVdiv t d a b k s
  | .vfma t d a b k => Sys2Proof.Machine.execVfma t d a b k s
  | .vfms t d a b k => Sys2Proof.Machine.execVfms t d a b k s
  | .vfnma t d a b k => Sys2Proof.Machine.execVfnma t d a b k s
  | .vfnms t d a b k => Sys2Proof.Machine.execVfnms t d a b k s
  | .vmin t d a b k => Sys2Proof.Machine.execVmin t d a b k s
  | .vmax t d a b k => Sys2Proof.Machine.execVmax t d a b k s
  | .vabsd t d a b k => Sys2Proof.Machine.execVabsd t d a b k s
  | .vcsgn t d a b k => Sys2Proof.Machine.execVcsgn t d a b k s
  | .vand t d a b k => Sys2Proof.Machine.execVand t d a b k s
  | .vor t d a b k => Sys2Proof.Machine.execVor t d a b k s
  | .vxor t d a b k => Sys2Proof.Machine.execVxor t d a b k s
  | .vandn t d a b k => Sys2Proof.Machine.execVandn t d a b k s
  | .vshl t d a b k => Sys2Proof.Machine.execVshl t d a b k s
  | .vshr t d a b k => Sys2Proof.Machine.execVshr t d a b k s
  | .vsra t d a b k => Sys2Proof.Machine.execVsra t d a b k s
  | .vmulh t d a b k => Sys2Proof.Machine.execVmulh t d a b k s
  | .vcmpeq t d a b k => Sys2Proof.Machine.execVcmpeq t d a b k s
  | .vcmplt t d a b k => Sys2Proof.Machine.execVcmplt t d a b k s
  | .vcmple t d a b k => Sys2Proof.Machine.execVcmple t d a b k s
  | .vcmpun t d a b k => Sys2Proof.Machine.execVcmpun t d a b k s
  | .vsel t d a b k => Sys2Proof.Machine.execVsel t d a b k s
  | .vperm t d a b k => Sys2Proof.Machine.execVperm t d a b k s
  | .vzip t d a b => Sys2Proof.Machine.execVzip t d a b s
  | .vunzip t d a b => Sys2Proof.Machine.execVunzip t d a b s
  | .vmov t d a k => Sys2Proof.Machine.execVmov t d a k s
  | .vneg t d a k => Sys2Proof.Machine.execVneg t d a k s
  | .vabs t d a k => Sys2Proof.Machine.execVabs t d a k s
  | .vnot t d a k => Sys2Proof.Machine.execVnot t d a k s
  | .vrint t d a k => Sys2Proof.Machine.execVrint t d a k s
  | .vclass t d a k => Sys2Proof.Machine.execVclass t d a k s
  | .vsqrt t d a k => Sys2Proof.Machine.execVsqrt t d a k s
  | .vcvt t d a p k => Sys2Proof.Machine.execVcvt t d a p k s
  | .vwidenl t d a b k => Sys2Proof.Machine.execVwidenl t d a b k s
  | .vwidenh t d a b k => Sys2Proof.Machine.execVwidenh t d a b k s
  | .vpack t d a p => Sys2Proof.Machine.execVpack t d a p s
  | .vquant t d a b k => Sys2Proof.Machine.execVquant t d a b k s
  | .vdeq t d a b k => Sys2Proof.Machine.execVdeq t d a b k s
  | .vlut4 t d a b k => Sys2Proof.Machine.execVlut4 t d a b k s
  | .vscale t d a b k => Sys2Proof.Machine.execVscale t d a b k s
  | .vredsum t d a k => Sys2Proof.Machine.execVredsum t d a k s
  | .vredmax t d a k => Sys2Proof.Machine.execVredmax t d a k s
  | .vredmin t d a k => Sys2Proof.Machine.execVredmin t d a k s
  | .vredor t d a k => Sys2Proof.Machine.execVredor t d a k s
  | .vbcast t d a k => Sys2Proof.Machine.execVbcast t d a k s
  | .vext t d a b => Sys2Proof.Machine.execVext t d a b s
  | .vins t d a b => Sys2Proof.Machine.execVins t d a b s
  | .viota t d a k => Sys2Proof.Machine.execViota t d a k s
  | .vslidedn t d a n k => Sys2Proof.Machine.execVslidedn t d a n k s
  | .vslideup t d a n k => Sys2Proof.Machine.execVslideup t d a n k s
  | .kand d a b => Sys2Proof.Machine.execKand d a b s
  | .kor d a b => Sys2Proof.Machine.execKor d a b s
  | .kxor d a b => Sys2Proof.Machine.execKxor d a b s
  | .kandn d a b => Sys2Proof.Machine.execKandn d a b s
  | .knot d a => Sys2Proof.Machine.execKnot d a s
  | .kpop t d a => Sys2Proof.Machine.execKpop t d a s
  | .kfrom d a q => Sys2Proof.Machine.execKfrom d a q s
  | .kto d a q => Sys2Proof.Machine.execKto d a q s
  | .vrot t d a b k => Sys2Proof.Machine.execVrot t d a b k s
  | .vsettype t a => Sys2Proof.Machine.execVsettype t a s
  | .vsetbase a => Sys2Proof.Machine.execVsetbase a s
  | .vgetbase d => Sys2Proof.Machine.execVgetbase d s
  | .vchain d a n => Sys2Proof.Machine.execVchain d a n s
  | .ld g z d a imm mo => Sys2Proof.Machine.execLd g z d a imm mo s
  | .st z d a imm mo => Sys2Proof.Machine.execSt z d a imm mo s
  | .ldc g z d a imm mo => Sys2Proof.Machine.execLdc g z d a imm mo s
  | .vld d a imm k mo => Sys2Proof.Machine.execVld d a imm k mo s
  | .vst d a imm k mo => Sys2Proof.Machine.execVst d a imm k mo s
  | .vlds d a b k mo => Sys2Proof.Machine.execVlds d a b k mo s
  | .vsts d a b k mo => Sys2Proof.Machine.execVsts d a b k mo s
  | .vgath p d a b k mo => Sys2Proof.Machine.execVgath p d a b k mo s
  | .vscat p d a b k mo => Sys2Proof.Machine.execVscat p d a b k mo s
  | .amoadd g z d a b mo => Sys2Proof.Machine.execAmoadd g z d a b mo s
  | .amoand g z d a b mo => Sys2Proof.Machine.execAmoand g z d a b mo s
  | .amoor g z d a b mo => Sys2Proof.Machine.execAmoor g z d a b mo s
  | .amoxor g z d a b mo => Sys2Proof.Machine.execAmoxor g z d a b mo s
  | .amomin g z d a b mo => Sys2Proof.Machine.execAmomin g z d a b mo s
  | .amomax g z d a b mo => Sys2Proof.Machine.execAmomax g z d a b mo s
  | .amoswap g z d a b mo => Sys2Proof.Machine.execAmoswap g z d a b mo s
  | .amocas g z d a b mo => Sys2Proof.Machine.execAmocas g z d a b mo s
  | .ship d a b mo => Sys2Proof.Machine.execShip d a b mo s
  | .shipn d a b mo => Sys2Proof.Machine.execShipn d a b mo s
  | .xadd t a b mo => Sys2Proof.Machine.execXadd t a b mo s
  | .xread t a mo => Sys2Proof.Machine.execXread t a mo s
  | .cpy d a b mo => Sys2Proof.Machine.execCpy d a b mo s
  | .cpyl d a b mo => Sys2Proof.Machine.execCpyl d a b mo s
  | .cpyr d a b mo => Sys2Proof.Machine.execCpyr d a b mo s
  | .cpyg d a b mo => Sys2Proof.Machine.execCpyg d a b mo s
  | .sigadd a b mo => Sys2Proof.Machine.execSigadd a b mo s
  | .sigwait d a b mo => Sys2Proof.Machine.execSigwait d a b mo s
  | .sigabort a mo => Sys2Proof.Machine.execSigabort a mo s
  | .sigread d a mo => Sys2Proof.Machine.execSigread d a mo s
  | .fence mo => Sys2Proof.Machine.execFence mo s
  | .pref a => Sys2Proof.Machine.execPref a s
  | .invl a b => Sys2Proof.Machine.execInvl a b s
  | .wbcl a b => Sys2Proof.Machine.execWbcl a b s
  | .mctx q imm => Sys2Proof.Machine.execMctx q imm s
  | .mlut q a => Sys2Proof.Machine.execMlut q a s
  | .mring a b => Sys2Proof.Machine.execMring a b s
  | .madv a b => Sys2Proof.Machine.execMadv a b s
  | .mma q a => Sys2Proof.Machine.execMma q a s
  | .mmac q a b => Sys2Proof.Machine.execMmac q a b s
  | .mtrn q a => Sys2Proof.Machine.execMtrn q a s
  | .mperm q a b => Sys2Proof.Machine.execMperm q a b s
  | .mred q a => Sys2Proof.Machine.execMred q a s
  | .mzero q a => Sys2Proof.Machine.execMzero q a s
  | .mstat m d => Sys2Proof.Machine.execMstat m d s
  | .sexp2 v t d a k => Sys2Proof.Machine.execSexp2 v t d a k s
  | .slog2 v t d a k => Sys2Proof.Machine.execSlog2 v t d a k s
  | .srcp v t d a k => Sys2Proof.Machine.execSrcp v t d a k s
  | .srsq v t d a k => Sys2Proof.Machine.execSrsq v t d a k s
  | .ssin v t d a k => Sys2Proof.Machine.execSsin v t d a k s
  | .scos v t d a k => Sys2Proof.Machine.execScos v t d a k s
  | .stanh v t d a k => Sys2Proof.Machine.execStanh v t d a k s
  | .ssig v t d a k => Sys2Proof.Machine.execSsig v t d a k s
  | .lsrun a => Sys2Proof.Machine.execLsrun a s
  | .lsstop => Sys2Proof.Machine.execLsstop s
  | .lsstat d => Sys2Proof.Machine.execLsstat d s
  | .enq a b => Sys2Proof.Machine.execEnq a b s
  | .deq a => Sys2Proof.Machine.execDeq a s
  | .deqw a => Sys2Proof.Machine.execDeqw a s
  | .wqstat a => Sys2Proof.Machine.execWqstat a s
  | .stbind d a b => Sys2Proof.Machine.execStbind d a b s
  | .stfree d a => Sys2Proof.Machine.execStfree d a s
  | .putc d a b => Sys2Proof.Machine.execPutc d a b s
  | .getr d a b => Sys2Proof.Machine.execGetr d a b s
  | .beam a => Sys2Proof.Machine.execBeam a s
  | .rodget d a b => Sys2Proof.Machine.execRodget d a b s
  | .rodwait d a b => Sys2Proof.Machine.execRodwait d a b s
  | .rodfree a => Sys2Proof.Machine.execRodfree a s
  | .rodstat d a b => Sys2Proof.Machine.execRodstat d a b s
  | .flowopen d a b => Sys2Proof.Machine.execFlowopen d a b s
  | .flowclose a => Sys2Proof.Machine.execFlowclose a s
  | .grun d a b => Sys2Proof.Machine.execGrun d a b s
  | .gcancel d a => Sys2Proof.Machine.execGcancel d a s
  | .xall a => Sys2Proof.Machine.execXall a s
  | .cancel d a b => Sys2Proof.Machine.execCancel d a b s
  | .trap a => Sys2Proof.Machine.execTrap a s
  | .syscall a => Sys2Proof.Machine.execSyscall a s
  | .bkpt => Sys2Proof.Machine.execBkpt s
  | .sret d a b => Sys2Proof.Machine.execSret d a b s
  | .swr a sr => Sys2Proof.Machine.execSwr a sr s
  | .ckpt a => Sys2Proof.Machine.execCkpt a s
  | .maskw => Sys2Proof.Machine.execMaskw s
  | .unmaskw => Sys2Proof.Machine.execUnmaskw s
  | .tlbi a b => Sys2Proof.Machine.execTlbi a b s
  | .keyld d a b => Sys2Proof.Machine.execKeyld d a b s
  | .waitev d a b => Sys2Proof.Machine.execWaitev d a b s
  | .haltc d a => Sys2Proof.Machine.execHaltc d a s
  | .instructionFetchFill core ctx => Sys2Proof.Machine.execInstructionFetchFill core ctx s
  | .niTakeSend core => Sys2Proof.Machine.execNiTakeSend core s
  | .messageArrival j => Sys2Proof.Machine.execMessageArrival j s
  | .streamArrival j => Sys2Proof.Machine.execStreamArrival j s
  | .streamendArrival j => Sys2Proof.Machine.execStreamendArrival j s
  | .acknowledgementArrival j => Sys2Proof.Machine.execAcknowledgementArrival j s
  | .inboundRefill core => Sys2Proof.Machine.execInboundRefill core s
  | .dispatch core => Sys2Proof.Machine.execDispatch core s
  | .kick part job jgen handle size k => Sys2Proof.Machine.execKick part job jgen handle size k s
  | .ctrlResume part job jgen handle => Sys2Proof.Machine.execCtrlResume part job jgen handle s
  | .ctrlStop part job jgen handle => Sys2Proof.Machine.execCtrlStop part job jgen handle s
  | .queueSwapIn key evict => Sys2Proof.Machine.execQueueSwapIn key evict s
  | .queueSwapOut key => Sys2Proof.Machine.execQueueSwapOut key s
  | .packetRead key => Sys2Proof.Machine.execPacketRead key s
  | .slotRereadPoll key => Sys2Proof.Machine.execSlotRereadPoll key s
  | .packetStart die => Sys2Proof.Machine.execPacketStart die s
  | .launchPacket key clusters => Sys2Proof.Machine.execLaunchPacket key clusters s
  | .seedPacket rid => Sys2Proof.Machine.execSeedPacket rid s
  | .copyPacket rid => Sys2Proof.Machine.execCopyPacket rid s
  | .barrierPacket rid => Sys2Proof.Machine.execBarrierPacket rid s
  | .barrierPoll rid => Sys2Proof.Machine.execBarrierPoll rid s
  | .signalPacket rid => Sys2Proof.Machine.execSignalPacket rid s
  | .fencePacket rid => Sys2Proof.Machine.execFencePacket rid s
  | .graphPacket rid => Sys2Proof.Machine.execGraphPacket rid s
  | .xallPacket rid => Sys2Proof.Machine.execXallPacket rid s
  | .cancelPacket rid => Sys2Proof.Machine.execCancelPacket rid s
  | .nopPacket rid => Sys2Proof.Machine.execNopPacket rid s
  | .wqEnq core ctx => Sys2Proof.Machine.execWqEnq core ctx s
  | .wqDeq core ctx => Sys2Proof.Machine.execWqDeq core ctx s
  | .wqDeqw core ctx => Sys2Proof.Machine.execWqDeqw core ctx s
  | .wqWqstat core ctx => Sys2Proof.Machine.execWqWqstat core ctx s
  | .sfuResult cluster => Sys2Proof.Machine.execSfuResult cluster s
  | .lsRunStart core ctx => Sys2Proof.Machine.execLsRunStart core ctx s
  | .lsEmit core run isCopy => Sys2Proof.Machine.execLsEmit core run isCopy s
  | .lsCompletion core run j isCopy => Sys2Proof.Machine.execLsCompletion core run j isCopy s
  | .lsRunEnd core run => Sys2Proof.Machine.execLsRunEnd core run s
  | .translationWalk tag => Sys2Proof.Machine.execTranslationWalk tag s
  | .walkbusy tag => Sys2Proof.Machine.execWalkbusy tag s
  | .walkrespRetry tag => Sys2Proof.Machine.execWalkrespRetry tag s
  | .walkrespRefusePage tag => Sys2Proof.Machine.execWalkrespRefusePage tag s
  | .walkrespRefusePerm tag => Sys2Proof.Machine.execWalkrespRefusePerm tag s
  | .stage2Invalidation v => Sys2Proof.Machine.execStage2Invalidation v s
  | .sidelogDiscard core dctx => Sys2Proof.Machine.execSidelogDiscard core dctx s
  | .s2rootWrite part v => Sys2Proof.Machine.execS2rootWrite part v s
  | .translate part job jgen va len acc tag reply holder => Sys2Proof.Machine.execTranslate part job jgen va len acc tag reply holder s
  | .acknowledgeInvalidation tag => Sys2Proof.Machine.execAcknowledgeInvalidation tag s
  | .invalidationTimeout tag => Sys2Proof.Machine.execInvalidationTimeout tag s
  | .sealFill cluster line => Sys2Proof.Machine.execSealFill cluster line s
  | .fullTileWrite j => Sys2Proof.Machine.execFullTileWrite j s
  | .partialWrite j => Sys2Proof.Machine.execPartialWrite j s
  | .tileWriteBack tile => Sys2Proof.Machine.execTileWriteBack tile s
  | .versionTreeIncrement j => Sys2Proof.Machine.execVersionTreeIncrement j s
  | .exhaustionTimeout tile => Sys2Proof.Machine.execExhaustionTimeout tile s
  | .rekey pa slot => Sys2Proof.Machine.execRekey pa slot s
  | .treeinit pa => Sys2Proof.Machine.execTreeinit pa s
  | .hbmRefresh stack l temp => Sys2Proof.Machine.execHbmRefresh stack l temp s
  | .clusterCacheWriteBack cluster line evict => Sys2Proof.Machine.execClusterCacheWriteBack cluster line evict s
  | .atomicAtPointOfCoherence j => Sys2Proof.Machine.execAtomicAtPointOfCoherence j s
  | .shipRoutine j => Sys2Proof.Machine.execShipRoutine j s
  | .routineLoad index align image sig => Sys2Proof.Machine.execRoutineLoad index align image sig s
  | .exactCellAdd j => Sys2Proof.Machine.execExactCellAdd j s
  | .exactCellRead j => Sys2Proof.Machine.execExactCellRead j s
  | .signalOperation j => Sys2Proof.Machine.execSignalOperation j s
  | .sigwaitPoll core ctx => Sys2Proof.Machine.execSigwaitPoll core ctx s
  | .copyOpCpy core ctx => Sys2Proof.Machine.execCopyOpCpy core ctx s
  | .copyOpCpyl core ctx => Sys2Proof.Machine.execCopyOpCpyl core ctx s
  | .copyOpCpyr core ctx => Sys2Proof.Machine.execCopyOpCpyr core ctx s
  | .copyOpCpyg core ctx => Sys2Proof.Machine.execCopyOpCpyg core ctx s
  | .copyCompletion cluster run => Sys2Proof.Machine.execCopyCompletion cluster run s
  | .mcmdMma core strm => Sys2Proof.Machine.execMcmdMma core strm s
  | .mcmdMmac core strm => Sys2Proof.Machine.execMcmdMmac core strm s
  | .mcmdMtrn core strm => Sys2Proof.Machine.execMcmdMtrn core strm s
  | .mcmdMperm core strm => Sys2Proof.Machine.execMcmdMperm core strm s
  | .mcmdMred core strm => Sys2Proof.Machine.execMcmdMred core strm s
  | .mcmdMzero core strm => Sys2Proof.Machine.execMcmdMzero core strm s
  | .mcmdMctx core strm => Sys2Proof.Machine.execMcmdMctx core strm s
  | .mcmdMlut core strm => Sys2Proof.Machine.execMcmdMlut core strm s
  | .mcmdMalformed core strm => Sys2Proof.Machine.execMcmdMalformed core strm s
  | .matrixStep cluster => Sys2Proof.Machine.execMatrixStep cluster s
  | .cooptimeout cluster place => Sys2Proof.Machine.execCooptimeout cluster place s
  | .messagePacket port pkt => Sys2Proof.Machine.execMessagePacket port pkt s
  | .bead port pkt => Sys2Proof.Machine.execBead port pkt s
  | .beamArrival port pkt => Sys2Proof.Machine.execBeamArrival port pkt s
  | .shortNotice port pkt => Sys2Proof.Machine.execShortNotice port pkt s
  | .faultNotice port pkt => Sys2Proof.Machine.execFaultNotice port pkt s
  | .rodTimerExpiry rod => Sys2Proof.Machine.execRodTimerExpiry rod s
  | .beamRepeat rod => Sys2Proof.Machine.execBeamRepeat rod s
  | .retransmitWindowDeadline rod => Sys2Proof.Machine.execRetransmitWindowDeadline rod s
  | .rodRearm rod => Sys2Proof.Machine.execRodRearm rod s
  | .quarantineEnd rod => Sys2Proof.Machine.execQuarantineEnd rod s
  | .beadInjection die => Sys2Proof.Machine.execBeadInjection die s
  | .readreq port pkt => Sys2Proof.Machine.execReadreq port pkt s
  | .readresp port pkt => Sys2Proof.Machine.execReadresp port pkt s
  | .readTimeout tag => Sys2Proof.Machine.execReadTimeout tag s
  | .atomic port pkt => Sys2Proof.Machine.execAtomic port pkt s
  | .atomicresp port pkt => Sys2Proof.Machine.execAtomicresp port pkt s
  | .store port pkt => Sys2Proof.Machine.execStore port pkt s
  | .flowack port pkt => Sys2Proof.Machine.execFlowack port pkt s
  | .flowackTimer j => Sys2Proof.Machine.execFlowackTimer j s
  | .flowRetransmit core j => Sys2Proof.Machine.execFlowRetransmit core j s
  | .isolClear peer => Sys2Proof.Machine.execIsolClear peer s
  | .graphload fn seq part job jgen handle va => Sys2Proof.Machine.execGraphload fn seq part job jgen handle va s
  | .graphunload fn seq part job jgen handle => Sys2Proof.Machine.execGraphunload fn seq part job jgen handle s
  | .graphInstanceStart key => Sys2Proof.Machine.execGraphInstanceStart key s
  | .nodeCopy key n => Sys2Proof.Machine.execNodeCopy key n s
  | .nodePutc key n => Sys2Proof.Machine.execNodePutc key n s
  | .nodeBeam key n => Sys2Proof.Machine.execNodeBeam key n s
  | .nodeRodwait key n => Sys2Proof.Machine.execNodeRodwait key n s
  | .nodeReduce key n => Sys2Proof.Machine.execNodeReduce key n s
  | .nodeSend key n => Sys2Proof.Machine.execNodeSend key n s
  | .nodeLaunch key n clusters => Sys2Proof.Machine.execNodeLaunch key n clusters s
  | .nodeFinish key n => Sys2Proof.Machine.execNodeFinish key n s
  | .reduceTile key n tile => Sys2Proof.Machine.execReduceTile key n tile s
  | .instanceRetire key => Sys2Proof.Machine.execInstanceRetire key s
  | .instanceAbort key => Sys2Proof.Machine.execInstanceAbort key s
  | .graphStoppedEnd key => Sys2Proof.Machine.execGraphStoppedEnd key s
  | .xallStart id => Sys2Proof.Machine.execXallStart id s
  | .xallFinish id => Sys2Proof.Machine.execXallFinish id s
  | .tcmdRead core ctx => Sys2Proof.Machine.execTcmdRead core ctx s
  | .tcmdWrite core ctx => Sys2Proof.Machine.execTcmdWrite core ctx s
  | .watchdog core ctx => Sys2Proof.Machine.execWatchdog core ctx s
  | .parklim core ctx => Sys2Proof.Machine.execParklim core ctx s
  | .masklen core ctx => Sys2Proof.Machine.execMasklen core ctx s
  | .partitionReset part => Sys2Proof.Machine.execPartitionReset part s
  | .preemptSave die => Sys2Proof.Machine.execPreemptSave die s
  | .preemptRestore die => Sys2Proof.Machine.execPreemptRestore die s
  | .fullSave core ctx => Sys2Proof.Machine.execFullSave core ctx s
  | .migrate fn seq part target targetFree => Sys2Proof.Machine.execMigrate fn seq part target targetFree s
  | .eventTick core => Sys2Proof.Machine.execEventTick core s
  | .launchComplete key => Sys2Proof.Machine.execLaunchComplete key s
  | .phaseComplete part job phase => Sys2Proof.Machine.execPhaseComplete part job phase s
  | .jobComplete part job => Sys2Proof.Machine.execJobComplete part job s
  | .cancelMark core key => Sys2Proof.Machine.execCancelMark core key s
  | .cancelGraceEnd core key => Sys2Proof.Machine.execCancelGraceEnd core key s
  | .coldReset selftest detail => Sys2Proof.Machine.execColdReset selftest detail s
  | .gracefulWarmReset selftest detail => Sys2Proof.Machine.execGracefulWarmReset selftest detail s
  | .fatalWarmReset selftest detail => Sys2Proof.Machine.execFatalWarmReset selftest detail s
  | .gracefulResetTimeout selftest detail => Sys2Proof.Machine.execGracefulResetTimeout selftest detail s
  | .mailboxStatus fn seq => Sys2Proof.Machine.execMailboxStatus fn seq s
  | .flashwrite fn seq off data => Sys2Proof.Machine.execFlashwrite fn seq off data s
  | .reboot fn seq => Sys2Proof.Machine.execReboot fn seq s
  | .partcfg fn seq cfg => Sys2Proof.Machine.execPartcfg fn seq cfg s
  | .jobcreate fn seq addr desc => Sys2Proof.Machine.execJobcreate fn seq addr desc s
  | .jobclose fn seq part job jgen => Sys2Proof.Machine.execJobclose fn seq part job jgen s
  | .attest fn seq nonce => Sys2Proof.Machine.execAttest fn seq nonce s
  | .vfFunctionLevelReset vf => Sys2Proof.Machine.execVfFunctionLevelReset vf s
  | .hostAccess fn off op => Sys2Proof.Machine.execHostAccess fn off op s
  | .powerWindow energy mean => Sys2Proof.Machine.execPowerWindow energy mean s
  | .pwrcapWrite v => Sys2Proof.Machine.execPwrcapWrite v s
  | .thermalBandCrossing pt temp => Sys2Proof.Machine.execThermalBandCrossing pt temp s
  | .svnburn n => Sys2Proof.Machine.execSvnburn n s
  | .clpartWrite cluster v => Sys2Proof.Machine.execClpartWrite cluster v s
  | .registerWrite reg v => Sys2Proof.Machine.execRegisterWrite reg v s
  | .undef cause => Sys2Proof.Machine.execUndef cause s
  | .waitevTimeout core ctx => Sys2Proof.Machine.execWaitevTimeout core ctx s
  | .modulePowerRemoval => Sys2Proof.Machine.execModulePowerRemoval s
  | .unpairedHalfExpiry j => Sys2Proof.Machine.execUnpairedHalfExpiry j s
  | .badtypePacket port pkt => Sys2Proof.Machine.execBadtypePacket port pkt s

end Sys2Proof.Machine
end

