-- ==== Sys2Proof/Machine/Step.lean ====
section
/-! DEFINITION. One step of the machine, and the state in which the next step runs a given instruction. -/

namespace Sys2Proof.Machine

open Sys2Proof

/-- A slot of a core issues its context's next instruction (R93). No instruction runs in the safe diagnostic state (R450). -/
def State.issueAt (s : State) (core ctx : Nat) (engine : Bool) : Host.Outcome State Fault Refusal :=
  if s.board.safe then .next { s with clock := s.clock + 1 }
  else match (s.core core).issue (s.ctx core ctx) s.clock with
  | .run i n => exec i (s.atIssue core ctx n engine)
  | .undefined c => Sys2Proof.Machine.execUndef c (s.atIssue core ctx 1 engine)
  | .maskLimit => Sys2Proof.Machine.State.maskTrap (s.atIssue core ctx 1 engine)
  | .nothing => .next { s with clock := s.clock + 1 }

/-- What moves is the head of the agenda: a step of another agent, the issue of a slot, or the passing of time. With an empty agenda
the lowest core with a context that competes issues, and where none does a fetch is filled. -/
def stepSettled (s : State) : Host.Outcome State Fault Refusal :=
  match s.agenda with
  | .event i :: t =>
    if isStep i then exec i { s with agenda := t, clock := s.clock + 1 }
    else .next { s with agenda := t, clock := s.clock + 1 }
  | .issue core engine :: t =>
    match (s.core core).choose engine with
    | some c => State.issueAt { s with agenda := t } core c engine
    | none => .next { s with agenda := t, clock := s.clock + 1 }
  | .elapse n :: t => .next { s with agenda := t, clock := s.clock + max n 1 }
  | [] =>
    match s.turn with
    | some (core, c, engine) => s.issueAt core c engine
    | none =>
      match s.fetchTurn with
      | some (core, c) => Sys2Proof.Machine.execInstructionFetchFill core c { s with clock := s.clock + 1 }
      | none => .next { s with clock := s.clock + 1 }

/-- Without module power nothing runs until a cold reset (R448, R457). -/
def stepUnpowered (s : State) : Host.Outcome State Fault Refusal :=
  match s.agenda with
  | [] => .fault .unpowered
  | .event (.coldReset selftest detail) :: t => Sys2Proof.Machine.execColdReset selftest detail { s with agenda := t }
  | _ :: t => .next { s with agenda := t }

/-- One step. Contexts whose cause of waiting has cleared run again first (R87), and flag
actions that wait are tried again (R354), as are packets whose effect waits. -/
def step (s : State) : Host.Outcome State Fault Refusal :=
  if s.board.powered then stepSettled s.settle.dueFlags.dueArrivals else stepUnpowered s

/-- The state with an instruction placed where the next step fetches it: core 0 runs a user task in context 0 whose code page is in
the fetch buffer, and nothing else is due. -/
def State.withFetchWord (s : State) (nbits w : Nat) : State :=
  let words := tableWords nbits w ++ [0, 0, 0, 0]
  let bytes := (words.flatMap fun h => leBytes 2 h.toNat) ++ List.replicate 64 0#8
  let x : Ctx := { st := .running, pc := wd Config.globalBase, alloc := 24, rows := 128, lid := 1, runAt := some s.clock }
  let r : Resv := { part := 0, lid := 1, lgen := 0, job := 0, spots := [0], regs := 24, rowBase := 0, rows := 128,
                    spBase := 0, spBytes := 4096, stkBytes := 256, ring := 0, ringBytes := 0 }
  let line : FLine := { part := 0, job := 0, va := Config.globalBase, pa := 0, data := bytes.take 64 }
  { s with cores := [(0, { ctxs := [(0, x)], resvs := [r], fetch := [line] })], agenda := [],
           board := { s.board with powered := true, safe := false } }

end Sys2Proof.Machine
end

