-- ==== Sys2Proof/Safety.lean ====
section
/-! DEFINITION. The terms in which claims are stated: an operand stage that passes and the state it leaves, how an instruction
completes, the canonical memory, and what a step may leave as it was. -/

namespace Sys2Proof.Machine

/-- The ports that an instruction still takes words from, in the order a, b, d (R120); those of an earlier attempt are in the latch
(R121). -/
def State.need (s : State) (d a b : Opnd) : List Nat := ([a, b, d].filterMap Opnd.popsFrom).drop s.me.latch.length

/-- The context after its words have been popped together (R120, R121, R328). -/
def State.taken (s : State) (d a b : Opnd) : Ctx :=
  if s.need d a b = [] then s.me else { s.me.popAll (s.need d a b) with acqStamp := s.clock }

/-- Whether the operand stage passes: the checks of R109, words in every port that is read, room in every port that is pushed to, and
fewer than six staged words where a result goes to q0 (R109, R117 to R122, R149). -/
def State.ready (s : State) (d a b : Opnd) (extra : List (Nat × Nat) := []) : Bool :=
  (operandCheck s.me [d, a, b]).isNone && (shortPop s.me [] (s.need d a b)).isNone
    && ((([d, a, b].filterMap Opnd.pushesTo).map (fun q => (q, 1)) ++ extra).all fun p => decide (p.2 ≤ s.me.room p.1))
    && !(s.taken d a b).overstaged [d, a, b]

/-- The flags that came with popped words, and whether none of them is enabled in FPCTL (R181, R182). -/
def State.popped (s : State) (d a b : Opnd) : List (Nat × FlagBits) := latchFlags (s.taken d a b).latch
@[inherit_doc State.popped] def State.quiet (s : State) (d a b : Opnd) : Bool :=
  decide (allFlags (s.popped d a b) &&& s.me.fpEnables = 0#5)

/-- Words of matrix completions that are popped enter the context's matrix status (R308). -/
def State.noted (s : State) (words : List Word) : State :=
  if words = [] then s
  else s.modMyCore fun k =>
    let m := k.mx.get {} s.cur.ctx
    { k with mx := k.mx.set s.cur.ctx { m with fl := words.foldl (fun f w => f ||| wbits w 14 12) m.fl } }

/-- The state that the operand stage leaves, before any flag is raised and after the popped words' flags are. -/
def State.opened (s : State) (d a b : Opnd) : State :=
  (s.begin.setMe (s.taken d a b)).noted (s.me.q3.take ((s.need d a b).count 3))
@[inherit_doc State.opened] def State.raised (s : State) (f : List (Nat × FlagBits)) : State :=
  { s with cur := { s.cur with flags := s.cur.flags ++ f } }
@[inherit_doc State.opened] def State.started (s : State) (d a b : Opnd) : State := (s.opened d a b).raised (s.popped d a b)

/-- The values that the fields read. -/
def State.vals (s : State) (d a b : Opnd) : Vals := valsOf (s.taken d a b) d a b

/-- The instruction at issue completes: the PC moves on, FPFLAGS receives its flags, and its slot goes to the next context (R94,
R121, R180). -/
def State.done (s : State) : State := s.retire.rotate

/-- A result written to x[n] by the context at issue, with its taint bit (R117, R135). -/
def State.putX (s : State) (n : Nat) (w : Word) (taint : Bool := false) : State := s.pushed (s.me.writeX s.clock n w taint)

/-- The operand stage passes with no enabled flag among popped words: two register sources and a register destination, one source,
two sources alone, one source alone, a register that is read and written, and a destination alone. -/
def State.ready3 (s : State) (d a b : Nat) : Bool := s.ready (.dst d) (.src a) (.src b) && s.quiet (.dst d) (.src a) (.src b)
@[inherit_doc State.ready3] def State.ready2 (s : State) (d a : Nat) : Bool := s.ready (.dst d) (.src a) .none && s.quiet (.dst d) (.src a) .none
@[inherit_doc State.ready3] def State.readyAB (s : State) (a b : Nat) : Bool := s.ready .none (.src a) (.src b) && s.quiet .none (.src a) (.src b)
@[inherit_doc State.ready3] def State.readyA (s : State) (a : Nat) : Bool := s.ready .none (.src a) .none && s.quiet .none (.src a) .none
@[inherit_doc State.ready3] def State.readyD (s : State) (d : Nat) : Bool := s.ready (.dst d) .none .none && s.quiet (.dst d) .none .none

/-- The state after a result of two register sources, of one, or of none has been written to x[d], with its taint (R135). -/
def State.result3 (s : State) (d a b : Nat) (f : Word → Word → Word) : State :=
  let v := s.vals (.dst d) (.src a) (.src b)
  ((s.started (.dst d) (.src a) (.src b)).putX d (f v.a v.b) (taintOf s.me [.src a, .src b])).done
@[inherit_doc State.result3] def State.result2 (s : State) (d a : Nat) (f : Word → Word) : State :=
  ((s.started (.dst d) (.src a) .none).putX d (f (s.vals (.dst d) (.src a) .none).a) (taintOf s.me [.src a])).done
@[inherit_doc State.result3] def State.resultD (s : State) (d : Nat) (w : Word) : State :=
  ((s.started (.dst d) .none .none).putX d w).done

/-- The instruction at issue goes on at another address. -/
def State.goto (s : State) (t : Word) : State := { s with cur := { s.cur with npc := t } }

/-- The context at issue changed. -/
def State.withMe (s : State) (f : Ctx → Ctx) : State := s.setMe (f s.me)

/-- The row that vector operand n of the context at issue names, and its writing (R122). -/
def State.rowOf (s : State) (n : Nat) : Row := s.myCore.row (s.me.rowIdx s.me.vbase n)
@[inherit_doc State.rowOf] def State.putRow (s : State) (n : Nat) (v : Row) : State :=
  s.modMyCore fun k => k.setRow (s.me.rowIdx s.me.vbase n) v

/-- Lanes written to row d of the context at issue; lanes without a result keep their value (R197). -/
def State.putLanes (s : State) (d w : Nat) (out : LaneOut) : State := s.putRow d (Sys2Proof.Machine.putLanes w (s.rowOf d) out)

/-- The active lanes of row d receive what src gives, where it gives a value (R197, R205 to R207). -/
def State.moved (s : State) (ty d k : Nat) (src : Nat → Option Nat) : State :=
  s.putLanes d (laneBits ty) ((List.range (laneCount ty)).map fun i =>
    if activeLane (s.me.governing k) i then (src i).map plain else none)

/-- No flag that an enable covers is raised by lanes after those of popped words (R181). -/
def State.silent (s : State) (d a b : Opnd) (lanes : List (Nat × FlagBits)) : Prop :=
  allFlags (s.popped d a b ++ lanes) &&& s.me.fpEnables = 0#5

/-- The release half of an ordered access has nothing left to wait for, and the state it leaves (R341). -/
def State.mayRelease (s : State) (scope : Nat) : Bool := s.released s.cur.core s.cur.ctx scope (s.me.relAt.getD s.clock)
@[inherit_doc State.mayRelease] def State.letsGo (s : State) (mo : Option MemOrd) : Bool := !isRelease mo || s.mayRelease (scopeOf mo)
@[inherit_doc State.mayRelease] def State.noteRelease (s : State) : State := s.withMe fun x => { x with relAt := some (x.relAt.getD s.clock) }
@[inherit_doc State.mayRelease] def State.releasing (s : State) (mo : Option MemOrd) : State := if isRelease mo then s.noteRelease else s

/-- The acquire half of an ordered access (R335, R341). -/
def State.acquiredAt (s : State) (scope : Nat) : State := s.withMe fun x => { x with acqStamp := s.acqTime scope }
@[inherit_doc State.acquiredAt] def State.acquired (s : State) (mo : Option MemOrd) : State :=
  if isAcquire mo then s.acquiredAt (scopeOf mo) else s

/-- The acquire half of a posted access, which waits until the access has been performed (R341). -/
def State.acquiredPosted (s : State) (va : Nat) (mo : Option MemOrd) : State :=
  if isAcquire mo && s.postedLeft s.cur.core s.cur.ctx va then s.blockMe (.acquire (scopeOf mo) va) else s.acquired mo

/-- The window of the context at issue that an access of n bytes lies in: the scratchpad or the stack (R232, R233). -/
def State.localWin (s : State) (a n : Nat) : Option Win :=
  match s.steer s.cur.core s.me a n with
  | some .glob => none
  | w => w

/-- Bytes of the scratchpad or stack window of the context at issue, and their writing. -/
def State.here (s : State) (w : Win) (a n : Nat) : List Byte := s.localBytes s.cur.core s.me w a n
@[inherit_doc State.here] def State.keep (s : State) (w : Win) (a : Nat) (b : List Byte) : State := s.storeLocal s.cur.core s.me w a b

/-- The lanes of a row access all lie in the scratchpad window, aligned to a number of bytes (R265). -/
def State.inScratch (s : State) (w align : Nat) (lanes : List (Nat × Nat)) : Bool :=
  lanes.all fun p => decide (p.2 % align = 0) && s.localWin p.2 w == some .scratch

/-- Lanes of w bytes loaded from the scratchpad; those of zeros read zero, the others keep their value (R270, R271, R273). -/
def State.laneLoad (s : State) (d w n : Nat) (lanes : List (Nat × Nat)) (zeros : List Nat) : State :=
  s.putLanes d (8 * w) ((List.range n).map fun i =>
    match lanes.find? fun p => p.1 == i with
    | some p => some (plain (leNat (s.here .scratch p.2 w)))
    | none => if zeros.contains i then some (plain 0) else none)

/-- Lanes of w bytes of a row stored to the scratchpad, in lane order (R271). -/
def State.laneStore (s : State) (r : Row) (w : Nat) (lanes : List (Nat × Nat)) : State :=
  (lanes.flatMap fun p => cellsAt p.2 (leBytes w (laneAt (8 * w) r p.1))).foldl (fun s c => s.keep .scratch c.1 [c.2]) s

/-- The answer to the request of the context at issue about an address has arrived, and it is no fault. -/
def State.answeredAt (s : State) (va : Nat) : Bool :=
  match s.me.asked va with
  | some p => match p.ans with
    | some (.fault _ _) => false
    | some _ => true
    | none => false
  | none => false

/-- An 8-byte, 64-byte or unaligned range in the global window that passes its checks (R265, R287). -/
def State.globalOk (s : State) (va n align : Nat) : Bool :=
  (decide (align = 0) || decide (va % align = 0)) && s.steer s.cur.core s.me va n == some .glob

/-- The translation that the cluster holds for the context at issue, of a page of which the context has nothing in the side log. -/
def State.hitFor (s : State) (va acc : Nat) : Option TlbEnt :=
  if s.myCore.logged s.cur.ctx (pageOf va) then none else (s.cluster (clusterOf s.cur.core)).hit s.me.part s.me.job va acc

/-- The bytes that a load of the context at issue within one line takes at once: from a line of its cluster's cache that it may use, from
device or host memory where the page does not go through the cache and nothing of the line waits, or from a peer's answer to the request
that the load has made (R234, R246, R266 to R268, R364). -/
def State.lineHit (s : State) (stamp va n : Nat) : Option (List Byte) :=
  (s.hitFor va 0).bind fun e =>
    let pa := e.phys va
    let line := lineOf pa
    let c := s.cluster (clusterOf s.cur.core)
    match paKind pa with
    | .invalid => none
    | .peer _ => if (s.reachPeer pa).isNone then none else (s.me.asked va).bind fun p => p.ans.bind fun a => match a with
      | .bytes b => some b
      | .word w => some (leBytes n w.toNat)
      | .fault _ _ => none
    | .sealed | .host =>
      if !s.cached s.cur.core e then
        if (c.cache.find line).isSome || s.ownPending s.cur.core s.cur.ctx line line then none else s.readPoc pa n
      else if (s.poc.any fun r => r.origin == .ctx s.cur.core s.cur.ctx && r.touches line line) then none
      else ((c.cache.find line).filter fun l => l.serves s.clock stamp (pa % 64) n).map fun l => l.bytes (pa % 64) n

/-- The bytes of a window that a load of the context at issue takes at once: those of the scratchpad or the stack, or of lines of the
global window that it can take at once (R232 to R234, R266). -/
def State.loads (s : State) (stamp : Nat) (w : Win) (va n : Nat) : Option (List Byte) :=
  if w = .glob then ((splitAt 64 (n + 1) va n).mapM fun p => s.lineHit stamp p.1 p.2).map List.flatten else some (s.here w va n)

/-- The values of lanes of w bytes, aligned to a number of bytes, that a row load takes at once (R265, R270, R271). -/
def State.laneHits (s : State) (stamp w align : Nat) (lanes : List (Nat × Nat)) : Option (List (Nat × Nat)) :=
  lanes.mapM fun p => if p.2 % align ≠ 0 then none
    else (s.steer s.cur.core s.me p.2 w).bind fun win => (s.loads stamp win p.2 w).map fun b => (p.1, leNat b)

/-- Lanes of w bytes that got a value, and those of zeros, written to row d (R270, R271, R273). -/
def State.gotLanes (s : State) (d w n : Nat) (got : List (Nat × Nat)) (zeros : List Nat) : State :=
  s.putLanes d (8 * w) ((List.range n).map fun i =>
    match got.find? fun p => p.1 == i with
    | some p => some (plain p.2)
    | none => if zeros.contains i then some (plain 0) else none)

/-- The lanes of a row access all lie in the global window, aligned to a number of bytes (R265). -/
def State.inGlob (s : State) (w align : Nat) (lanes : List (Nat × Nat)) : Bool :=
  lanes.all fun p => decide (p.2 % align = 0) && s.steer s.cur.core s.me p.2 w == some .glob

/-- The pages of cells that a store of the context at issue makes at once, each with its cells and a translation that lets them be
stored; the side log has no entry too many and no page has been stored already (R247, R271). -/
def State.storeHits (s : State) (cells : List (Nat × Byte)) : Option (List (TlbEnt × List (Nat × Byte))) :=
  if s.me.pend ≠ [] ∨ 64 < s.myCore.log.length then none
  else (pagesOf cells).mapM fun p =>
    let mine := cells.filter fun c => pageOf c.1 == p
    let va := (mine.head?.map (·.1)).getD 0
    ((s.hitFor va 1).filter fun e => State.storable s (e.phys va)).map fun e => (e, mine)
@[inherit_doc State.storeHits] def State.storePages (s : State) (plan : List (TlbEnt × List (Nat × Byte))) : State :=
  plan.foldl (fun s p => s.storePage s.cur.core s.cur.ctx s.me.part s.me.job p.1 p.2) s

/-- The cells of lanes of a row, in lane order (R271). -/
def lanesCells (r : Row) (w : Nat) (lanes : List (Nat × Nat)) : List (Nat × Byte) :=
  lanes.flatMap fun p => cellsAt p.2 (leBytes w (laneAt (8 * w) r p.1))

/-- A posted operation of the context at issue performed under a translation. -/
def State.posted (s : State) (va : Nat) (op : LogOp) (e : TlbEnt) : State :=
  s.postNow s.cur.core s.cur.ctx s.me.part s.me.job va op e

/-- A send to some destinations passes the checks of R152: a flow for an ordered one, and at most two counted H messages. -/
def State.sendOk (s : State) (pri : Bool) (cw : Word) (list : Bool) (dests : List Dest) : Bool :=
  (!wbit cw 31 || dests.all fun d => (s.flowsOf s.cur.core).any (flowFor list (wbits cw 63 56) pri d))
    && !(pri && decide (2 < s.me.hsent + dests.length))

/-- The send word entered at the end of q0 (R149 to R155). -/
def State.sendWord (s : State) (kind : MsgKind) (pri : Bool) (cw : Word) (launch : Nat × Nat) (len : Nat) (list : Bool)
    (dests : List Dest) (mo : Option MemOrd) : State :=
  s.withMe fun x => { x with
    hsent := x.hsent + (if pri then dests.length else 0),
    q0 := x.q0 ++ [.send { kind := kind, pri := pri, ord := wbit cw 31, flow := wbits cw 63 56, handler := wbits cw 53 48,
                           lid := launch.1, lgen := launch.2, len := len, list := list, dests := dests,
                           rel := if isRelease mo then some (scopeOf mo, s.clock) else none }] }

/-- The flags that the instruction at issue has raised in FPFLAGS (R180, R182). -/
def State.flagged (s : State) : State :=
  if s.cur.flags = [] then s else s.noteFlags s.cur.core s.cur.ctx (allFlags s.cur.flags)

/-- The instruction at issue traps without a change but what its operand stage made (R402 to R406). -/
def State.trapped (s : State) (cause : Nat) (addr : Word := 0#64) : State := (s.takeTrap cause addr).rotate

/-- The byte of device, second-tier, host or scratch memory at a physical address, as the model reads it. -/
def State.byteOf (s : State) (pa : Nat) : Byte := s.mem.byte pa

/-- What a form leaves as it was in the context at issue and everywhere else: every general register but dst, the masks, the special
registers but FPFLAGS, the trap registers unless it parks, every accumulator row but row, every other context, every scratchpad and every
byte of memory. -/
def State.keepsBut (s t : State) (dst row : Option Nat) : Prop :=
  let x := s.me
  let y := t.ctx s.cur.core s.cur.ctx
  (∀ n, n < 24 → some n ≠ dst → y.reg n = x.reg n) ∧ y.masks = x.masks
  ∧ y.alloc = x.alloc ∧ y.rows = x.rows ∧ y.rowBase = x.rowBase ∧ y.vbase = x.vbase ∧ y.vtype = x.vtype
  ∧ y.fpctl = x.fpctl ∧ y.srseed = x.srseed ∧ y.gbound = x.gbound ∧ y.super = x.super
  ∧ (y.st ≠ .parked → y.trapcause = x.trapcause ∧ y.trappc = x.trappc ∧ y.trapaddr = x.trapaddr ∧ y.trapctx = x.trapctx)
  ∧ (∀ r, some r ≠ row → (t.core s.cur.core).row r = (s.core s.cur.core).row r)
  ∧ (∀ c n, ¬(c = s.cur.core ∧ n = s.cur.ctx) → t.ctx c n = s.ctx c n)
  ∧ (∀ c, (t.core c).sp = (s.core c).sp) ∧ ∀ a, t.byteOf a = s.byteOf a

/-- The queue ports of the context at issue, as it leaves them (R119). -/
def State.portsAs (s t : State) : Prop :=
  let x := s.me
  let y := t.ctx s.cur.core s.cur.ctx
  y.q0 = x.q0 ∧ y.q1 = x.q1 ∧ y.q1r = x.q1r ∧ y.q2 = x.q2 ∧ y.q3 = x.q3 ∧ y.q4 = x.q4 ∧ y.q5 = x.q5 ∧ y.q5claim = x.q5claim
  ∧ y.q6 = x.q6 ∧ y.q7 = x.q7

/-- The physical addresses of the bytes that a store of cells of the context at issue puts in the global window, each page under the
translation that the cluster holds for its first cell (R234, R266, R271). -/
def State.stores (s : State) (cells : List (Nat × Byte)) (a : Nat) : Prop :=
  ∃ c ∈ cells, ∃ e, s.hitFor (((cells.find? fun o => pageOf o.1 == pageOf c.1).map (·.1)).getD 0) 1 = some e ∧ a = e.phys c.1

/-- The cells of the active lanes of a row that lie in the global window (R233, R271). -/
def State.globCells (s : State) (r : Row) (w : Nat) (lanes : List (Nat × Nat)) : List (Nat × Byte) :=
  lanesCells r w (lanes.filter fun p => s.steer s.cur.core s.me p.2 w == some .glob)

/-- What the caches of the clusters hold of the bytes outside a set of physical addresses of the issuing core's cluster: no byte that
they did not hold before, each as it was; and a byte that was dirty is dirty still, or on its way to its point of coherence (R266, R340). -/
def State.cachesAs (s t : State) (stored : Nat → Prop) : Prop :=
  let line := fun (u : State) (c n : Nat) => (u.cluster c).cache.find n
  let other := fun (c a : Nat) => ¬(c = clusterOf s.cur.core ∧ stored a)
  (∀ c n l i, line t c n = some l → i < 64 → other c (n * 64 + i) → (l.have_.getLsbD i || l.dirty.getLsbD i) = true →
    ∃ k, line s c n = some k ∧ k.bytes i 1 = l.bytes i 1 ∧ (l.have_.getLsbD i = true → k.have_.getLsbD i = true)
      ∧ (l.dirty.getLsbD i = true → k.dirty.getLsbD i = true))
  ∧ ∀ c n k i, line s c n = some k → i < 64 → other c (n * 64 + i) → k.dirty.getLsbD i = true →
    (∃ l, line t c n = some l ∧ l.dirty.getLsbD i = true ∧ l.bytes i 1 = k.bytes i 1)
      ∨ ∃ r ∈ t.poc, ∃ cells, r.op = .write cells ∧ ∀ b ∈ k.bytes i 1, (n * 64 + i, b) ∈ cells

/-- The bytes of the issuing core's scratchpad that a local access of n bytes at an address takes, as first address and number; none
for an access of the global window or of no window (R77, R233). -/
def State.localSpan (s : State) (va n : Nat) : Option (Nat × Nat) :=
  (s.localWin va n).map fun w => ((s.resvOf s.cur.core s.me).local_ s.me.index va w, n)

/-- The invariants of the model's memory and of the cores' scratchpads: the canonical form. -/
def State.memWf (s : State) : Prop := s.mem.wf = true
@[inherit_doc State.memWf] def State.spWf (s : State) : Prop := ∀ c, (s.core c).sp.wf = true

/-- A field that names a register or port by its number, or a row; the others are checked in their own way (R119, R145). -/
def Opnd.plainField : Opnd → Bool
  | .port _ => false
  | .ctr _ => false
  | _ => true

/-- The row that a field names. -/
def Opnd.rowNo : Opnd → Option Nat
  | .row n => some n
  | _ => Option.none

end Sys2Proof.Machine
end

