-- ==== Sys2Proof/Certificates/Slice0/Obligations.lean ====
section
/-! DEFINITION. The statements for the provers. -/

open Sys2Proof Sys2Proof.Machine

/-- R136: the arithmetic, logical and shift instructions of three registers write their result to x[d], tainted by the registers they read, and
complete. -/
def Obligations.ScalarArithmetic : Prop :=
  ∀ (s : State) (d a b : Nat), s.ready3 d a b = true →
    exec (.add d a b) s = .next (s.result3 d a b fun x y => x + y)
    ∧ exec (.sub d a b) s = .next (s.result3 d a b fun x y => x - y)
    ∧ exec (.and d a b) s = .next (s.result3 d a b fun x y => x &&& y)
    ∧ exec (.or d a b) s = .next (s.result3 d a b fun x y => x ||| y)
    ∧ exec (.xor d a b) s = .next (s.result3 d a b fun x y => x ^^^ y)
    ∧ exec (.shl d a b) s = .next (s.result3 d a b fun x y => x <<< (y.toNat % 64))
    ∧ exec (.shr d a b) s = .next (s.result3 d a b fun x y => x >>> (y.toNat % 64))
    ∧ exec (.sra d a b) s = .next (s.result3 d a b fun x y => x.sshiftRight (y.toNat % 64))
    ∧ exec (.rol d a b) s = .next (s.result3 d a b fun x y => x.rotateLeft (y.toNat % 64))
    ∧ exec (.mul d a b) s = .next (s.result3 d a b fun x y => x * y)
    ∧ exec (.mulh d a b) s = .next (s.result3 d a b fun x y => w64 (sg x * sg y / 2 ^ 64))
    ∧ exec (.mulhu d a b) s = .next (s.result3 d a b fun x y => wd (ug x * ug y / 2 ^ 64))
    ∧ exec (.addw d a b) s = .next (s.result3 d a b fun x y => sextW (x + y) 32)

/-- R136, R137: division, remainder, minimum and maximum; a divisor of 0 gives all ones, and the dividend as remainder. -/
def Obligations.ScalarDivisionAndExtremes : Prop :=
  ∀ (s : State) (d a b : Nat), s.ready3 d a b = true →
    exec (.div d a b) s = .next (s.result3 d a b fun x y => if y = 0#64 then BitVec.allOnes 64 else w64 ((sg x).tdiv (sg y)))
    ∧ exec (.divu d a b) s = .next (s.result3 d a b fun x y => if y = 0#64 then BitVec.allOnes 64 else wd (ug x / ug y))
    ∧ exec (.rem d a b) s = .next (s.result3 d a b fun x y => if y = 0#64 then x else w64 ((sg x).tmod (sg y)))
    ∧ exec (.remu d a b) s = .next (s.result3 d a b fun x y => if y = 0#64 then x else wd (ug x % ug y))
    ∧ exec (.min d a b) s = .next (s.result3 d a b fun x y => if sg x < sg y then x else y)
    ∧ exec (.max d a b) s = .next (s.result3 d a b fun x y => if sg y < sg x then x else y)
    ∧ exec (.minu d a b) s = .next (s.result3 d a b fun x y => if ug x < ug y then x else y)
    ∧ exec (.maxu d a b) s = .next (s.result3 d a b fun x y => if ug y < ug x then x else y)

/-- R136: the comparisons write 1 or 0, and SEL writes x[b] where x[a] is not 0 and the old x[d] where it is. -/
def Obligations.ScalarComparesAndSelect : Prop :=
  ∀ (s : State) (d a b : Nat),
    (s.ready3 d a b = true →
      exec (.seq d a b) s = .next (s.result3 d a b fun x y => if x = y then 1#64 else 0#64)
      ∧ exec (.sne d a b) s = .next (s.result3 d a b fun x y => if x = y then 0#64 else 1#64)
      ∧ exec (.slt d a b) s = .next (s.result3 d a b fun x y => if x.slt y then 1#64 else 0#64)
      ∧ exec (.sltu d a b) s = .next (s.result3 d a b fun x y => if x < y then 1#64 else 0#64)
      ∧ exec (.sle d a b) s = .next (s.result3 d a b fun x y => if x.sle y then 1#64 else 0#64)
      ∧ exec (.sleu d a b) s = .next (s.result3 d a b fun x y => if x ≤ y then 1#64 else 0#64))
    ∧ (s.ready (.both d) (.src a) (.src b) = true → s.quiet (.both d) (.src a) (.src b) = true →
      let v := s.vals (.both d) (.src a) (.src b)
      exec (.sel d a b) s = .next (((s.started (.both d) (.src a) (.src b)).putX d (if v.a = 0#64 then v.d else v.b)
        (taintOf s.me [.both d, .src a, .src b])).done))

/-- R138, R139: the immediate forms and the constants; shift amounts of 0 to 63, and 32-bit constants of LIH, complete. -/
def Obligations.ScalarImmediates : Prop :=
  ∀ (s : State) (d a : Nat) (imm : Int) (n : Nat),
    (s.ready2 d a = true →
      exec (.addi d a imm) s = .next (s.result2 d a fun x => x + w64 imm)
      ∧ exec (.andi d a imm) s = .next (s.result2 d a fun x => x &&& w64 imm)
      ∧ exec (.ori d a imm) s = .next (s.result2 d a fun x => x ||| w64 imm)
      ∧ exec (.xori d a imm) s = .next (s.result2 d a fun x => x ^^^ w64 imm)
      ∧ (n < 64 → exec (.shli d a n) s = .next (s.result2 d a fun x => x <<< n)
        ∧ exec (.shri d a n) s = .next (s.result2 d a fun x => x >>> n)
        ∧ exec (.srai d a n) s = .next (s.result2 d a fun x => x.sshiftRight n)))
    ∧ (s.readyD d = true → exec (.li d imm) s = .next (s.resultD d (w64 imm)))
    ∧ (n < 2 ^ 32 → s.ready (.both d) .none .none = true → s.quiet (.both d) .none .none = true →
      exec (.lih d n) s = .next (((s.started (.both d) .none .none).putX d
        (wd (n * 2 ^ 32 + (s.vals (.both d) .none .none).d.toNat % 2 ^ 32)) (taintOf s.me [.both d])).done))

/-- R140, R141: the unary group. -/
def Obligations.ScalarUnary : Prop :=
  ∀ (s : State) (d a : Nat),
    (s.ready2 d a = true →
      exec (.mov d a) s = .next (s.result2 d a fun x => x)
      ∧ exec (.neg d a) s = .next (s.result2 d a fun x => 0#64 - x)
      ∧ exec (.not d a) s = .next (s.result2 d a fun x => BitVec.allOnes 64 - x)
      ∧ exec (.clz d a) s = .next (s.result2 d a clzW)
      ∧ exec (.ctz d a) s = .next (s.result2 d a ctzW)
      ∧ exec (.popc d a) s = .next (s.result2 d a popcW)
      ∧ exec (.bswap d a) s = .next (s.result2 d a bswapW)
      ∧ exec (.sextb d a) s = .next (s.result2 d a fun x => (x.setWidth 8).signExtend 64)
      ∧ exec (.sexth d a) s = .next (s.result2 d a fun x => (x.setWidth 16).signExtend 64)
      ∧ exec (.sextw d a) s = .next (s.result2 d a fun x => (x.setWidth 32).signExtend 64)
      ∧ exec (.zextb d a) s = .next (s.result2 d a fun x => (x.setWidth 8).setWidth 64)
      ∧ exec (.zexth d a) s = .next (s.result2 d a fun x => (x.setWidth 16).setWidth 64)
      ∧ exec (.zextw d a) s = .next (s.result2 d a fun x => (x.setWidth 32).setWidth 64))
    ∧ (s.ready (.dst d) (.port a) .none = true → s.quiet (.dst d) (.port a) .none = true →
      exec (.qcnt d a) s = .next (((s.started (.dst d) (.port a) .none).putX d (qcntWord (s.taken (.dst d) (.port a) .none) (a - 24))).done))

/-- R142: BFX reads the field of WIDTH bits at POS, and BFI replaces it in x[d], where the field ends within the word. -/
def Obligations.ScalarBitFields : Prop :=
  ∀ (s : State) (d a imm : Nat), imm < 2 ^ 13 → bfPos imm + bfWidth imm ≤ 64 →
    (s.ready2 d a = true → exec (.bfx d a imm) s = .next (s.result2 d a (bfxW imm)))
    ∧ (imm < 2 ^ 12 → s.ready (.both d) (.src a) .none = true → s.quiet (.both d) (.src a) .none = true →
      let v := s.vals (.both d) (.src a) .none
      exec (.bfi d a imm) s = .next (((s.started (.both d) (.src a) .none).putX d (bfiW imm v.d v.a)
        (taintOf s.me [.both d, .src a])).done))

/-- R143, R144: a branch goes to pc + 2 × imm where its condition holds and to the following instruction where it does not; B and CALL go there
always, JR and CALLR go to an even x[a], RET to an even x7, and the calls write the return address to x7. An odd target traps ALIGN with that target
in TRAPADDR, and neither the PC nor x7 changes. -/
def Obligations.BranchesAndCalls : Prop :=
  ∀ (s : State) (a b : Nat) (imm : Int),
    let t := s.me.pc + w64 (2 * imm)
    let one := s.started .none (.src a) .none
    let two := s.started .none (.src a) (.src b)
    let v := s.vals .none (.src a) (.src b)
    let x := (s.vals .none (.src a) .none).a
    let to1 := fun (c : Prop) [Decidable c] => (if c then one.goto t else one).done
    let to2 := fun (c : Prop) [Decidable c] => (if c then two.goto t else two).done
    (s.readyA a = true →
      exec (.bez a imm) s = .next (to1 (x = 0#64)) ∧ exec (.bnz a imm) s = .next (to1 (x ≠ 0#64))
      ∧ (x.getLsbD 0 = false → exec (.jr a) s = .next (one.goto x).done
        ∧ exec (.callr a) s = .next ((one.goto x).putX 7 s.begin.cur.npc).done)
      ∧ (x.getLsbD 0 = true → exec (.jr a) s = .next (one.trapped tAlign x) ∧ exec (.callr a) s = .next (one.trapped tAlign x)))
    ∧ (s.readyAB a b = true →
      exec (.beq a b imm) s = .next (to2 (v.a = v.b)) ∧ exec (.bne a b imm) s = .next (to2 (v.a ≠ v.b))
      ∧ exec (.blt a b imm) s = .next (to2 (v.a.slt v.b = true)) ∧ exec (.bge a b imm) s = .next (to2 (v.a.slt v.b = false))
      ∧ exec (.bltu a b imm) s = .next (to2 (v.a < v.b)) ∧ exec (.bgeu a b imm) s = .next (to2 (v.b ≤ v.a)))
    ∧ exec (.b imm) s = .next (s.begin.goto t).done
    ∧ exec (.call imm) s = .next ((s.begin.putX 7 s.begin.cur.npc).goto t).done
    ∧ ((s.me.reg 7).getLsbD 0 = false → exec .ret s = .next (s.begin.goto (s.me.reg 7)).done)
    ∧ ((s.me.reg 7).getLsbD 0 = true → exec .ret s = .next (s.begin.trapped tAlign (s.me.reg 7)))
    ∧ ∀ (u : State) (w : Word), u = one ∨ u = s.begin →
      let y := (u.trapped tAlign w).ctx s.cur.core s.cur.ctx
      y.st = .parked ∧ y.trapaddr = w ∧ y.pc = s.me.pc ∧ y.reg 7 = s.me.reg 7

/-- R145, R146: LOOP decrements its counter and branches while it is not 0, its rotation step moving VBASE by m; MOVX reads and MOVXW writes the
register of a computed index from 1 to A − 1. Where the rules leave a choice, it is the model's (log entry 90). -/
def Obligations.LoopsAndRelativeRegisters : Prop :=
  ∀ (s : State) (m d a imm : Nat) (off : Int),
    (s.ready (.ctr d) .none .none = true → s.quiet (.ctr d) .none .none = true →
      let c := (s.vals (.ctr d) .none .none).d - 1#64
      let t := s.me.pc + w64 (2 * off)
      let u := (s.started (.ctr d) .none .none).putX d c (s.me.tainted d)
      exec (.loop d off) s = .next (if c = 0#64 then u else u.goto t).done
      ∧ (m ≠ 0 → s.me.rows ≠ 0 →
        let w := u.withMe fun y => { y with vbase := (y.vbase + m) % y.rows }
        exec (.loopStep m d off) s = .next (if c = 0#64 then w else w.goto t).done))
    ∧ (s.ready2 d a = true →
      let i : Int := imm + sg (s.vals (.dst d) (.src a) .none).a
      1 ≤ i → i < (s.taken (.dst d) (.src a) .none).alloc →
      exec (.movx d a imm) s = .next ((s.started (.dst d) (.src a) .none).putX d (s.me.reg i.toNat)
        (s.me.tainted a || s.me.tainted i.toNat)).done)
    ∧ (s.ready (.src d) (.src a) .none = true → s.quiet (.src d) (.src a) .none = true →
      let v := s.vals (.src d) (.src a) .none
      let i : Int := imm + sg v.a
      1 ≤ i → i < (s.taken (.src d) (.src a) .none).alloc →
      exec (.movxw d a imm) s = .next ((s.started (.src d) (.src a) .none).putX i.toNat v.d (s.me.tainted a || s.me.tainted d)).done)

/-- R197, R200, R201, R214: an instruction of two rows, of an accepted type and with no enabled flag raised, writes its active lanes to row d,
raises their flags and completes. Where the rules leave a choice, it is the model's (log entry 87). -/
def Obligations.VectorTwoRows : Prop :=
  ∀ (s : State) (t d a b k : Nat), s.ready (.row d) (.row a) (.row b) = true → s.quiet (.row d) (.row a) (.row b) = true →
    let ty := s.me.elemType t
    let u := s.started (.row d) (.row a) (.row b)
    let out := fun (o : VOp2) => lanesOf (laneCount ty) (s.me.governing k) fun i =>
      o.lane s.me.fpEnv ty (codeAt ty (u.rowOf a) i) (codeAt ty (u.rowOf b) i)
    let runs := fun (i : Instr) (o : VOp2) => o.accepts ty = true → s.silent (.row d) (.row a) (.row b) (flagLanes (out o)) →
      exec i s = .next ((u.raised (flagLanes (out o))).putLanes d (laneBits ty) (out o)).done
    runs (.vadd t d a b k) .add ∧ runs (.vsub t d a b k) .sub ∧ runs (.vmul t d a b k) .mul ∧ runs (.vdiv t d a b k) .div
    ∧ runs (.vmin t d a b k) .min ∧ runs (.vmax t d a b k) .max ∧ runs (.vabsd t d a b k) .absd ∧ runs (.vcsgn t d a b k) .csgn
    ∧ runs (.vand t d a b k) .and ∧ runs (.vor t d a b k) .or ∧ runs (.vxor t d a b k) .xor ∧ runs (.vandn t d a b k) .andn
    ∧ runs (.vshl t d a b k) .shl ∧ runs (.vshr t d a b k) .shr ∧ runs (.vsra t d a b k) .sra ∧ runs (.vmulh t d a b k) .mulh
    ∧ runs (.vscale t d a b k) .scale

/-- R202, R204, R210: the fused forms with row d as addend, the comparisons into a mask whose inactive lanes read 0, and the widening multiplies.
Where the rules leave a choice, it is the model's (log entry 87). -/
def Obligations.VectorFusedComparesAndWidening : Prop :=
  ∀ (s : State) (t d a b k : Nat),
    let ty := s.me.elemType t
    let at_ := fun (u : State) (r i : Nat) => laneAt (laneBits ty) (u.rowOf r) i
    (s.ready (.row d) (.row a) (.row b) = true → s.quiet (.row d) (.row a) (.row b) = true →
      let u := s.started (.row d) (.row a) (.row b)
      let fused := fun (i : Instr) (p c : Bool) =>
        let out := lanesOf (laneCount ty) (s.me.governing k) fun i =>
          fusedLane s.me.fpEnv ty p c (at_ u a i) (at_ u b i) (at_ u d i)
        isFPInt ty = true → s.silent (.row d) (.row a) (.row b) (flagLanes out) →
          exec i s = .next ((u.raised (flagLanes out)).putLanes d (laneBits ty) out).done
      let wide := fun (i : Instr) (high : Bool) => ∀ w, widenTo ty = some w →
        let out := lanesOf (laneCount w) (s.me.governing k) fun i =>
          let j := if high then i + laneCount w else i
          widenLane s.me.fpEnv ty w (at_ u a j) (at_ u b j)
        s.silent (.row d) (.row a) (.row b) (flagLanes out) →
          exec i s = .next ((u.raised (flagLanes out)).putLanes d (laneBits w) out).done
      fused (.vfma t d a b k) false false ∧ fused (.vfms t d a b k) false true ∧ fused (.vfnma t d a b k) true true
      ∧ fused (.vfnms t d a b k) true false ∧ wide (.vwidenl t d a b k) false ∧ wide (.vwidenh t d a b k) true)
    ∧ (s.ready .none (.row a) (.row b) = true → s.quiet .none (.row a) (.row b) = true → isFPInt ty = true →
      let u := s.started .none (.row a) (.row b)
      let cmp := fun (i : Instr) (o : VCmp) =>
        let out := lanesOf (laneCount ty) (s.me.governing k) fun i => o.lane s.me.fpEnv ty (at_ u a i) (at_ u b i)
        s.silent .none (.row a) (.row b) (flagLanes out) →
          exec i s = .next ((u.raised (flagLanes out)).withMe fun y => y.setMask d (maskOf out)).done
      cmp (.vcmpeq t d a b k) .eq ∧ cmp (.vcmplt t d a b k) .lt ∧ cmp (.vcmple t d a b k) .le ∧ cmp (.vcmpun t d a b k) .un)

/-- R203, R208: the forms of one row, lane by lane, and the reductions of the active lanes to x[d]. Where the rules leave a choice, it is the
model's (log entries 87 and 125). -/
def Obligations.VectorOneRowAndReductions : Prop :=
  ∀ (s : State) (t d a k : Nat),
    let ty := s.me.elemType t
    (s.ready (.row d) (.row a) .none = true → s.quiet (.row d) (.row a) .none = true →
      let u := s.started (.row d) (.row a) .none
      let one := fun (i : Instr) (o : VOp1) =>
        let out := lanesOf (laneCount ty) (s.me.governing k) fun i => o.lane s.me.fpEnv ty (codeAt ty (u.rowOf a) i)
        o.accepts ty = true → s.silent (.row d) (.row a) .none (flagLanes out) →
          exec i s = .next ((u.raised (flagLanes out)).putLanes d (laneBits ty) out).done
      one (.vmov t d a k) .mov ∧ one (.vneg t d a k) .neg ∧ one (.vabs t d a k) .abs ∧ one (.vnot t d a k) .not
      ∧ one (.vrint t d a k) .rint ∧ one (.vclass t d a k) .class_ ∧ one (.vsqrt t d a k) .sqrt)
    ∧ (s.ready (.dst d) (.row a) .none = true → s.quiet (.dst d) (.row a) .none = true →
      let u := s.started (.dst d) (.row a) .none
      let red := fun (i : Instr) (o : VRed) =>
        (isFP ty = true → let r := o.fp s.me.fpEnv ty (s.me.governing k) (u.rowOf a)
          s.silent (.dst d) (.row a) .none r.2 → exec i s = .next ((u.raised r.2).putX d (wd r.1)).done)
        ∧ (isInt ty = true → exec i s = .next (u.putX d (o.int ty (s.me.governing k) (u.rowOf a))).done)
      red (.vredsum t d a k) .sum ∧ red (.vredmax t d a k) .max ∧ red (.vredmin t d a k) .min
      ∧ (isInt ty = true → exec (.vredor t d a k) s = .next (u.putX d (VRed.or.int ty (s.me.governing k) (u.rowOf a))).done))

/-- R205, R214: the permutations of two rows, for every element type. Where the rules leave a choice, it is the model's (log entry 87). -/
def Obligations.VectorPermutations : Prop :=
  ∀ (s : State) (t d a b k : Nat), s.ready (.row d) (.row a) (.row b) = true → s.quiet (.row d) (.row a) (.row b) = true →
    isAny (s.me.elemType t) = true →
    let ty := s.me.elemType t
    let n := laneCount ty
    let u := s.started (.row d) (.row a) (.row b)
    let la := fun i => codeAt ty (u.rowOf a) i
    let lb := fun i => codeAt ty (u.rowOf b) i
    exec (.vsel t d a b k) s = .next (u.moved ty d 0 fun i => some (if activeLane (s.me.governing k) i then la i else lb i)).done
    ∧ exec (.vperm t d a b k) s = .next (u.moved ty d k fun i => some (la (lb i % n))).done
    ∧ exec (.vzip t d a b) s = .next (u.moved ty d 0 fun i => some (if i % 2 = 0 then la (i / 2) else lb (i / 2))).done
    ∧ exec (.vunzip t d a b) s = .next (u.moved ty d 0 fun i => some (if i < n / 2 then la (2 * i) else lb (2 * (i - n / 2)))).done
    ∧ exec (.vlut4 t d a b k) s = .next (u.moved ty d k fun i => some (lb (la i % 16))).done

/-- R206, R207: slides, rotation, broadcast, insertion, extraction and the index row. Where the rules leave a choice, it is the model's (log entry
87). -/
def Obligations.VectorMoves : Prop :=
  ∀ (s : State) (t d a b n k : Nat), isAny (s.me.elemType t) = true →
    let ty := s.me.elemType t
    let len := laneCount ty
    let w := laneBits ty
    let row := fun (u : State) i => codeAt ty (u.rowOf a) i
    (s.ready (.row d) (.row a) .none = true → s.quiet (.row d) (.row a) .none = true →
      let u := s.started (.row d) (.row a) .none
      exec (.vslidedn t d a n k) s = .next (u.moved ty d k fun i => if i + n < len then some (row u (i + n)) else none).done
      ∧ exec (.vslideup t d a n k) s = .next (u.moved ty d k fun i => if n ≤ i then some (row u (i - n)) else none).done)
    ∧ (s.ready (.row d) (.row a) (.src b) = true → s.quiet (.row d) (.row a) (.src b) = true →
      let u := s.started (.row d) (.row a) (.src b)
      let m := (s.vals (.row d) (.row a) (.src b)).b.toNat % len
      exec (.vrot t d a b k) s = .next (u.moved ty d k fun i => some (row u ((i + m) % len))).done)
    ∧ (s.ready (.row d) (.src a) .none = true → s.quiet (.row d) (.src a) .none = true →
      let u := s.started (.row d) (.src a) .none
      let x := (s.vals (.row d) (.src a) .none).a.toNat
      exec (.vbcast t d a k) s = .next (u.moved ty d k fun _ => some (x % 2 ^ w)).done
      ∧ (isInt ty = true → exec (.viota t d a k) s = .next (u.moved ty d k fun i => some ((x + i) % 2 ^ w)).done))
    ∧ (s.ready (.row d) (.src a) (.src b) = true → s.quiet (.row d) (.src a) (.src b) = true →
      let v := s.vals (.row d) (.src a) (.src b)
      exec (.vins t d a b) s = .next ((s.started (.row d) (.src a) (.src b)).moved ty d 0 fun i =>
        if i = v.b.toNat % len then some (v.a.toNat % 2 ^ w) else none).done)
    ∧ (s.ready (.dst d) (.row a) (.src b) = true → s.quiet (.dst d) (.row a) (.src b) = true →
      let u := s.started (.dst d) (.row a) (.src b)
      let v := s.vals (.dst d) (.row a) (.src b)
      exec (.vext t d a b) s = .next (u.putX d (w64 (intVal (isSigned ty) w (row u (v.b.toNat % len))))).done)

/-- R209, R211 to R213: the conversions between types, packing, and block quantisation and its inverse. Where the rules leave a choice, it is the
model's (log entries 87, 88, 120 and 125). -/
def Obligations.VectorConversions : Prop :=
  ∀ (s : State) (t d a b p k : Nat),
    let c := s.me.elemType t
    let vt := s.me.vtype
    (s.ready (.row d) (.row a) .none = true → s.quiet (.row d) (.row a) .none = true →
      let u := s.started (.row d) (.row a) .none
      (cvtTakes t = true → cvtTakes vt = true → p / 2 < laneRatio t vt →
        let r := vcvtLanes s.me.fpEnv (p % 2 == 1) (p / 2) t vt (s.me.governing k) (u.rowOf a) s.me.srseed.toNat
        s.silent (.row d) (.row a) .none (flagLanes r.1) →
        exec (.vcvt t d a p k) s = .next (((u.raised (flagLanes r.1)).putLanes d (laneBits t) r.1).withMe fun y =>
          { y with srseed := BitVec.ofNat 32 r.2 }).done)
      ∧ (∀ n, packWidth c = some n → p < 4 → ¬(n = 6 ∧ p / 2 % 2 = 1) →
        exec (.vpack t d a p) s = .next (u.putRow d (vpackRow n (p % 2 == 1) (p / 2 % 2) (u.rowOf d) (u.rowOf a))).done))
    ∧ (s.ready (.row d) (.row a) (.dst b) = true → s.quiet (.row d) (.row a) (.dst b) = true → isFP vt = true →
      ∀ e, quantEmax c = some e →
      let u := s.started (.row d) (.row a) (.dst b)
      let r := quantBlocks s.me.fpEnv vt c e (s.me.governing k) (u.rowOf a) (List.range (laneCount vt / 32)) s.me.srseed.toNat
      s.silent (.row d) (.row a) (.dst b) (flagLanes r.1) →
      exec (.vquant t d a b k) s = .next ((((u.raised (flagLanes r.1)).putLanes d 8
        (r.1 ++ List.replicate (256 - r.1.length) (some (0, 0#5)))).putX b (wd (packLanes 8 r.2.1))).withMe fun y =>
          { y with srseed := BitVec.ofNat 32 r.2.2 }).done)
    ∧ (s.ready (.row d) (.row a) (.src b) = true → isFP vt = true → deqTakes c = true →
      let u := s.opened (.row d) (.row a) (.src b)
      let sc := (s.vals (.row d) (.row a) (.src b)).b
      let out := lanesOf (laneCount vt) (s.me.governing k) fun i =>
        deqLane s.me.fpEnv vt c u.myCore.fmt.table (codeAt c (u.rowOf a) i) (byteAt (leBytes 8 sc.toNat) (i / 32))
      s.silent (.row d) (.row a) (.src b) (flagLanes out) →
      exec (.vdeq t d a b k) s = .next ((u.raised (s.popped (.row d) (.row a) (.src b) ++ flagLanes out)).putLanes d
        (laneBits vt) out).done)

/-- R215, R216: the mask operations on all 256 bits, their moves to and from registers, and VTYPE and VBASE. -/
def Obligations.MasksAndVectorState : Prop :=
  ∀ (s : State) (t d a b q : Nat),
    let set := fun (f : Mask) => (.next (s.begin.withMe fun x => x.setMask d f).done : Host.Outcome State Fault Refusal)
    exec (.kand d a b) s = set (s.me.mask a &&& s.me.mask b) ∧ exec (.kor d a b) s = set (s.me.mask a ||| s.me.mask b)
    ∧ exec (.kxor d a b) s = set (s.me.mask a ^^^ s.me.mask b) ∧ exec (.kandn d a b) s = set (s.me.mask a &&& ~~~s.me.mask b)
    ∧ exec (.knot d a) s = set (~~~s.me.mask a)
    ∧ (s.readyD d = true →
      (isAny (s.me.elemType t) = true → exec (.kpop t d a) s = .next (s.resultD d
        (wd ((List.range (laneCount (s.me.elemType t))).filter fun i => (s.me.mask a).getLsbD i).length)))
      ∧ (q < 4 → exec (.kto d a q) s = .next (s.resultD d (wd ((s.me.mask a).toNat / 2 ^ (64 * q)))))
      ∧ exec (.vgetbase d) s = .next (s.resultD d (wd s.me.vbase)))
    ∧ (s.readyA a = true →
      let u := s.started .none (.src a) .none
      let w := (s.vals .none (.src a) .none).a
      (q < 4 → exec (.kfrom d a q) s = .next (u.withMe fun x => x.setMask d
        ((x.mask d &&& ~~~BitVec.ofNat 256 (0xFFFFFFFFFFFFFFFF * 2 ^ (64 * q))) ||| BitVec.ofNat 256 (w.toNat * 2 ^ (64 * q)))).done)
      ∧ (isAny (w.toNat % 32) = true → exec (.vsettype 0 a) s = .next (u.withMe fun x => { x with vtype := w.toNat % 32 }).done)
      ∧ (s.me.rows ≠ 0 → exec (.vsetbase a) s = .next (u.withMe fun x => { x with vbase := w.toNat % x.rows }).done))
    ∧ (isAny t = true → exec (.vsettype t a) s = .next (s.begin.withMe fun x => { x with vtype := t }).done)

/-- R232 to R234, R246, R266 to R269: a scalar load from the scratchpad or stack window, from a cached line of the global window that it may use,
from device or host memory on a page without the cache, or from a peer's answer, extends the bytes it reads; LDC also taints its register and moves
the time from which tainted loads must be fresh; and a store writes the low bytes of x[d] to its window, in the global one under a translation.
Where the rules leave a choice, it is the model's (log entry 20). -/
def Obligations.ScalarLoadsAndStores : Prop :=
  ∀ (s : State) (g z d a : Nat) (imm : Int) (mo : Option MemOrd),
    (s.ready2 d a = true →
      let u := s.started (.dst d) (.src a) .none
      let va := ((s.vals (.dst d) (.src a) .none).a + w64 imm).toNat
      let gives := fun (t : State) (b : List Byte) =>
        let x := extend g z (leNat b)
        exec (.ld g z d a imm mo) s = .next ((t.acquired mo).putX d x).done
        ∧ exec (.ldc g z d a imm mo) s = .next ((((t.acquired mo).withMe fun y =>
            { y with ldcStamp := max y.ldcStamp ((t.acquired mo).acqTime (scopeOf mo)) }).putX d x true)).done
      va % 2 ^ z = 0 →
      (∀ w, u.localWin va (2 ^ z) = some w → gives u (u.here w va (2 ^ z)))
      ∧ (z ≤ 3 → u.globalOk va (2 ^ z) (2 ^ z) = true →
        (∀ b, u.lineHit (u.me.stampFor (s.me.tainted a)) va (2 ^ z) = some b → gives u b)
        ∧ (∀ e b, u.hitFor va 0 = some e → (paKind (e.phys va) = .sealed ∨ paKind (e.phys va) = .host) →
          u.cached u.cur.core e = false →
          let t := u.pushLine (clusterOf u.cur.core) (lineOf (e.phys va)) true
          t.ownPending t.cur.core t.cur.ctx (lineOf (e.phys va)) (lineOf (e.phys va)) = false →
          t.readPoc (e.phys va) (2 ^ z) = some b → gives t b)))
    ∧ (s.ready (.src d) (.src a) .none = true → s.quiet (.src d) (.src a) .none = true →
      let u := s.started (.src d) (.src a) .none
      let v := s.vals (.src d) (.src a) .none
      let va := (v.a + w64 imm).toNat
      let bytes := leBytes (2 ^ z) v.d.toNat
      va % 2 ^ z = 0 → u.letsGo mo = true →
      (∀ w, u.localWin va (2 ^ z) = some w → exec (.st z d a imm mo) s = .next ((u.releasing mo).keep w va bytes).done)
      ∧ (∀ plan, u.globalOk va (2 ^ z) (2 ^ z) = true → (u.releasing mo).storeHits (cellsAt va bytes) = some plan →
        exec (.st z d a imm mo) s = .next ((u.releasing mo).storePages plan).done))

/-- R234, R265, R266, R270 to R273: row loads and stores: whole rows, active lanes, strided lanes, gathers and scatters whose indices are in range
or read zero; in the scratchpad window, and in the global one where a cached line, device or host memory or a peer's answer serves every piece that
is loaded and a translation every page that is stored. Where the rules leave a choice, it is the model's (log entry 20). -/
def Obligations.RowLoadsAndStores : Prop :=
  ∀ (s : State) (p d a b k : Nat) (imm : Int) (mo : Option MemOrd),
    let n := laneCount s.me.vtype
    let w := laneBits s.me.vtype / 8
    (s.ready (.row d) (.src a) .none = true → s.quiet (.row d) (.src a) .none = true →
      let u := s.started (.row d) (.src a) .none
      let va := ((s.vals (.row d) (.src a) .none).a + w64 imm).toNat
      let stamp := u.me.stampFor (s.me.tainted a)
      va % 8 = 0 →
      (u.localWin va 256 = some .scratch →
        exec (.vld d a imm 0 mo) s = .next ((u.putRow d (BitVec.ofNat 2048 (leNat (u.here .scratch va 256)))).acquired mo).done
        ∧ (u.letsGo mo = true →
          exec (.vst d a imm 0 mo) s = .next ((u.releasing mo).keep .scratch va (leBytes 256 (u.rowOf d).toNat)).done))
      ∧ (u.globalOk va 256 8 = true →
        (∀ l, u.loads stamp .glob va 256 = some l →
          exec (.vld d a imm 0 mo) s = .next ((u.putRow d (BitVec.ofNat 2048 (leNat l))).acquired mo).done)
        ∧ (∀ plan, u.letsGo mo = true → (u.releasing mo).storeHits (cellsAt va (leBytes 256 (u.rowOf d).toNat)) = some plan →
          exec (.vst d a imm 0 mo) s = .next ((u.releasing mo).storePages plan).done))
      ∧ (k ≠ 0 → isAny s.me.vtype = true →
        let lanes := maskedLanes s.me k va
        (u.inScratch w 1 lanes = true →
          exec (.vld d a imm k mo) s = .next ((u.laneLoad d w n lanes []).acquired mo).done
          ∧ (u.letsGo mo = true → exec (.vst d a imm k mo) s = .next ((u.releasing mo).laneStore (u.rowOf d) w lanes).done))
        ∧ (∀ got, u.laneHits stamp w 1 lanes = some got →
          exec (.vld d a imm k mo) s = .next ((u.gotLanes d w n got []).acquired mo).done)
        ∧ (∀ plan, u.inGlob w 1 lanes = true → u.letsGo mo = true →
          (u.releasing mo).storeHits (lanesCells (u.rowOf d) w lanes) = some plan →
          exec (.vst d a imm k mo) s = .next ((u.releasing mo).storePages plan).done)))
    ∧ (s.ready (.row d) (.src a) (.src b) = true → s.quiet (.row d) (.src a) (.src b) = true → isAny s.me.vtype = true →
      let u := s.started (.row d) (.src a) (.src b)
      let v := s.vals (.row d) (.src a) (.src b)
      let lanes := stridedLanes s.me k v.a v.b
      (u.inScratch w w lanes = true →
        exec (.vlds d a b k mo) s = .next ((u.laneLoad d w n lanes []).acquired mo).done
        ∧ (u.letsGo mo = true → exec (.vsts d a b k mo) s = .next ((u.releasing mo).laneStore (u.rowOf d) w lanes).done))
      ∧ (∀ got, u.laneHits (u.me.stampFor (s.me.tainted a || s.me.tainted b)) w w lanes = some got →
        exec (.vlds d a b k mo) s = .next ((u.gotLanes d w n got []).acquired mo).done)
      ∧ (∀ plan, u.inGlob w w lanes = true → u.letsGo mo = true →
        (u.releasing mo).storeHits (lanesCells (u.rowOf d) w lanes) = some plan →
        exec (.vsts d a b k mo) s = .next ((u.releasing mo).storePages plan).done))
    ∧ (s.ready (.row d) (.src a) (.row b) = true → s.quiet (.row d) (.src a) (.row b) = true → isAny s.me.vtype = true →
      p < n / 64 →
      let u := s.started (.row d) (.src a) (.row b)
      let base := (s.vals (.row d) (.src a) (.row b)).a
      let all := indexedLanes u.me p k (u.rowOf b)
      let out := (all.filter fun q => outOfBound u.me q.2).map (·.1)
      let lanes := (all.filter fun q => !outOfBound u.me q.2).map fun q => (q.1, (base + wd (w * q.2)).toNat)
      let hit := fun (t : State) => if out = [] then t else t.withMe fun x => { x with gbound := x.gbound ||| wd (2 ^ 62) }
      (out = [] ∨ wbit s.me.gbound 63 = false) →
      (u.inScratch w w lanes = true →
        exec (.vgath p d a b k mo) s = .next ((hit (u.laneLoad d w n lanes out)).acquired mo).done
        ∧ (u.letsGo mo = true →
          exec (.vscat p d a b k mo) s = .next (hit ((u.releasing mo).laneStore (u.rowOf d) w lanes)).done))
      ∧ (∀ got, u.laneHits (u.me.stampFor (s.me.tainted a)) w w lanes = some got →
        exec (.vgath p d a b k mo) s = .next ((hit (u.gotLanes d w n got out)).acquired mo).done)
      ∧ (∀ plan, u.inGlob w w lanes = true → u.letsGo mo = true →
        (u.releasing mo).storeHits (lanesCells (u.rowOf d) w lanes) = some plan →
        exec (.vscat p d a b k mo) s = .next (hit ((u.releasing mo).storePages plan)).done))

/-- R274, R275, R341: an atomic in the scratchpad or stack window replaces the old bytes by its result in one step and returns the old value; AMOCAS
reads its comparand from x[d], and x0 receives nothing. In the global window it completes with the old value once it has been performed, and at once
where d = 0, as a posted one, which acquires once it has been performed. Where the rules leave a choice, it is the model's (log entries 35 and 123).
-/
def Obligations.LocalAtomics : Prop :=
  ∀ (s : State) (g z d a b : Nat) (mo : Option MemOrd),
    let effect := fun (i : Instr) (op : AmoOp) (o : Opnd) =>
      s.ready o (.src a) (.src b) = true → s.quiet o (.src a) (.src b) = true →
      let u := s.started o (.src a) (.src b)
      let v := s.vals o (.src a) (.src b)
      let va := v.a.toNat
      let r := u.releasing mo
      va % 2 ^ z = 0 → u.letsGo mo = true →
      (∀ w, u.localWin va (2 ^ z) = some w →
        let old := leNat (u.here w va (2 ^ z))
        let t := (r.keep w va (leBytes (2 ^ z) (amoNew op z (decide (g = 1)) old v.b.toNat v.d.toNat))).acquired mo
        exec i s = .next (if d = 0 then t else t.putX d (extend g z old)).done)
      ∧ (u.globalOk va (2 ^ z) (2 ^ z) = true →
        (∀ q old, d ≠ 0 → u.me.asked va = some q → q.ans = some (.word old) →
          exec i s = .next ((r.acquired mo).putX d (extend g z old.toNat)).done)
        ∧ (∀ e, d = 0 → r.hitFor va 3 = some e → r.reachPeer (e.phys va) = none →
          let lop := LogOp.amo op z (decide (g = 1)) v.b 0#64
          lop.reaches r (e.phys va) = true → exec i s = .next ((r.posted va lop e).acquiredPosted va mo).done))
    effect (.amoadd g z d a b mo) .add (.dst d) ∧ effect (.amoand g z d a b mo) .and (.dst d)
    ∧ effect (.amoor g z d a b mo) .or (.dst d) ∧ effect (.amoxor g z d a b mo) .xor (.dst d)
    ∧ effect (.amomin g z d a b mo) .min (.dst d) ∧ effect (.amomax g z d a b mo) .max (.dst d)
    ∧ effect (.amoswap g z d a b mo) .swap (.dst d) ∧ effect (.amocas g z d a b mo) .cas (.both d)

/-- R276, R279, R286, R341: SHIP, XADD and XREAD complete once their operation has been performed, its words being in q5 by then; SHIPN is posted
and completes under a translation that its operation can reach, and acquires once it has been performed. Where the rules leave a choice, it is the
model's (log entries 31 and 123). -/
def Obligations.ShippedOperations : Prop :=
  ∀ (s : State) (t d a b : Nat) (mo : Option MemOrd),
    (s.ready (.src d) (.src a) (.src b) (q5Need s.me 2) = true → s.quiet (.src d) (.src a) (.src b) = true →
      let u := s.started (.src d) (.src a) (.src b)
      let v := s.vals (.src d) (.src a) (.src b)
      u.globalOk v.a.toNat 1 (u.shipAlign (wbits v.b 7 0)) = true → u.letsGo mo = true → u.answeredAt v.a.toNat = true →
      exec (.ship d a b mo) s = .next ((u.releasing mo).acquired mo).done)
    ∧ (s.ready (.src d) (.src a) (.src b) = true → s.quiet (.src d) (.src a) (.src b) = true →
      let u := s.started (.src d) (.src a) (.src b)
      let v := s.vals (.src d) (.src a) (.src b)
      let op := LogOp.ship v.d v.b
      ∀ e, u.globalOk v.a.toNat 1 (u.shipAlign (wbits v.b 7 0)) = true → u.letsGo mo = true → u.hitFor v.a.toNat 3 = some e →
      op.reaches (u.releasing mo) (e.phys v.a.toNat) = true →
      exec (.shipn d a b mo) s = .next (((u.releasing mo).posted v.a.toNat op e).acquiredPosted v.a.toNat mo).done)
    ∧ (s.ready .none (.src a) (.src b) (q5Need s.me 1) = true → s.quiet .none (.src a) (.src b) = true →
      let u := s.started .none (.src a) (.src b)
      let va := (s.vals .none (.src a) (.src b)).a.toNat
      u.globalOk va 64 64 = true → u.letsGo mo = true → u.answeredAt va = true →
      exec (.xadd t a b mo) s = .next ((u.releasing mo).acquired mo).done)
    ∧ (s.ready .none (.src a) .none (q5Need s.me 2) = true → s.quiet .none (.src a) .none = true →
      let u := s.started .none (.src a) .none
      let va := (s.vals .none (.src a) .none).a.toNat
      u.globalOk va 64 64 = true → u.letsGo mo = true → u.answeredAt va = true →
      exec (.xread t a mo) s = .next ((u.releasing mo).acquired mo).done)

/-- R287, R288: signal operations on a signal in sealed memory whose cached copy is not dirty: the posted ones under a translation; SIGREAD returns
the value, and SIGWAIT does once it has reached its target. -/
def Obligations.Signals : Prop :=
  ∀ (s : State) (d a b : Nat) (mo : Option MemOrd),
    let post := fun (i : Instr) (o : Opnd) (op : Word → LogOp) =>
      s.ready .none (.src a) o = true → s.quiet .none (.src a) o = true →
      let u := s.started .none (.src a) o
      let v := s.vals .none (.src a) o
      ∀ e, u.globalOk v.a.toNat 8 8 = true → u.letsGo mo = true → u.hitFor v.a.toNat 3 = some e →
        (op v.b).reaches (u.releasing mo) (e.phys v.a.toNat) = true →
        exec i s = .next ((u.releasing mo).posted v.a.toNat (op v.b) e).done
    let take := fun (i : Instr) (o : Opnd) (ok : Word → Word → Prop) =>
      s.ready (.dst d) (.src a) o = true → s.quiet (.dst d) (.src a) o = true →
      let u := s.started (.dst d) (.src a) o
      let v := s.vals (.dst d) (.src a) o
      let va := v.a.toNat
      ∀ e l, u.globalOk va 8 8 = true → u.hitFor va 0 = some e → paKind (e.phys va) = .sealed →
        let t := u.flushFor u.cur.core (e.phys va)
        t.ownPending t.cur.core t.cur.ctx (lineOf (e.phys va)) (lineOf (e.phys va)) = false →
        t.readPoc (e.phys va) 8 = some l → ok v.b (wd (leNat l)) →
        exec i s = .next ((t.acquired mo).putX d (wd (leNat l))).done
    post (.sigadd a b mo) (.src b) (fun w => .sig false (min w.toNat (2 ^ 63 - 1)))
    ∧ post (.sigabort a mo) .none (fun _ => .sig true 0)
    ∧ take (.sigread d a mo) .none (fun _ _ => True)
    ∧ take (.sigwait d a b mo) (.src b) (fun target w => 0 ≤ sg w ∧ sg target ≤ sg w)

/-- R281: the copy instructions push their header, with the operation in its top bits, and their two addresses to q4 in one push. -/
def Obligations.CopyCommands : Prop :=
  ∀ (s : State) (d a b : Nat) (mo : Option MemOrd),
    s.ready (.src d) (.src a) (.src b) [(4, 3)] = true → s.quiet (.src d) (.src a) (.src b) = true →
    let u := s.started (.src d) (.src a) (.src b)
    let v := s.vals (.src d) (.src a) (.src b)
    let push := fun (i : Instr) (op : Nat) =>
      let h := wd (v.b.toNat % 2 ^ 60 + op * 2 ^ 60)
      u.copyCheck u.cur.core u.cur.ctx u.me h v.a v.d = none →
      exec i s = .next (u.pushed { u.me with q4 := u.me.q4 ++ [(h, (s.clock, max 4 (scopeOf mo))),
        (v.a, (s.clock, max 4 (scopeOf mo))), (v.d, (s.clock, max 4 (scopeOf mo)))] }).done
    push (.cpy d a b mo) 1 ∧ push (.cpyl d a b mo) 2 ∧ push (.cpyr d a b mo) 3 ∧ push (.cpyg d a b mo) 4

/-- R289, R290: FENCE completes once its release condition holds, and acquires unless it only releases; PREF asks for a line; INVL and WBCL write
back and drop the lines of a range, and complete at once where none of them is dirty. -/
def Obligations.FencesAndCacheMaintenance : Prop :=
  ∀ (s : State) (a b : Nat) (mo : Option MemOrd),
    (s.ready .none .none .none = true → s.quiet .none .none .none = true →
      let u := s.started .none .none .none
      u.mayRelease (if orderOf mo = 1 then 0 else scopeOf mo) = true →
      exec (.fence mo) s = .next (if orderOf mo = 2 then u.noteRelease else u.noteRelease.acquiredAt (scopeOf mo)).done)
    ∧ (s.readyA a = true →
      let u := s.started .none (.src a) .none
      let va := (s.vals .none (.src a) .none).a.toNat
      (inGlobal va = false → exec (.pref a) s = .next u.done)
      ∧ (∀ e, inGlobal va = true → (u.cluster (clusterOf u.cur.core)).hit u.me.part u.me.job va 0 = some e →
        u.cached u.cur.core e = true →
        exec (.pref a) s = .next (u.modCluster (clusterOf u.cur.core) fun c =>
          { c with fills := if c.fills.contains (lineOf (e.phys va)) then c.fills else c.fills ++ [lineOf (e.phys va)] }).done))
    ∧ (s.readyAB a b = true → s.me.relAt = none →
      let u := s.started .none (.src a) (.src b)
      let v := s.vals .none (.src a) (.src b)
      let cl := clusterOf u.cur.core
      let r := clipGlobal v.a.toNat v.b.toNat
      let parts := if r.1 < r.2 then u.mappedParts u.me.part u.me.job r.1 r.2 else []
      let hit := fun (l : Nat) => v.b == 0#64 || inParts parts l
      let lines := (u.cluster cl).cache.select fun l _ => hit l
      (∀ l ∈ lines, ((u.cluster cl).cache.get {} l).dirty = 0#64) →
      exec (.invl a b) s = .next ((((lines.foldl (fun s l => s.pushLine cl l true) u).dropCode cl fun f => hit (lineOf f.pa)).withMe
        fun x => { x with relAt := some s.clock })).done
      ∧ exec (.wbcl a b) s = .next ((lines.foldl (fun s l => s.pushLine cl l false) u).withMe
        fun x => { x with relAt := some s.clock }).done)

/-- R150 to R155: the send instructions enter one send word in q0, with the destination and the launch that their operands name. Where the rules
leave a choice, it is the model's (log entry 97). -/
def Obligations.Sends : Prop :=
  ∀ (s : State) (d a b : Nat) (mo : Option MemOrd),
    (s.ready .none (.src a) (launchField b) [(0, 1)] = true → s.quiet .none (.src a) (launchField b) = true →
      let u := s.started .none (.src a) (launchField b)
      let v := s.vals .none (.src a) (launchField b)
      u.sendOk (wbit v.a 30) v.a false [destOf v.a] = true →
      exec (.send a b mo) s = .next (u.sendWord .task (wbit v.a 30) v.a (launchOperand u.me b v.b) 0 false [destOf v.a] mo).done)
    ∧ (s.ready (.src d) (.src a) (launchField b) [(0, 1)] = true → s.quiet (.src d) (.src a) (launchField b) = true →
      let u := s.started (.src d) (.src a) (launchField b)
      let v := s.vals (.src d) (.src a) (launchField b)
      let n := wbits v.a 6 0
      let one : Dest := ⟨wbits v.a 11 0, false, wbits v.a 29 25, wbits v.a 47 32⟩
      (∀ w, 1 ≤ n → n ≤ 64 → v.d.toNat % 8 = 0 → u.localWin v.d.toNat (8 * n) = some w →
        let dests := (List.range n).map fun i => destOf (wd (fieldAt (u.here w v.d.toNat (8 * n)) (8 * i) 8))
        u.sendOk (wbit v.a 30) v.a true dests = true →
        exec (.sendl d a b mo) s = .next (u.sendWord .task (wbit v.a 30) v.a (launchOperand u.me b v.b) 0 true dests mo).done)
      ∧ (v.d.toNat ≤ 48 → u.sendOk false v.a false [one] = true →
        exec (.sends d a b mo) s = .next (u.sendWord (if v.d.toNat = 0 then .stream else .streamend) false v.a
          (launchOperand u.me b v.b) v.d.toNat false [one] mo).done))
    ∧ (s.ready .none (.src a) .none [(0, 1)] = true → s.quiet .none (.src a) .none = true →
      let u := s.started .none (.src a) .none
      let v := s.vals .none (.src a) .none
      let to_ : List Dest := [⟨u.me.ident.score, false, u.me.part, u.me.ident.sdev⟩]
      u.me.ident.kind ≠ 2 → u.sendOk (wbit v.a 30) v.a false to_ = true →
      exec (.reply a mo) s = .next (u.sendWord .task (wbit v.a 30) v.a (u.me.lid, u.me.lgen) 0 false to_ mo).done)

/-- R18, R19, R37, R80, R89, R92: a message that can arrive leaves the mesh and is accepted, or is dropped with a count where a check fails; a
stream packet's data goes through its entry, and the last one makes the entry's end message. Where the rules leave a choice, it is the model's (log
entries 50, 63, 98 and 101). -/
def Obligations.Arrivals : Prop :=
  ∀ (s : State) (i : Nat) (f : Flight), s.canArrive i = some f →
    let t := s.leaveMesh i f
    let g := t.fresh
    let checked := fun (j : Instr) (u : State) (ok : State) =>
      exec j s = .next (match u.checkMsg f.core f.msg with
        | some d => u.dropMsg f.core f.msg d f.sender
        | none => ok)
    (f.msg.kind ≠ .stream → f.msg.kind ≠ .streamend →
      checked (.messageArrival i) g.2 (g.2.accept f.core ⟨f.msg, g.1, none⟩ f.sender))
    ∧ (f.msg.kind = .stream → t.stubbed f.core f.msg = false → t.checkMsg f.core f.msg = none →
      let u := (g.2.streamData f.core f.msg 48).1
      exec (.streamArrival i) s = .next { u with acks := u.acks ++ [f.sender] })
    ∧ (f.msg.kind = .streamend → g.2.stubbed f.core f.msg = false →
      let u := g.2.streamEnd f.core f.msg g.1
      checked (.streamendArrival i) g.2 (u.1.accept f.core u.2 f.sender))

/-- R81, R84 to R87, R91, R92, R157: the head send word of the first context in turn leaves; an acknowledgement is taken off its sender; a free
inbound entry takes a ring message; and the oldest H message, else the oldest L message, that has a place becomes a RUNNING context at its handler.
Where the rules leave a choice, it is the model's (log entries 30, 49, 50, 98, 99, 100, 101, 112 and 124). -/
def Obligations.MessageSteps : Prop :=
  (∀ (s u : State) (core c : Nat) (t : List Nat) (v : State), (s.core core).niOrder = c :: t → s.takeHead core c = (some u, v) →
    exec (.niTakeSend core) s = .next u)
  ∧ (∀ (s : State) (i core ctx : Nat), s.acks[i]? = some (.ctx core ctx) → ctx < 2 ^ 40 →
    exec (.acknowledgementArrival i) s = .next ((({ s with acks := dropAt s.acks i } : State).modCtx core ctx fun x =>
      { x with acks := x.acks - 1 }).tryFree core ctx))
  ∧ (∀ (s : State) (core : Nat) (r : Resv) (q : InMsg), (s.core core).resvs = [r] → r.stub = false → r.ringQ = [q] →
    q.msg.pri = true → (s.core core).hq.length < 16 →
    ∃ t, exec (.inboundRefill core) s = .next t ∧ (t.core core).hq = (s.core core).hq ++ [q] ∧ (t.core core).resvs.map (·.ringQ) = [[]])
  ∧ (∀ (s : State) (core : Nat) (im : InMsg) (h : List InMsg) (r : Resv) (idx : Nat), (s.core core).hq = im :: h →
    s.dispatchable core im = some (r, idx) →
    ∃ t, exec (.dispatch core) s = .next t ∧ (t.core core).hq = h
      ∧ (t.ctx core (r.spots.getD idx 0)).st = .running
      ∧ (t.ctx core (r.spots.getD idx 0)).pc
        = wd ((s.handlerOf core ⟨im.msg.dpart, im.msg.lid, im.msg.lgen⟩ im.msg.handler).getD 0)
      ∧ (t.ctx core (r.spots.getD idx 0)).reg 7 = (msgIdent im.msg).word)

/-- R7, R126, R147, R148, R164, R165, R219: SRD reads a special register that its level may read, and clears a read-and-clear one; EXIT ends the
task; VCHAIN stores what its chain makes of a row; STBIND and STFREE bind and free an entry of the stream table. Where the rules leave a choice, it
is the model's (log entries 20, 21, 30, 85, 90, 91, 92, 93 and 120). -/
def Obligations.TaskAndStreamTable : Prop :=
  ∀ (s : State) (d a b n sr : Nat),
    exec .exit s = .next (s.begin.endTask s.cur.core s.cur.ctx).rotate
    ∧ (s.readyD d = true → specialKnown sr = true → (sr < 0x100 ∨ 1 ≤ (s.levelOf s.cur.core s.me).rank) →
      let u := s.started (.dst d) .none .none
      exec (.srd d sr) s = .next ((u.clearRead u.cur.core u.cur.ctx sr).putX d (u.special u.cur.core u.cur.ctx sr)).done)
    ∧ (s.ready (.both d) (.src a) (.row n) = true → s.quiet (.both d) (.src a) (.row n) = true →
      let u := s.started (.both d) (.src a) (.row n)
      let v := s.vals (.both d) (.src a) (.row n)
      ∀ w c, v.a.toNat % 8 = 0 → u.localWin v.a.toNat 40 = some w → ChainDesc.parse (u.here w v.a.toNat 40) = some c →
        let outs := c.run (leBytes 256 (u.rowOf n).toNat)
        let bytes := (outs.map (·.1)).flatten
        let lanes := (List.range outs.length).zip (outs.map (·.2))
        v.d.toNat % (laneBits c.otyp / 8) = 0 → u.localWin v.d.toNat bytes.length = some .scratch →
        s.silent (.both d) (.src a) (.row n) lanes →
        exec (.vchain d a n) s = .next (((u.raised lanes).keep .scratch v.d.toNat bytes).putX d (v.d + wd bytes.length)).done)
    ∧ (s.ready (.dst d) (.src a) (.src b) = true → s.quiet (.dst d) (.src a) (.src b) = true →
      let u := s.started (.dst d) (.src a) (.src b)
      let v := s.vals (.dst d) (.src a) (.src b)
      let base := wbits v.a 39 16
      let len := wbits v.a 63 40
      let i := wbits v.a 3 0
      let x := u.me
      let e := u.myCore.streams.get {} i
      ∀ w c, base % 8 = 0 → len % 8 = 0 → len ≠ 0 → base + len ≤ (u.resvOf u.cur.core x).spBytes →
        v.b.toNat % 8 = 0 → u.localWin v.b.toNat 40 = some w → ChainDesc.parse (u.here w v.b.toNat 40) = some c →
        let n : StreamEnt := { st := .bound, part := x.part, lid := x.lid, lgen := x.lgen, endh := wbits v.a 9 4, gang := e.gang,
                               chain := some c, wbase := base, wlen := len }
        let bound := u.modMyCore fun k => { k with streams := k.streams.set i n }
        exec (.stbind d a b) s = .next (if e.st = .bound ∨ e.st = .active then u.putX d 1#64
          else if e.st = .reserved ∧ e.ownedBy x = false then u.putX d 2#64
          else if (u.handlerOf u.cur.core x.lkey (wbits v.a 9 4)).isNone then u.putX d 3#64
          else bound.putX d 0#64).done)
    ∧ (s.ready2 d a = true →
      let u := s.started (.dst d) (.src a) .none
      let i := (s.vals (.dst d) (.src a) .none).a.toNat % 16
      let e := u.myCore.streams.get {} i
      let freed := u.modMyCore fun k => { k with streams := k.streams.set i e.freed }
      exec (.stfree d a) s = .next ((if (e.st = .bound ∨ e.st = .active) ∧ e.ownedBy u.me = true then freed else u).putX d e.word).done)

/-- R297 to R303, R310, R312, R317, R320: the matrix commands push their header, with the operation in its low bits and the queue in bit 7, and
their words to q2 in one push; MCTX and MLUT make their words from the fields and from memory; MRING defines or removes a ring, MADV moves its
counters, and MSTAT reads the status, of which M = 1 clears the flags. Where the rules leave a choice, it is the model's (log entry 36). -/
def Obligations.MatrixInstructions : Prop :=
  ∀ (s : State) (q m d a b imm : Nat),
    let head := fun (op : Nat) (w : Word) => wd (w.toNat / 2 ^ 8 * 2 ^ 8 + (w.toNat / 16 % 8) * 16 + op + (if q = 1 then 2 ^ 7 else 0))
    let add := fun (u : State) (ws : List Word) => (u.withMe fun x => { x with q2 := x.q2 ++ ws.map fun w => (w, x.vbase, u.clock) }).done
    let one := fun (i : Instr) (op : Nat) =>
      s.ready .none (.src a) .none [(2, 1)] = true → s.quiet .none (.src a) .none = true →
      let u := s.started .none (.src a) .none
      let h := head op (s.vals .none (.src a) .none).a
      u.mxCheck u.cur.core u.cur.ctx u.me h 0#64 = none → exec i s = .next (add u [h])
    let two := fun (i : Instr) (op : Nat) =>
      s.ready .none (.src a) (.src b) [(2, 2)] = true → s.quiet .none (.src a) (.src b) = true →
      let u := s.started .none (.src a) (.src b)
      let v := s.vals .none (.src a) (.src b)
      let h := head op v.a
      u.mxCheck u.cur.core u.cur.ctx u.me h v.b = none → exec i s = .next (add u [h, v.b])
    let putMx := fun (u : State) (f : MxCtx → MxCtx) =>
      u.modMyCore fun k => { k with mx := k.mx.set u.cur.ctx (f (k.mx.get {} u.cur.ctx)) }
    one (.mma q a) 1 ∧ two (.mmac q a b) 2 ∧ one (.mtrn q a) 3 ∧ two (.mperm q a b) 4 ∧ one (.mred q a) 5 ∧ one (.mzero q a) 6
    ∧ (imm < 2 ^ 11 → fmtValid (imm % 32) (imm / 32 % 32) (imm / 1024) = true → s.ready .none .none .none [(2, 1)] = true →
      s.quiet .none .none .none = true →
      exec (.mctx q imm) s = .next (add (s.started .none .none .none) [wd (7 + (if q = 1 then 2 ^ 7 else 0) + imm * 2 ^ 8)]))
    ∧ (s.ready .none (.src a) .none [(2, 3)] = true → s.quiet .none (.src a) .none = true →
      let u := s.started .none (.src a) .none
      let va := (s.vals .none (.src a) .none).a.toNat
      ∀ w, va % 8 = 0 → u.localWin va 16 = some w →
        let l := u.here w va 16
        exec (.mlut q a) s = .next (add u [wd (8 + (if q = 1 then 2 ^ 7 else 0)), wd (fieldAt l 0 8), wd (fieldAt l 8 8)]))
    ∧ (s.readyAB a b = true →
      let u := s.started .none (.src a) (.src b)
      let v := s.vals .none (.src a) (.src b)
      let n := v.a.toNat % 8
      (∀ g, v.b = 0#64 → u.ring u.cur.core u.cur.ctx n = some g → u.ringNamed u.cur.core u.cur.ctx n = false → g.f = g.t →
        exec (.mring a b) s = .next (putMx u fun m => { m with rings := m.rings.del n }).done)
      ∧ (∀ w, v.b ≠ 0#64 → u.ring u.cur.core u.cur.ctx n = none → v.b.toNat % 8 = 0 → u.localWin v.b.toNat 16 = some w →
        let l := u.here w v.b.toNat 16
        let g : Ring := { base := fieldAt l 0 4, slotsz := fieldAt l 4 4, nslot := byteAt l 8, gps := byteAt l 9 }
        ringBad l = false → g.base + g.nslot * g.slotsz ≤ (u.resvOf u.cur.core u.me).spBytes →
        exec (.mring a b) s = .next (putMx u fun m => { m with rings := m.rings.set n g }).done)
      ∧ (∀ g, u.ring u.cur.core u.cur.ctx n = some g →
        let k := v.b.toNat
        (wbit v.a 3 = false → g.f = g.t → g.t + k ≤ g.h + g.nslot →
          exec (.madv a b) s = .next (u.modRing u.cur.core u.cur.ctx n fun g => { g with t := g.t + k, f := g.f + k }).done)
        ∧ (wbit v.a 3 = true → u.ringRead u.cur.core u.cur.ctx n = false → g.h + k ≤ g.t →
          exec (.madv a b) s = .next (u.modRing u.cur.core u.cur.ctx n fun g => { g with h := g.h + k }).done)))
    ∧ (s.readyD d = true →
      let u := s.started (.dst d) .none .none
      let core := u.cur.core
      let ctx := u.cur.ctx
      exec (.mstat 0 d) s = .next (u.putX d (u.mxStatus core ctx)).done
      ∧ exec (.mstat 1 d) s = .next ((putMx u fun x => { x with fl := 0 }).putX d
        (u.mxStatus core ctx)).done
      ∧ (16 ≤ m → exec (.mstat m d) s = .next (u.putX d (ringStatus (u.ring core ctx (m - 16)))).done))

/-- R221, R223, R227 to R229: a special-function instruction enters one request in q7, its lanes or one value; LSRUN reads its descriptor and enters
it in q6, LSSTOP empties q6 and stops the active run, and LSSTAT reads the snapshot. Where the rules leave a choice, it is the model's (log entries
35, 94 and 120). -/
def Obligations.UnitRequests : Prop :=
  ∀ (s : State) (t d a k : Nat),
    let ty := sfuType t
    let vec := fun (i : Instr) (fn : SfuFn) =>
      s.ready (.row d) (.row a) .none [(7, 1)] = true → s.quiet (.row d) (.row a) .none = true →
      let u := s.started (.row d) (.row a) .none
      exec i s = .next (u.withMe fun y => { y with q7 := y.q7 ++
        [{ fn := fn, vec := true, typ := ty, ftz := s.me.fpEnv.ftz, src := (u.rowOf a).toNat, mask := s.me.governing k, dnum := d,
           drow := s.me.rowIdx s.me.vbase d, seq := s.clock }] }).done
    let one := fun (i : Instr) (fn : SfuFn) =>
      s.ready .none (.src a) .none [(7, 1)] = true → s.quiet .none (.src a) .none = true →
      let w := (s.vals .none (.src a) .none).a
      exec i s = .next ((s.started .none (.src a) .none).withMe fun y => { y with q7 := y.q7 ++
        [{ fn := fn, typ := ty, ftz := s.me.fpEnv.ftz, src := w.toNat % 2 ^ laneBits ty, seq := s.clock }] }).done
    vec (.sexp2 1 t d a k) .exp2 ∧ vec (.slog2 1 t d a k) .log2 ∧ vec (.srcp 1 t d a k) .rcp ∧ vec (.srsq 1 t d a k) .rsq
    ∧ vec (.ssin 1 t d a k) .sin ∧ vec (.scos 1 t d a k) .cos ∧ vec (.stanh 1 t d a k) .tanh ∧ vec (.ssig 1 t d a k) .sig
    ∧ one (.sexp2 0 t d a k) .exp2 ∧ one (.slog2 0 t d a k) .log2 ∧ one (.srcp 0 t d a k) .rcp ∧ one (.srsq 0 t d a k) .rsq
    ∧ one (.ssin 0 t d a k) .sin ∧ one (.scos 0 t d a k) .cos ∧ one (.stanh 0 t d a k) .tanh ∧ one (.ssig 0 t d a k) .sig
    ∧ (s.ready .none (.src a) .none [(6, 1)] = true → s.quiet .none (.src a) .none = true →
      let u := s.started .none (.src a) .none
      let v := (s.vals .none (.src a) .none).a
      ∀ w w', v.toNat % 32 = 0 → u.localWin v.toNat 32 = some w →
        let head := u.here w v.toNat 32
        lsBad head = false → u.localWin (v.toNat + 32) (lsRecBytes head) = some w' →
        exec (.lsrun a) s = .next (u.withMe fun x => { x with q6 := x.q6 ++
          [⟨v, some (head ++ u.here w' (v.toNat + 32) (lsRecBytes head)), s.clock, u.me.vbase⟩] }).done)
    ∧ (s.ready .none .none .none = true → s.quiet .none .none .none = true →
      exec .lsstop s = .next ((((s.started .none .none .none).withMe fun x => { x with q6 := [] }).dropReads fun n =>
        n == unitName 11 (s.cur.core * 2 ^ 20 + s.cur.ctx)).modMyCore fun k =>
        { k with runs := k.runs.map fun _ r => if r.ctx = s.cur.ctx then { r with stopped := true } else r }).done)
    ∧ (s.readyD d = true →
      exec (.lsstat d) s = .next (s.resultD d ((s.started (.dst d) .none .none).lsWord s.cur.core s.cur.ctx)))

/-- R159, R160: the work-queue instructions push their command word, with the operation in bits 13:12, to q1, ENQ with its item. Where the rules
leave a choice, it is the model's (log entry 112). -/
def Obligations.WorkQueueInstructions : Prop :=
  ∀ (s : State) (a b : Nat),
    let push := fun (u : State) (ws : List Word) =>
      (u.withMe fun x => { x with q1 := ws.foldl (fun q w => pushWq s.clock w q) x.q1 }).done
    let one := fun (i : Instr) (op : Nat) =>
      exec i s = .next (push (s.started .none (.src a) .none) [wd ((s.vals .none (.src a) .none).a.toNat % 2 ^ 12 + op * 2 ^ 12)])
    (s.ready .none (.src a) (.src b) [(1, 2)] = true → s.quiet .none (.src a) (.src b) = true →
      let v := s.vals .none (.src a) (.src b)
      exec (.enq a b) s = .next (push (s.started .none (.src a) (.src b)) [wd (v.a.toNat % 2 ^ 12), v.b]))
    ∧ (s.ready .none (.src a) .none [(1, 1)] = true → s.quiet .none (.src a) .none = true →
      one (.deq a) 1 ∧ one (.deqw a) 2 ∧ one (.wqstat a) 3)

/-- R370 to R376: the rod instructions on a rod of the context's partition that is in the state they need: RODGET takes the lowest FREE rod, or
answers all ones; BEAM sends; RODWAIT returns the rod's word once it is DONE or OPEN and acquires; RODFREE frees; RODSTAT reads the word or the
expected count; and PUTC cuts its range into beads and queues them. Where the rules leave a choice, it is the model's (log entries 56, 57 and 62).
-/
def Obligations.RodInstructions : Prop :=
  ∀ (s : State) (d a b : Nat),
    (s.ready3 d a b = true →
      let u := s.started (.dst d) (.src a) (.src b)
      let v := s.vals (.dst d) (.src a) (.src b)
      let n := rodField v.a
      let r := u.rod n
      (∀ w t, v.b.toNat % 8 = 0 → u.localWin v.b.toNat 32 = some w →
        let l := u.here w v.b.toNat 32
        (wbit v.a 0 = false → setupAddr (fieldAt l 0 8) 8 8 1 u = .ok () t →
          let got := { (({ part := t.me.part, job := t.me.job } : Rod).arm t.clock (byteAt l 16) (t.shortTmo t.me.part)) with
            flagaddr := fieldAt l 0 8, flagval := wd (fieldAt l 8 8), flagadd := byteAt l 17 % 2 == 1 }
          exec (.rodget d a b) s = .next (match t.freeRodOf t.me.part (dieOf t.cur.core) with
            | none => t.putX d (BitVec.allOnes 64)
            | some k => (t.modRod k fun _ => got).putX d (wd k)).done)
        ∧ (wbit v.a 0 = true → setupAddr (fieldAt l 8 8) 32768 64 3 u = .ok () t → t.feottePeer (fieldAt l 0 2) = true →
          let tmo := fieldAt l 20 4
          let got := { (({ part := t.me.part, job := t.me.job } : Rod).open_ t.clock (byteAt l 16)
              (if tmo = 0 then t.shortTmo t.me.part else max 50 (min 1000 tmo))) with
            tdev := fieldAt l 0 2, trod := fieldAt l 2 2 % 2 ^ 14, tpart := byteAt l 4 % 32, replayAddr := fieldAt l 8 8 }
          exec (.rodget d a b) s = .next (match t.freeRodOf t.me.part (dieOf t.cur.core) with
            | none => t.putX d (BitVec.allOnes 64)
            | some k => (t.modRod k fun _ => got).putX d (wd k)).done))
      ∧ (u.rodOwned u.me.part n = true →
        (v.b = 0#64 → exec (.rodstat d a b) s = .next (u.putX d r.word).done)
        ∧ (v.b = 1#64 → exec (.rodstat d a b) s = .next (u.putX d (match r.expect with
          | some e => wd e
          | none => BitVec.allOnes 64)).done)
        ∧ (r.use = .program →
          (r.st = .open_ → exec (.rodwait d a b) s = .next (u.putX d r.word).done)
          ∧ (r.st = .done → r.rearm = false →
            (wbit v.b 0 = false → exec (.rodwait d a b) s = .next ((u.acquiredAt 5).putX d r.word).done)
            ∧ (wbit v.b 0 = true → r.genAt + Config.us 16 ≤ u.clock →
              exec (.rodwait d a b) s = .next (((u.rearmRod n).acquiredAt 5).putX d r.word).done))
          ∧ (r.st = .sent → wbit v.b 1 = true →
            exec (.rodwait d a b) s = .next ((u.closeWindow n).putX d
              ((u.closeWindow n).rod n).word).done))))
    ∧ (s.readyA a = true →
      let u := s.started .none (.src a) .none
      let n := rodField (s.vals .none (.src a) .none).a
      let r := u.rod n
      u.rodOwned u.me.part n = true → r.st ≠ .free → r.st ≠ .quarantine →
        (r.use = .program → r.send = true → r.st = .open_ → exec (.beam a) s = .next (u.sendBeam (dieOf u.cur.core) n).done)
        ∧ ((∀ h k, r.use ≠ .graph h k) → exec (.rodfree a) s = .next (u.freeRod n).done))
    ∧ (s.ready (.src d) (.src a) (.src b) = true → s.quiet (.src d) (.src a) (.src b) = true →
      let u := s.started (.src d) (.src a) (.src b)
      let v := s.vals (.src d) (.src a) (.src b)
      let n := rodField v.b
      let r := u.rod n
      let len := wbits v.b 48 32
      ∀ scratch src t dst t', u.rodOwned u.me.part n = true → r.use = .program → r.send = true → r.st = .open_ → len ≤ 65536 →
        putSource v.a.toNat len u = .ok (scratch, src) t → putDest r.tdev v.d.toNat len t = .ok dst t' →
        t'.feottePeer r.tdev = true → r.nput ≠ 1024 → r.count + (beadsOf src dst v.d.toNat len).length < 2 ^ 32 →
        let job : PutJob := { rod := n, gen := r.gen, cmd := ⟨scratch, beadsOf src dst v.d.toNat len⟩, since := t'.clock,
                              core := some t'.cur.core, ctx := t'.cur.ctx }
        (len = 0 → exec (.putc d a b) s = .next t'.done)
        ∧ (len ≠ 0 → (t'.puts.filter fun p => p.2.core == some t'.cur.core).length < 16 →
          exec (.putc d a b) s = .next (t'.pushPut (dieOf t'.cur.core) n job).done))

/-- R377 to R379: GETR asks its peer for the 256-byte pieces of its range and claims two places of q5; FLOWOPEN opens a flow under a handle, or
answers why not; FLOWCLOSE closes the flow of a handle. Where the rules leave a choice, it is the model's (log entries 57, 58 and 59). -/
def Obligations.PeerReadsAndFlows : Prop :=
  ∀ (s : State) (d a b : Nat),
    (s.ready (.src d) (.src a) (.src b) [(5, 2)] = true → s.quiet (.src d) (.src a) (.src b) = true →
      let u := s.started (.src d) (.src a) (.src b)
      let v := s.vals (.src d) (.src a) (.src b)
      let sa := v.a.toNat
      let len := wbits v.b 48 32
      ∀ src t dst t', 1 ≤ len → len ≤ 65536 → inGlobal sa = true → inGlobal (sa + (len - 1)) = true →
        mapIssue sa len 0 peerOnly u = .ok src t → getDest v.d.toNat len t = .ok dst t' →
        let pieces := (splitAt 256 (len / 256 + 2) sa len).map fun p =>
          (p.1 - sa, p.2, ((slicePieces src (p.1 - sa) p.2).head?.map (·.2.1)).getD 0)
        let r := t'.fresh.2.withMe fun x => { x with q5claim := x.q5claim + 2 }
        let g : Getr := { id := t'.fresh.1, core := t'.cur.core, ctx := t'.cur.ctx, tag := wbits v.b 15 0, dst := v.d.toNat,
                          dstMap := dst, part := t'.me.part, job := t'.me.job, lid := t'.me.lid, lgen := t'.me.lgen,
                          pieces := pieces.length }
        (pieces.any fun p => (r.reachPeer p.2.2).any fun q => q.isol) = false →
        let ask := fun (s : State) (p : Nat × Nat × Nat) => match s.reachPeer p.2.2 with
          | none => s
          | some q => s.askPeer (dieOf g.core) g.part q.ep (.getr g.id p.1 p.2.1) fun t => .readreq t g.part (peerAddr p.2.2) p.2.1
        exec (.getr d a b) s = .next (pieces.foldl ask { r with getrs := r.getrs ++ [g] }).done)
    ∧ (s.ready3 d a b = true →
      let u := s.started (.dst d) (.src a) (.src b)
      let v := s.vals (.dst d) (.src a) (.src b)
      let h := wbits v.b 7 0
      let dest := destOf v.a
      let flows := (u.flowsOf u.cur.core).filter fun f => f.cls != .atomic
      let f : Flow := { handle := h, cls := if wbit v.a 30 then .h else .l, dest := dest, part := u.me.part, lid := u.me.lid,
                        lgen := u.me.lgen, since := u.clock }
      let opened : State := { u with flows := u.flows.set u.cur.core (u.flowsOf u.cur.core ++ [f]) }
      h ≠ 0 → exec (.flowopen d a b) s = .next (if (flows.any fun f => f.handle == h) = true then u.putX d 1#64
        else if 32 ≤ (flows.filter fun f => f.pipe.isNone && !f.closing).length then u.putX d 2#64
        else if (if dest.ddev = selfEp then dest.dpart ≠ u.me.part else u.feottePeer dest.ddev = false) then u.putX d 3#64
        else opened.putX d 0#64).done)
    ∧ (s.readyA a = true →
      let u := s.started .none (.src a) .none
      let h := wbits (s.vals .none (.src a) .none).a 7 0
      let mine := fun (f : Flow) => f.cls != .atomic && f.handle == h && !f.closing
      (u.flowsOf u.cur.core).any mine = true → exec (.flowclose a) s = .next (u.closeFlows u.cur.core mine).done)

/-- R58, R399 to R401, R437, R438: GRUN starts an instance of a graph of its job, or answers STOPPED or ACTIVE; GCANCEL cancels it; XALL starts an
all-to-all whose maps agree; CANCEL cancels a level, and with its wait bit waits until it has settled. What GCANCEL with RESET writes to x[d] is the
free value at the model's counter. Where the rules leave a choice, it is the model's (log entries 40, 65, 66 and 114). -/
def Obligations.GraphXallAndCancel : Prop :=
  ∀ (s : State) (d a b : Nat),
    (s.ready3 d a b = true →
      let u := s.started (.dst d) (.src a) (.src b)
      let v := s.vals (.dst d) (.src a) (.src b)
      let key : GKey := ⟨u.me.part, u.me.job, wbits v.a 9 0⟩
      (∀ w g t, (s.me.pend.find? fun p => p.key == wbits v.a 9 0) = none → (u.graph key).isSome = true → v.b.toNat % 64 = 0 →
        u.localWin v.b.toNat 80 = some w →
        let l := u.here w v.b.toNat 80
        let sig := fieldAt l 64 8
        checkCompsig sig u = .ok () t → t.graph key = some g →
        (g.stopped = true → exec (.grun d a b) s = .next (t.putX d 2#64).done)
        ∧ (g.stopped = false → g.inst.isSome = true → exec (.grun d a b) s = .next (t.putX d 1#64).done)
        ∧ (g.stopped = false → g.inst = none → t.mayRelease 5 = true →
          let r := t.noteRelease
          r.spacing (g.rods.map (·.rod)) ≤ r.clock →
          exec (.grun d a b) s = .next ((((r.newInst g (dieOf r.cur.core) (.run sig (fieldAt l 72 4)) r.me.phase
            ((List.range 8).map fun i => fieldAt l (8 * i) 8)).joinPhase r.me.part r.me.job r.me.phase).putX d
              (wd (g.next * 2 ^ 16))).done)))
      ∧ (let level := wbits v.a 2 0
        let id := cancelId level (wbits v.a 31 16)
        let inst := wbits v.a 47 32
        let settled := fun (s : State) => s.cancelSettled level u.me.part u.me.job id inst
        1 ≤ level → level ≤ 4 →
        ((u.me.asked level).isSome = true → settled u = true → exec (.cancel d a b) s = .next ((u.acquiredAt 5).putX d 0#64).done)
        ∧ (u.me.asked level = none →
          (level = 4 → u.levelOf u.cur.core u.me = .user → exec (.cancel d a b) s = .next (u.putX d 2#64).done)
          ∧ ((level = 4 → u.levelOf u.cur.core u.me ≠ .user) →
            (u.cancelActive level u.me.part u.me.job id inst = false → exec (.cancel d a b) s = .next (u.putX d 1#64).done)
            ∧ (u.cancelActive level u.me.part u.me.job id inst = true → u.mayRelease 5 = true →
              let t := u.noteRelease.cancelLevel level u.me.part u.me.job id inst
              let t' := t.withMe fun x => { x with pend := [⟨0, level, some (.word 0#64)⟩] }
              ((wbit v.b 0 && !u.me.within level id) = false → exec (.cancel d a b) s = .next (t.putX d 0#64).done)
              ∧ ((wbit v.b 0 && !u.me.within level id) = true → settled t' = true →
                exec (.cancel d a b) s = .next ((t'.acquiredAt 5).putX d 0#64).done))))))
    ∧ (s.ready2 d a = true →
      let u := s.started (.dst d) (.src a) .none
      let v := s.vals (.dst d) (.src a) .none
      let key : GKey := ⟨u.me.part, u.me.job, wbits v.a 9 0⟩
      ∀ g, u.graph key = some g →
        (wbit v.a 27 = false → (g.inst.any fun i => wbit v.a 26 || i.num == wbits v.a 25 10) = true →
          exec (.gcancel d a) s = .next ((u.cancelInst key).putX d 0#64).done)
        ∧ (wbit v.a 27 = false → (g.inst.any fun i => wbit v.a 26 || i.num == wbits v.a 25 10) = false →
          exec (.gcancel d a) s = .next (u.putX d 1#64).done)
        ∧ (wbit v.a 27 = true →
          let t := (if g.inst.isSome then u.cancelInst key else u).draw
          exec (.gcancel d a) s = .next ((t.2.modGraph key fun g =>
            { g with stopEnd := some (t.2.clock + Config.ms 2, wbits v.a 25 10) }).putX d t.1).done))
    ∧ (s.readyA a = true →
      let u := s.started .none (.src a) .none
      let va := (s.vals .none (.src a) .none).a.toNat
      ∀ w ws wt wp t x, va % 64 = 0 → u.localWin va 64 = some w →
        let l := u.here w va 64
        let q := xallReqOf l
        checkCompsig (fieldAt l 48 8) u = .ok () t → q.srcMap % 16 = 0 → q.dstMap % 16 = 0 →
        t.localWin q.srcMap 48 = some ws → t.localWin q.dstMap 48 = some wt →
        let src := LMap.parse (t.here ws q.srcMap 48)
        let dst := LMap.parse (t.here wt q.dstMap 48)
        src.bad = false → dst.bad = false → src.agrees dst = true → t.localWin q.peerTbl (8 * src.nranks) = some wp →
        t.xallCheck t.me.part t.me.job t.me.phase (dieOf t.cur.core) (.run (fieldAt l 48 8) (fieldAt l 56 4)) q src dst
          (t.here wp q.peerTbl (8 * src.nranks)) = .ok x →
        t.mayRelease 5 = true → exec (.xall a) s = .next ((t.noteRelease.addXall x).joinPhase x.part x.job x.phase).done)

/-- R109, R111, R182, R402, R410: TRAP and SYSCALL take their trap with x[a] as TRAPADDR, the flags of what they popped in FPFLAGS, BKPT takes BKPT,
and a chain that names no instruction takes ILLEGAL or PREFIX. -/
def Obligations.TrapInstructions : Prop :=
  ∀ (s : State) (a : Nat),
    (s.readyA a = true →
      exec (.trap a) s = .next ((s.started .none (.src a) .none).flagged.trapped tTrap (s.vals .none (.src a) .none).a)
      ∧ exec (.syscall a) s = .next ((s.started .none (.src a) .none).flagged.trapped tSyscall (s.vals .none (.src a) .none).a))
    ∧ exec .bkpt s = .next (s.begin.trapped tBkpt)
    ∧ exec (.undef .illegal) s = .next (s.begin.trapped tIllegal)
    ∧ exec (.undef .pfx) s = .next (s.begin.trapped tPrefix)

/-- R261, R411 to R417, R424: the system instructions in a context of a level that may run them: SRET returns a parked context or answers why not;
SWR writes a special register; CKPT is a no-op outside a save and gives up the context inside one; MASKW and UNMASKW open and close the masked
window; TLBI invalidates; KEYLD loads a key slot; WAITEV takes latched events; HALTC stops a core. Where the rules leave a choice, it is the model's
(log entries 19, 23, 25, 26, 27, 29, 68 and 116). -/
def Obligations.SystemInstructions : Prop :=
  ∀ (s : State) (d a b sr : Nat),
    let rank := (s.levelOf s.cur.core s.me).rank
    (s.ready3 d a b = true →
      let u := s.started (.dst d) (.src a) (.src b)
      let v := s.vals (.dst d) (.src a) (.src b)
      (1 ≤ rank → u.mayRelease 4 = true →
        let t := u.noteRelease
        let st := t.targetStatus t.cur.core v.a
        let x := t.ctx (targetCore v.a) (targetCtx v.a)
        let word := (t.core (targetCore v.a)).codeWord x.part x.job
        let mode := wbits v.b 1 0
        (st = 0 → mode = 1 → ∀ i, i < 5 → (word (x.trappc.toNat + 2 * i)).isSome = true) →
        exec (.sret d a b) s = .next (if st ≠ 0 then t.putX d (wd st) else if mode = 3 then t.putX d 3#64
          else (t.returnFrom (targetCore v.a) (targetCtx v.a) mode
            (if mode = 1 then skipCount word 5 x.trappc.toNat else 0)).putX d 0#64).done)
      ∧ (2 ≤ rank → v.b.toNat % 8 = 0 → (v.b = 0#64 ∨ u.localWin v.b.toNat 32 = some .scratch) →
        (u.seals.cmd.any fun c => c.2 == wbits v.a 5 0) = false →
        let key := if v.b = 0#64 then [] else u.here .scratch v.b.toNat 32
        exec (.keyld d a b) s = .next (if wbits v.a 63 6 ≠ 0 then u.putX d 2#64
          else if (u.kslot (wbits v.a 5 0)).tiles ≠ 0 then u.putX d 1#64
          else (u.modKslot (wbits v.a 5 0) fun k => { k with loaded := v.b != 0#64, key := key }).putX d 0#64).done)
      ∧ (2 ≤ rank →
        let m := u.myCore.latch &&& v.a
        (m ≠ 0#64 → exec (.waitev d a b) s = .next ((u.modMyCore fun k => { k with latch := k.latch &&& ~~~m }).putX d m).done)
        ∧ (m = 0#64 → (u.me.pend.any fun p => p.ans.isSome) = true → exec (.waitev d a b) s = .next (u.putX d 0#64).done)))
    ∧ (s.ready2 d a = true → 2 ≤ rank →
      let u := s.started (.dst d) (.src a) .none
      let v := s.vals (.dst d) (.src a) .none
      exec (.haltc d a) s = .next (if u.isFw (wbits v.a 11 0) = true then u.putX d 1#64
        else (u.haltCore (wbits v.a 11 0) (wbit v.a 12)).putX d 0#64).done)
    ∧ (s.readyAB a b = true → 1 ≤ rank →
      let u := s.started .none (.src a) (.src b)
      let v := s.vals .none (.src a) (.src b)
      u.mayRelease 4 = true →
      exec (.tlbi a b) s = .next (u.noteRelease.invalidate u.me.part u.me.job v.a.toNat v.b.toNat).done)
    ∧ (s.readyA a = true →
      let u := s.started .none (.src a) .none
      let v := (s.vals .none (.src a) .none).a
      (∀ x, sr < 0x14 → specialRO sr = false → u.me.putSpecial sr v = .ok x → exec (.swr a sr) s = .next (u.setMe x).done)
      ∧ (1 ≤ rank →
        exec (.swr a 0x120) s = .next u.done ∧ exec (.swr a 0x121) s = .next u.done
        ∧ (wbit v 28 = false ∨ ((u.me.asked (0x12200 + wbits v 27 24)).bind (·.ans)).isSome = true → exec (.swr a 0x122) s = .next u.done)
        ∧ exec (.swr a 0x130) s = .next (u.withMe fun x => { x with tsel := v.setWidth 24 }).done
        ∧ exec (.swr a 0x131) s = .next (u.withMe fun x => { x with tdata := v }).done
        ∧ (((u.me.asked 0x132).bind (·.ans)).isSome = true → exec (.swr a 0x132) s = .next u.done))
      ∧ (u.myCore.saving u.me = false → exec (.ckpt a) s = .next u.done)
      ∧ (u.myCore.saving u.me = true → u.me.masked = none → (u.withMe Ctx.withdrawDeqw).drained u.cur.core u.cur.ctx = true →
        let give := fun (live : Option (List LiveRange)) =>
          let t := (u.withMe Ctx.withdrawDeqw).flagged
          ((t.setMe (t.me.retire t.cur.npc)).saveCtx t.cur.core t.cur.ctx live).rotate
        (v = 0#64 → exec (.ckpt a) s = .next (give none))
        ∧ (∀ l, v ≠ 0#64 → readLive v (s.me.tainted a) u = .ok l u → exec (.ckpt a) s = .next (give (some l)))))
    ∧ (s.me.masked = none → exec .maskw s = .next (s.begin.setMe { s.me with masked := some ⟨0, s.clock⟩ }).done)
    ∧ exec .unmaskw s = .next (s.begin.withMe fun x => { x with masked := none }).done

/-- R95, R96, R240 to R252: the line of the first word that a RUNNING context lacks enters its core's fetch buffer; walks are made, made again,
refused and looked at once more; stage 2 is invalidated, its root written, a side log discarded; and the memory master grants a translation, whose
invalidation is acknowledged or runs out. Where the rules leave a choice, it is the model's (log entries 15, 32, 72, 79, 83, 109 and 111). -/
def Obligations.FetchAndTranslationSteps : Prop :=
  ∀ (s : State),
    (∀ core ctx e b t,
      let x := s.ctx core ctx
      let va := (s.core core).missing x
      x.st = .running → (s.core core).halted = false → (s.core core).slotOf x = none → inGlobal va = true →
      (s.cluster (clusterOf core)).hit x.part x.job va 2 = some e → paKind (e.phys va) = .sealed → s.cached core e = true →
      s.lineBusy (clusterOf core) (lineOf (e.phys va)) = false →
      s.cacheLine (clusterOf core) (lineOf (e.phys va)) x.part = some (b, t) →
      exec (.instructionFetchFill core ctx) s = .next (t.addCode core x.part x.job va (e.phys va) b))
    ∧ (∀ tag w, s.walk tag = some w →
      (w.st = .running → exec (.translationWalk tag) s = .next ((s.runWalk w (s.clock + Config.us 64) false).replayJoined w))
      ∧ (∀ t, w.st = .stalled t → t ≤ s.clock → exec (.walkbusy tag) s = .next ((s.runWalk w t true).replayPage w.part w.job w.page))
      ∧ (w.st = .waiting →
        exec (.walkrespRetry tag) s = .next ((s.runWalk w (s.clock + Config.us 64) false).replayPage w.part w.job w.page)
        ∧ exec (.walkrespRefusePage tag) s = .next (s.refuseWalk w tPage)
        ∧ exec (.walkrespRefusePerm tag) s = .next (s.refuseWalk w tPerm)))
    ∧ (∀ part v, part < 32 → exec (.s2rootWrite part v) s = .next
      (if s.board.safe = true then s else s.modPart part fun p => { p with s2root := wd (rootOf v) }))
    ∧ (∀ v, (∀ w ∈ s.walks, ∀ t, w.st ≠ .stalled t) →
      ∃ t, exec (.stage2Invalidation v) s = .next t
        ∧ (∀ c k, t.clusters.find c = some k → ∃ k', s.clusters.find c = some k' ∧ k.tlb = k'.tlb.filter fun e => e.part != v.part)
        ∧ t.board.grants = s.board.grants.map fun g =>
            if g.part = v.part ∧ v.tag = some g.tag ∧ g.invalidated = none then { g with invalidated := some s.clock } else g)
    ∧ (∀ core c, (s.core core).discards.contains c = true →
      ∃ t, exec (.sidelogDiscard core c) s = .next t ∧ (t.core core).log = (s.core core).log.filter (fun e => e.ctx % 16 != c)
        ∧ (t.core core).discards = (s.core core).discards.erase c)
    ∧ (∀ part job jgen va len acc tag reply holder e,
      let u := s.peerAsks part holder (translateRequest 1 part job jgen va len acc tag)
      u.board.stage = 5 → (u.namedJob part job jgen).isSome = true →
      u.xlate part job va (accOf acc) = .ok e → paKind e.pa = .sealed →
      ∃ t, exec (.translate part job jgen va len acc tag reply holder) s = .next t
        ∧ t.board.answers = u.board.answers ++ [(holder, translateAnswer 0 ((if e.rd then 1 else 0) + if e.wr then 2 else 0)
            (if e.bits = 29 then 1 else 0) tag reply u.serial)]
        ∧ t.board.grants.length = u.board.grants.length + 1)
    ∧ (∀ tag g, (s.board.grants.find? fun g => g.tag == tag && g.invalidated.isSome) = some g →
      exec (.acknowledgeInvalidation tag) s = .next (((s.peerAsks g.part g.holder (translateRequest 2 g.part g.job 0 g.va 0 0 tag)).modBoard
        fun b => b.dropGrant tag).answerHolder g.holder (translateAnswer 0 0 0 tag 0#64 tag)))
    ∧ (∀ tag g t, (s.board.grants.find? fun g => g.tag == tag) = some g → g.invalidated = some t → t + Config.ms 10 ≤ s.clock →
      let u := s.modBoard fun b => b.dropGrant tag
      (g.holder.bind u.peerAt = none → exec (.invalidationTimeout tag) s = .next u)
      ∧ (∀ n p, g.holder.bind u.peerAt = some (n, p) →
        exec (.invalidationTimeout tag) s = .next (if p.isol then u else (u.isolate n 0).resolveIsolated)))

/-- R57, R257, R258, R275 to R279, R287, R340: what a seal engine or stack processor performs when a request's turn comes: partial and full-tile
writes, atomics, built-in ship routines, exact cells and signals; a line is filled or written back. Where the rules leave a choice, it is the
model's (log entries 9, 10, 15, 31, 77 and 108). -/
def Obligations.PointOfCoherenceSteps : Prop :=
  ∀ (s : State) (i : Nat) (r : PocReq),
    (s.pocTurn i true = some r →
      let t := s.dropPoc i
      (∀ cells, r.op = .write cells → exec (.partialWrite i) s = .next (match paKind r.pa with
        | .sealed => let out := t.partialWrite r.pa r.part cells; if out.2 then out.1 else out.1.tellDrop r.origin
        | _ => { t with mem := storeCells t.mem cells }))
      ∧ (∀ data, r.op = .full data → exec (.fullTileWrite i) s = .next
        (let out := t.fullWrite (tileOf r.pa) r.part data; if out.2 then out.1 else out.1.tellDrop r.origin))
      ∧ (∀ op size sgn arg cmp, r.op = .amo op size sgn arg cmp →
        exec (.atomicAtPointOfCoherence i) s = .next (t.rmw r r.pa (2 ^ size) fun b =>
          (leBytes (2 ^ size) (amoNew op size sgn (leNat b) arg.toNat cmp.toNat), .word (wd (leNat b)))))
      ∧ (∀ arg ctl, r.op = .ship arg ctl → wbits ctl 7 0 < 8 → t.tileFails (tileOf r.pa) = false →
        let n := wbits ctl 7 0
        let at_ := r.pa + (shipSpan n arg).1
        let res := (shipBuiltin n arg (t.mem.bytes at_ (shipSpan n arg).2)).2
        exec (.shipRoutine i) s = .next ((t.rmw r at_ (shipSpan n arg).2 fun b =>
          ((shipBuiltin n arg b).1, .word res)).shipDone r ctl stOk res))
      ∧ (∀ ty v, r.op = .xadd ty v → t.tileFails (tileOf r.pa) = false → ∀ core ctx, r.origin = .ctx core ctx →
        let x := (cellFmt ty).decode (v.toNat % 2 ^ (if ty = 2 then 32 else 16))
        let sum := t.rmw r r.pa 64 fun b => (leBytes 64 ((cellInt b + x.units (-150)) % (2 ^ 512 : Int)).toNat, .word 0#64)
        exec (.exactCellAdd i) s = .next (if (x.isNan || x.isInf) = true then
            (t.answerReq r (.word 0#64)).pushQ5 core ctx 1 [completion stInvalid 3 (r.va / 64) 0]
          else sum.pushQ5 core ctx 1 [completion stOk 3 (r.va / 64) 0]))
      ∧ (∀ k, r.op = .kmax k → exec (.atomicAtPointOfCoherence i) s = .next (t.rmw r r.pa 8 fun b =>
          (leBytes 8 (kicked (leNat b) k), .word 0#64)))
      ∧ (∀ c, r.op = .ctrl c → exec (.atomicAtPointOfCoherence i) s = .next (t.rmw r r.pa 1 fun b =>
          (leBytes 1 (ctrlled (leNat b) c), .word 0#64)))
      ∧ (∀ neg amount, r.op = (if neg = true then PocOp.sigNeg else .sigAdd amount) → (neg = true → amount = 0) →
        ∃ u, exec (.signalOperation i) s = .next u ∧ u = (t.signalOp r.part r.pa neg amount).1.noteSig r
            (t.signalOp r.part r.pa neg amount).2
          ∧ (t.forwardOf r.pa = none → t.tileFails (tileOf r.pa) = false →
            u.mem = s.mem.store r.pa (leBytes 8 (sigNew neg amount (s.mem.num r.pa 8))))
          ∧ (t.forwardOf r.pa ≠ none → u.mem = s.mem)))
    ∧ (s.pocTurn i false = some r → ∀ ty core ctx, r.op = .xread ty → r.origin = .ctx core ctx →
      let t := s.dropPoc i
      t.tileFails (tileOf r.pa) = false →
      exec (.exactCellRead i) s = .next ((t.answerReq r (.word 0#64)).pushQ5 core ctx 2 [completion stOk 4 (r.va / 64) 0,
        wd ((cellFmt ty).roundInt .rne false false (cellInt (t.mem.bytes r.pa 64)) (-150)).1]))
    ∧ (∀ cl line b,
      let c := s.cluster cl
      (s.lineBusy cl line = false → c.fills.contains line = true →
        (c.cache.get {} line).dirty = 0#64 → s.readPoc (line * 64) 64 = some b →
        exec (.sealFill cl line) s = .next ((s.makeRoom cl line).modCluster cl fun k =>
          { k with fills := k.fills.filter (· != line), badLines := k.badLines.filter (· != line),
                   cache := k.cache.set line { k.cache.get {} line with
                     data := BitVec.ofNat 512 (leNat b), have_ := BitVec.allOnes 64, stamp := s.clock } }))
      ∧ ((c.cache.find line).isSome = true → ∀ ev, exec (.clusterCacheWriteBack cl line ev) s = .next (s.pushLine cl line ev)))
    ∧ (∀ core ctx a t, (s.ctx core ctx).st = .blocked → (s.ctx core ctx).why = some (.signal a) → (s.ctx core ctx).waitAt = some t →
      t + Config.us 4 ≤ s.clock →
      exec (.sigwaitPoll core ctx) s = .next (s.setCtx core ctx (if ((s.ctx core ctx).q1.any fun c => c.missed) = true then
        { s.ctx core ctx with why := some .residency } else { s.ctx core ctx with st := .running, why := none })))
    ∧ (∀ index align image sig, 16 ≤ index → index < 256 → 1 ≤ align → align ≤ 64 → exec (.routineLoad index align image sig) s = .next
      (if Config.signatureValid image sig = true then s.modSeal fun z => { z with routines := z.routines.set index ⟨align, image⟩ } else s))

/-- R253 to R262, R427: the tile buffer is written back, a version climbs its tree, an exhausted tile's 10 ms run out, it is given a key slot and
written anew with the writes that wait for it merged, a GiB's tree starts anew with its memory as never written, and a refresh interval follows the
temperature. Where the rules leave a choice, it is the model's (log entries 8, 26, 77, 83 and 122). -/
def Obligations.SealSteps : Prop :=
  ∀ (s : State),
    (∀ tile, ((s.seals.buf.find tile).any fun b => b.dirty) = true → s.tileSpent tile = false → s.tileFails tile = false →
      exec (.tileWriteBack tile) s = .next (s.writeBack tile))
    ∧ (∀ (i : Nat) c, s.seals.incs[i]? = some c → ∃ t, exec (.versionTreeIncrement i) s = .next t
      ∧ t.seals.incs = dropAt s.seals.incs i ++ (if c.level < 4 then [TreeInc.mk (c.level + 1) (if c.level = 1 then c.index else c.index / 64) c.tile]
          else [])
      ∧ (c.level = 1 → t.seals.verfs.get 0 c.tile = (s.tile c.tile).verf)
      ∧ (c.level = 2 → t.seals.blocks.get 0#64 c.index = s.seals.blocks.get 0#64 c.index + 1#64)
      ∧ (c.level = 3 → t.seals.nodes1.get 0#64 c.index = s.seals.nodes1.get 0#64 c.index + 1#64)
      ∧ (c.level = 4 → t.seals.roots.get 0#64 c.index = s.seals.roots.get 0#64 c.index + 1#64))
    ∧ (∀ tile t, (s.tile tile).exhausted = some t → t + Config.ms 10 ≤ s.clock →
      ∃ u, exec (.exhaustionTimeout tile) s = .next u
        ∧ u.pfaults = s.pfaults ++ [((s.kslot (s.tile tile).slot).part, tSeal)] ∧ (u.tile tile).exhausted = none)
    ∧ (∀ pa slot, paKind pa = .sealed → s.seals.cmd = none → slot < 64 → s.tileFails (tileOf pa) = false →
      let t := tileOf pa
      ∃ u, exec (.rekey pa slot) s = .next u
        ∧ ((∀ r ∈ s.poc, paKind r.pa = .sealed → tileOf r.pa ≠ t) → (u.tile t).slot = slot ∧ (u.tile t).version = 0
          ∧ (u.tile t).exhausted = none ∧ u.mem = s.mem ∧ u.seals.cmd = some (t, slot)
          ∧ (u.endRekey.tile t).version = 1 ∧ (u.endRekey.tile t).slot = slot ∧ u.endRekey.seals.cmd = none)
        ∧ (∀ r cells, s.poc = [r] → r.op = .write cells → paKind r.pa = .sealed → tileOf r.pa = t →
          u.poc = [] ∧ u.mem = storeCells s.mem cells ∧ (u.tile t).version = 0 ∧ (u.endRekey.tile t).version = 1))
    ∧ (∀ pa, paKind pa = .sealed → s.seals.cmd = none →
      ∃ u, exec (.treeinit pa) s = .next u ∧ u.mem = s.mem.clear (gibOf pa * 2 ^ 30) (2 ^ 30)
        ∧ ∀ p ∈ u.seals.tiles, gibOf (p.1 * 4096) ≠ gibOf pa)
    ∧ (∀ stack l temp, stack < 8 → l < 16 → ∃ u, exec (.hbmRefresh stack l temp) s = .next u
      ∧ (u.seals.refresh.get {} (stack * 16 + l)).ivl = (if 95 < temp then 975 else if 85 < temp then 1950 else 3900))

/-- R41, R42, R44, R46, R65, R161, R162, R441: kicks and control writes reach a resident command queue of an open job; a queue that leaves has its
KMAX, RIDX and state in its entry, and a DEQW that waits on it completes with EVICTED; a queue becomes resident in a place that is free; its next
packet is read, at a poll or after a kick too, its slot cleared and RIDX moved on, and an unpublished slot is read again 4 µs later. Where the rules
leave a choice, it is the model's (log entries 41, 44, 45, 46, 79, 103 and 105). -/
def Obligations.QueueSteps : Prop :=
  ∀ (s : State) (key : QKey),
    (∀ q j jgen, s.openJob key.part key.job jgen = some j → key.handle < j.desc.qtlen → s.queue key = some q → q.work = false →
      (s.notices.any fun o => o.key == key) = false →
      (∀ k : Word, exec (.kick key.part key.job jgen key.handle 8 k) s = .next (s.modQueue key fun q =>
          { q with kmax := kicked q.kmax k.toNat, pollAt := q.pollAt.map fun t => min t s.clock,
                   st := if q.st = .idle ∧ q.ridx < kicked q.kmax k.toNat then .running else q.st }))
      ∧ exec (.ctrlStop key.part key.job jgen key.handle) s = .next (s.modQueue key fun q => { q with st := .stopped })
      ∧ exec (.ctrlResume key.part key.job jgen key.handle) s = .next (s.modQueue key fun q =>
          if q.st = .aborted ∨ q.st = .stopped then
            { q with reason := 0, st := if q.kmax ≤ q.ridx ∧ q.ready = [] then .idle else .running }
          else q))
    ∧ (∀ q, s.queue key = some q →
      ∃ t, exec (.queueSwapOut key) s = .next t ∧ t.queues = (s.queues.filter fun o => o.key != key)
        ∧ (∀ core ctx n, s.waiters key = [(core, ctx, n)] → ctx < 16 → (t.ctx core ctx).q1 = (s.ctx core ctx).q1.drop 1
          ∧ (t.ctx core ctx).q1r = (s.ctx core ctx).q1r ++ [wqStatus 4 2 0 0, 0#64])
        ∧ (s.memWf → q.entry % 64 = 0 → paKind q.entry = .sealed → s.writeWaits (tileOf q.entry) = false →
          s.tileFails (tileOf q.entry) = false →
          t.mem.bytes (q.entry + 16) 8 = leBytes 8 q.kmax ∧ t.mem.bytes (q.entry + 24) 8 = leBytes 8 q.ridx
          ∧ t.mem.bytes (q.entry + 48) 8 = leBytes 8 (s.qstate q)))
    ∧ (∀ q, s.queue key = some q → q.reads = true →
      (q.pollAt = none → (q.st ≠ .aborted ∨ q.ready = []) → exec (.packetRead key) s = .next (s.readPacket q))
      ∧ (∀ t, q.pollAt = some t → t ≤ s.clock → exec (.slotRereadPoll key) s = .next (s.readPacket { q with pollAt := none }))
      ∧ (∀ e b, q.st ≠ .aborted → s.unitXlate (queueName key) q.die none key.part key.job (q.slot q.ridx) 3 = (.ok e, s) →
        let pa := e.phys (q.slot q.ridx)
        s.frontStopped key.part = false → s.tilesWait [pa, q.entry] = false → s.tilesWait [q.entry, pa] = false →
        s.readPoc pa 64 = some b →
        let reads := fun (i : Instr) =>
          (byteAt b 0 = 0 → exec i s = .next (s.modQueue key fun q =>
            { q with pollAt := some (s.clock + Config.us 4), st := if q.st = .aborted then .aborted else .blocked }))
          ∧ (2 ≤ byteAt b 0 → byteAt b 0 ≤ 10 → ∃ t, exec i s = .next t
            ∧ ((t.queue key).map fun o => (o.ready, o.ridx, o.pollAt)) = some (q.ready ++ [⟨q.ridx, b⟩], q.ridx + 1, none)
            ∧ (s.memWf → (pa < q.entry + 24 ∨ q.entry + 32 ≤ pa) → t.byteOf pa = 0#8))
        (q.pollAt = none → reads (.packetRead key)) ∧ (∀ t, q.pollAt = some t → t ≤ s.clock → reads (.slotRereadPoll key))))
    ∧ (∀ q p l, s.queue key = some q → q.st = .aborted → q.ready = p :: l → pktSig p.bytes = 0 → s.frontStopped key.part = false →
      exec (.packetRead key) s = .next ((s.unplace fun e => e.name == queueName key).modQueue key fun q =>
        { q with ready := q.ready.drop 1, short := false }))
    ∧ (∀ j u j' t pa b evict, s.job key.part key.job = some j → s.queue key = none → u = s.reread key.part key.job →
      u.job key.part key.job = some j' → key.handle < j'.desc.qtlen → u.frontStopped key.part = false → u.readEntry key j' 0 = (.ok (pa, b), t) →
      entryGood b = true → (t.queues.filter fun q => q.die == byteAt b 3 % 4).length < 512 →
      ∃ v q, exec (.queueSwapIn key evict) s = .next v ∧ v.queues = t.queues ++ [q] ∧ q.key = key ∧ q.entry = pa
        ∧ q.kmax = fieldAt b 16 8 ∧ q.ridx = fieldAt b 24 8)

/-- R50 to R64, R69, R441: the arbiter's choice starts; and the packets of each type do their work and complete: a LAUNCH of which all fits is
placed and its seeds leave one by one, a SEED's messages leave one by one and it ends, a COPY ends once its requests have, a BARRIER is evaluated at
its start and at its polls and completes, waits or aborts its queue by the value that it reads, SIGNAL makes its operation, FENCE writes its record,
GRAPH and XALL start their collective, and CANCEL and NOP complete. Where the rules leave a choice, it is the model's (log entries 43, 47, 48, 50,
103 and 115). -/
def Obligations.PacketSteps : Prop :=
  ∀ (s : State),
    (∀ die q left p rest, s.arbitrate die = some (q, left) → q.ready = p :: rest →
      let t : State := { s with queues := s.queues.map fun (q : RQueue) => if q.die == die && !s.mayStart q then { q with deficit := 0 } else q }
      exec (.packetStart die) s = .next (((t.modQueue q.key fun q => { q with deficit := left }).modDie die fun d =>
        { d with drrAt := visitOf q.key }).startHead q p))
    ∧ (∀ (q : RQueue) (p : ReadPkt), pktType p.bytes = 2 → ∃ z, (s.startPkt q p).seedings = s.seedings ++ [z]
      ∧ ∃ r ∈ (s.startPkt q p).running, r.bytes = p.bytes ∧ z.left = seedMsgs r ∧ z.packet = some r.id)
    ∧ (∀ key q clusters, s.queue key = some q → q.granted = true → q.st ≠ .stopped → q.st ≠ .aborted →
      exec (.launchPacket key clusters) s = .next (s.placeHeads q clusters)
      ∧ (∀ p rest j b w, q.ready = p :: rest → byteAt p.bytes 56 = 0 → s.startCheck q p.bytes = (.ok, s) →
        (s.placing.find? fun e => e.name == queueName key) = none →
        let req := LaunchReq.parse p.bytes
        let v := State.reread { s with serial := s.serial + 1 } key.part key.job
        let cores := (v.usable key.part clusters).take req.nslots
        let t : State := { w with placing := w.placing ++ [⟨queueName key, key.part, key.job, none, [(req.key key.part, cores)]⟩] }
        v.job key.part key.job = some j → req.bad = false → v.lidFree (req.key key.part) = some true →
        req.nslots ≤ (v.usable key.part clusters).length → req.nslots * req.ovfBytes ≤ j.desc.ovflen →
        State.reserveCores req key.part key.job j.desc.ovflen cores v = some w →
        t.unitRead (queueName key) q.die none key.part key.job req.htab (8 * req.hcount) = (.ok b, t) →
        ∃ u, exec (.launchPacket key clusters) s = .next u
          ∧ (∃ l, u.launch (req.key key.part) = some l ∧ l.cores = cores ∧ l.job = key.job ∧ l.hold = req.hold ∧ l.regs = req.regs
            ∧ l.handlers = (List.range req.hcount).map fun h => fieldAt b (8 * h) 8)
          ∧ (∀ c ∈ cores, ∃ r ∈ (u.core c).resvs, r.part = key.part ∧ r.lid = req.lid ∧ r.lgen = req.lgen ∧ r.valid = true)
          ∧ ((u.queue key).map fun q => (q.ready, q.granted)) = some (rest, false)
          ∧ ∃ r ∈ u.running, r.key = key ∧ r.bytes = p.bytes))
    ∧ (∀ z m rest l c, z.left = m :: rest → s.launch z.key = some l → l.ended = false → m.dest < 2 ^ 24 →
      s.tileCore (launchName z.key) z.die l m.dest = (.core c, s) →
      let sent := (s.modSeeding z.id fun z => { z with left := rest, outstanding := z.outstanding + 1 }).toMesh m c (.seeding z.id)
      (∀ rid r, s.runPkt rid = some r → pktType r.bytes = 2 → (s.seedings.find? fun z => z.packet == some rid) = some z →
        exec (.seedPacket rid) s = .next sent)
      ∧ (∀ key q r, s.queue key = some q → q.granted = false →
        (s.running.find? fun r => r.key == key && pktType r.bytes == 1 && !r.begun) = some r →
        (LaunchReq.parse r.bytes).key r.part = z.key → (s.seedings.find? fun y => y.key == z.key && y.packet.isNone) = some z →
        z.making = false →
        (∀ clusters, rest ≠ [] → exec (.launchPacket key clusters) s = .next sent)
        ∧ (∀ clusters, sent.seeded z.key = true → ∃ t, exec (.launchPacket key clusters) s = .next t
          ∧ ∃ o ∈ t.running, o.id = r.id ∧ o.begun = true)))
    ∧ (∀ rid r z m rest, s.runPkt rid = some r → pktType r.bytes = 2 → (s.seedings.find? fun z => z.packet == some rid) = some z →
      z.left = m :: rest → s.launch z.key = none →
      exec (.seedPacket rid) s = .next ((s.niDrop (z.die * 1024) .stale).modSeeding z.id fun z => { z with left := rest }))
    ∧ (∀ rid r, s.runPkt rid = some r →
      (pktType r.bytes = 2 →
        ((s.seedings.find? fun z => z.packet == some rid) = none → exec (.seedPacket rid) s = .next (s.finishPkt rid true))
        ∧ (∀ z, (s.seedings.find? fun z => z.packet == some rid) = some z → z.left ≠ [] → exec (.seedPacket rid) s = .next (s.seedStep z))
        ∧ (∀ z, (s.seedings.find? fun z => z.packet == some rid) = some z → z.left = [] →
          (z.last = true → exec (.seedPacket rid) s = .next
            (((s.modLaunch z.key fun l => { l with hold := false }).modSeeding z.id fun z => { z with last := false }).noteEnd z.key))
          ∧ (z.last = false → z.outstanding = 0 → exec (.seedPacket rid) s = .next
            (State.noteEnd { s with seedings := s.seedings.filter fun y => y.id != z.id } z.key))))
      ∧ (pktType r.bytes = 3 → r.begun = true → r.owed = 0 → s.asking (.unit (unitName 3 rid)) = false →
        exec (.copyPacket rid) s = .next (s.finishPkt rid (!r.failed)))
      ∧ (∀ t n, pktType r.bytes = 3 → r.begun = false →
        s.copyBlock (.unit (unitName 3 rid)) (unitName 3 rid) r.die r.part r.job (fieldAt r.bytes 32 4) (copyRows r.bytes) (.packet rid)
          = (.ok (n, stOk), t) →
        exec (.copyPacket rid) s = .next (t.modRun rid fun r => { r with begun := true, owed := r.owed + n, failed := r.failed || false }))
      ∧ (pktType r.bytes = 4 → r.begun = false →
        exec (.barrierPacket rid) s = .next (((s.watchFor r).modRun rid fun r => { r with begun := true }).evalBarrier
          { r with begun := true }))
      ∧ (pktType r.bytes = 4 → r.begun = true → r.pollAt ≤ s.clock → exec (.barrierPoll rid) s = .next (s.evalBarrier r)
        ∧ (∀ val : Nat → Word, r.failed = false → r.reason = none → pktSig r.bytes = 0 →
          let used := ((List.range 4).zip (barrierWaits r.bytes)).filter fun p => decide (p.2.1 ≠ 0)
          (∀ p ∈ used, inGlobal p.2.1 = true ∧ ∃ e b, s.unitXlate (unitName 3 rid) r.die none r.part r.job p.2.1 0 = (.ok e, s)
            ∧ paKind (e.phys p.2.1) = .sealed ∧ s.readPoc (e.phys p.2.1) 8 = some b ∧ val p.1 = wd (leNat b)) →
          let gone : State :=
            { s with running := s.running.filter (fun r => r.id != rid), watches := s.watches.filter fun w => w.rid != rid }
          ((∀ p ∈ used, (p.2.2 : Int) ≤ sg (val p.1)) → exec (.barrierPoll rid) s = .next gone)
          ∧ ((∀ p ∈ used, 0 ≤ sg (val p.1)) → (∃ p ∈ used, sg (val p.1) < (p.2.2 : Int)) → exec (.barrierPoll rid) s = .next
            (s.modRun rid fun r => { r with pollAt := s.clock + Config.us 4, vals := [] }))
          ∧ ((∃ p ∈ used, sg (val p.1) < 0) → (s.queue r.key).isSome = true → exec (.barrierPoll rid) s = .next
            (gone.modQueue r.key fun q => { q with reason := 1, st := if q.st = .stopped then .stopped else .aborted,
                                                   granted := false, pollAt := none }))))
      ∧ (pktType r.bytes = 5 → r.begun = true → exec (.signalPacket rid) s = .next (s.finishPkt rid (!r.failed)))
      ∧ (∀ e t, pktType r.bytes = 5 → r.begun = false →
        s.takeSigEnd (unitName 3 rid) (fieldAt r.bytes 16 8) (byteAt r.bytes 32 == 1) = none →
        s.unitXlate (unitName 3 rid) r.die none r.part r.job (fieldAt r.bytes 16 8) 3 = (.ok e, t) →
        let pa := e.phys (fieldAt r.bytes 16 8)
        (∀ o ∈ t.poc, o.origin ≠ .unit (unitName 3 rid)) → paKind pa = .sealed → t.sigWaits pa = false →
        let u := t.signalOp r.part pa (byteAt r.bytes 32 == 1) (fieldAt r.bytes 24 8)
        exec (.signalPacket rid) s = .next (u.1.modRun rid fun r => { r with begun := true, failed := !u.2 }))
      ∧ (pktType r.bytes = 6 → r.begun = true → exec (.fencePacket rid) s = .next (s.finishPkt rid (!r.failed)))
      ∧ (∀ va fseq q e t, pktType r.bytes = 6 → r.begun = false → s.queue r.key = some q → q.fencerec = va → q.fseq = fseq →
        va ≠ 0 → va % 32 = 0 → inGlobal va = true → s.unitXlate (unitName 3 rid) r.die none r.part r.job va 1 = (.ok e, t) →
        paKind (e.phys va) = .sealed → t.tilesWait [e.phys va] = false → t.tileFails (tileOf (e.phys va)) = false →
        exec (.fencePacket rid) s = .next (((t.writePoc (e.phys va) r.part (fenceRecord r t.nsNow ((fseq + 1) % 2 ^ 32)) 2).noteRecord
          r.key ((fseq + 1) % 2 ^ 32) none).modRun rid fun r => { r with begun := true, failed := false }))
      ∧ (∀ g, pktType r.bytes = 7 → s.graph ⟨r.part, r.job, fieldAt r.bytes 16 2 % 2 ^ 10⟩ = some g → g.inst = none → g.stopped = false →
        ((s.newInst g r.die (.packet rid) (pktPhase r.bytes) []).phaseOf r.part r.job (pktPhase r.bytes)).any (·.cancelled) = false →
        exec (.graphPacket rid) s = .next (s.newInst g r.die (.packet rid) (pktPhase r.bytes) []))
      ∧ (∀ src dst l t x,
        let q := xallReqOf (r.bytes.drop 16)
        pktType r.bytes = 8 → r.begun = false → (s.xalls.any fun x => x.owner == .packet rid) = false →
        ((s.phaseOf r.part r.job (pktPhase r.bytes)).any fun p => p.cancelled || p.marked) = false → q.srcMap % 16 = 0 → q.dstMap % 16 = 0 →
        s.xallRead (unitName 3 rid) r.die r.part r.job q = (.ok (src, dst, l), t) →
        t.xallCheck r.part r.job (pktPhase r.bytes) r.die (.packet rid) q src dst l = .ok x →
        exec (.xallPacket rid) s = .next (((t.addXall x).joinPhase x.part x.job x.phase).collectStarted (.packet rid)))
      ∧ (pktType r.bytes = 9 →
        let level := byteAt r.bytes 16
        let id := cancelId level (fieldAt r.bytes 18 2)
        let inst := fieldAt r.bytes 20 2
        (r.begun = false → exec (.cancelPacket rid) s = .next ((s.modRun rid fun r => { r with begun := true }).cancelLevel level r.part
          r.job id inst))
        ∧ (r.begun = true → s.cancelSettled level r.part r.job id inst = true →
          exec (.cancelPacket rid) s = .next (s.finishPkt rid true)))
      ∧ (pktType r.bytes = 10 → exec (.nopPacket rid) s = .next (s.finishPkt rid true)))

/-- R161 to R163, R222 to R230: the work-queue unit serves a command at the head of q1, with the words that ENQ, DEQ, DEQW and WQSTAT leave in q1
and in the ring; the special-function unit gives one request of the next core its scalar or row result; and the loop sequencer starts, feeds, hears
and ends a run. Where the rules leave a choice, it is the model's (log entries 35, 37, 94, 100, 104 and 125). -/
def Obligations.UnitSteps : Prop :=
  ∀ (s : State) (core ctx : Nat),
    (∀ h, s.wqHead core ctx 0 = some h → s.released core ctx 4 (((s.ctx core ctx).q1.head?.map (·.since)).getD 0) = true →
      exec (.wqEnq core ctx) s = .next (s.wqServe core ctx 0))
    ∧ (s.released core ctx 4 (((s.ctx core ctx).q1.head?.map (·.since)).getD 0) = true → ∀ h,
      (s.wqHead core ctx 1 = some h → exec (.wqDeq core ctx) s = .next (s.wqServe core ctx 1))
      ∧ (s.wqHead core ctx 2 = some h → exec (.wqDeqw core ctx) s = .next (s.wqServe core ctx 2))
      ∧ (s.wqHead core ctx 3 = some h → exec (.wqWqstat core ctx) s = .next (s.wqServe core ctx 3)))
    ∧ (∀ c l, (s.ctx core ctx).q1 = c :: l → s.released core ctx 4 c.since = true → ctx < 16 →
      let x := s.ctx core ctx
      let key : QKey := ⟨x.part, x.job, wbits c.word 11 0⟩
      let op := wbits c.word 13 12
      let i := if op = 0 then Instr.wqEnq core ctx else if op = 1 then .wqDeq core ctx else if op = 2 then .wqDeqw core ctx
        else .wqWqstat core ctx
      let gives := fun (words : List Word) (also : State → Prop) => ∃ t, exec i s = .next t
        ∧ (t.ctx core ctx).q1 = l ∧ (t.ctx core ctx).q1r = x.q1r ++ words ∧ also t
      let bad := gives (wqStatus 3 op 0 0 :: if op = 1 ∨ op = 2 then [0#64] else []) fun t => t.queues = s.queues
      (op ≠ 0 ∨ c.item.isSome = true) →
      (s.queue key = none → (∀ j, s.job x.part x.job = some j → j.desc.qtlen ≤ key.handle) → bad)
      ∧ (∀ q, s.queue key = some q → q.work = false → bad)
      ∧ (∀ q, s.queue key = some q → q.work = true →
        let room := fun (e : TlbEnt) (n acc : Nat) => s.unitXlate (wqName core ctx) q.die none x.part x.job (q.itemVa n) acc = (.ok e, s)
          ∧ s.tilesWait [q.entry, e.phys (q.itemVa n)] = false
        (op = 0 → q.kmax - q.ridx = 2 ^ q.log2 → gives [wqStatus 1 0 0 0] fun t => t.queues = s.queues)
        ∧ (∀ e w, op = 0 → c.item = some w → q.kmax - q.ridx ≠ 2 ^ q.log2 → room e q.kmax 1 →
          let pa := e.phys (q.itemVa q.kmax)
          paKind pa = .sealed → s.tileFails (tileOf pa) = false → s.waiters key = [] → (∀ d ∈ l, d.waiting = none) →
          gives [wqStatus 0 0 0 0] fun t => ((t.queue key).map fun q => (q.kmax, q.ridx)) = some (q.kmax + 1, q.ridx)
            ∧ (s.memWf → pa % 8 = 0 → t.mem.bytes pa 8 = leBytes 8 w.toNat))
        ∧ (op = 1 → q.kmax = q.ridx → gives [wqStatus 2 1 0 0, 0#64] fun t => t.queues = s.queues)
        ∧ (∀ e b, op = 1 ∨ op = 2 → q.kmax ≠ q.ridx → s.waiters key = [] → room e q.ridx 0 → s.readPoc (e.phys (q.itemVa q.ridx)) 8 = some b →
          gives [wqStatus 0 op 0 0, wd (leNat b)] fun t => ((t.queue key).map fun q => (q.kmax, q.ridx)) = some (q.kmax, q.ridx + 1)
            ∧ (s.memWf → q.entry % 64 = 0 → paKind q.entry = .sealed → s.tileFails (tileOf q.entry) = false →
              t.mem.bytes (q.entry + 24) 8 = leBytes 8 (q.ridx + 1)))
        ∧ (op = 2 → q.kmax = q.ridx → c.waiting = none → s.draining core ctx = false → ∃ t, exec i s = .next t
          ∧ (t.ctx core ctx).q1 = { c with waiting := some (s.die q.die).wqSeq } :: l ∧ (t.ctx core ctx).q1r = x.q1r)
        ∧ (op = 3 → gives [wqStatus 0 3 (q.kmax - q.ridx) q.log2] fun t => t.queues = s.queues)))
    ∧ (∀ cl c n q, (((List.range 16).map fun i => cl * 16 + ((s.cluster cl).sfuAt + i) % 16).filter s.served).findSome? (fun c =>
        (s.core c).nextSfu.map fun p => (c, p)) = some (c, n, q) → n < 16 →
      ∃ t, exec (.sfuResult cl) s = .next t ∧ (t.ctx c n).q7 = serveSlot (s.ctx c n).q7
        ∧ (∀ l m, (s.ctx c n).q7 = l ++ q :: m → (∀ o ∈ l, o.done.isSome = true) →
          (t.ctx c n).q7 = l ++ { q with done := some q.result } :: m)
        ∧ ∀ r, (t.core c).row r =
          if q.vec = true ∧ r = q.drow then Machine.putLanes (laneBits q.typ) ((s.core c).row r) q.lanes else (s.core c).row r)
    ∧ (∀ p l n b t, (s.ctx core ctx).q6 = p :: l → ((List.range 4).find? fun n => ((s.core core).runs.find n).isNone) = some n →
      (s.core core).runOf ctx = none → s.released core ctx 4 p.since = true → s.lsLoad core ctx p = (.ok b, t) → lsBad b = false →
      let x := s.ctx core ctx
      let r : LsRun := { ctx := ctx, part := x.part, job := x.job, lid := x.lid, lgen := x.lgen, desc := .parse b, vbase := p.vbase }
      exec (.lsRunStart core ctx) s = .next ((t.modCtx core ctx fun x => { x with q6 := x.q6.drop 1 }).modCore core fun k =>
        { k with runs := k.runs.set n r }))
    ∧ (∀ run r, (s.core core).runs.find run = some r →
      (∀ fed : LsRun, fed = { r with m := r.m + 1, mxQ := r.mxQ ++ [(r.m, (r.desc.words r.m).drop r.desc.cw)] } → r.emits false = true →
        exec (.lsEmit core run false) s = .next (s.modCore core fun k => { k with runs := k.runs.set run fed }))
      ∧ (∀ fed : LsRun, fed = { r with c := r.c + 1, copyQ := r.copyQ ++ [(r.c, (r.desc.words r.c).take r.desc.cw)] } →
        r.emits true = true → ∃ t, exec (.lsEmit core run true) s = .next t ∧ (t.core core).runs.find run = some fed)
      ∧ (∀ j isCopy e, (r.ended.find? fun e => e.1 == j && e.2.1 == isCopy) = some e →
        exec (.lsCompletion core run j isCopy) s = .next (s.modCore core fun k => { k with runs := k.runs.set run (r.hear j isCopy e.2.2) }))
      ∧ ((r.retired = r.desc.total ∨ r.stopped = true ∨ r.failed = true) → s.runBusy core run r = false → r.desc.endsig = 0 → r.ctx < 16 →
        exec (.lsRunEnd core run) s = .next (s.modCore core fun k =>
          { k with runs := k.runs.del run, lsLast := k.lsLast.set r.ctx { status := r.endStatus, tag := r.desc.tag, retired := r.retired } }))
      ∧ (∀ res t, (r.retired = r.desc.total ∨ r.stopped = true ∨ r.failed = true) → s.runBusy core run r = false → r.ctx < 16 →
        s.sigAct (unitName 11 (core * 2 ^ 20 + 16 + run)) (dieOf core) r.part r.job .run r.desc.endsig (r.endStatus == 1) 1 0 = (res, t) →
        res ≠ .wait → exec (.lsRunEnd core run) s = .next (t.modCore core fun k =>
          { k with runs := k.runs.del run, lsLast := k.lsLast.set r.ctx { status := r.endStatus, tag := r.desc.tag, retired := r.retired } })))

/-- R280 to R286, R292 to R319: a copy engine takes the command at the head of its stream, of the event's operation: the bytes of the source, or the
elements that a list names, are at the destination, or asked of its seal engine, and a CPYR fills the next slot of its ring; a completion pushes its
word. The matrix unit takes commands: an MZERO has zeroed its rows, MCTX and MLUT have set the format, a malformed one has completed so, an MMAC has
joined its cooperation, and the others begin with zeros or with their rows; a step adds the next group's products, of which the last writes the rows
and pushes the completion; and a cooperation that has not formed in 1 ms fails. Where the rules leave a choice, it is the model's (log entries 16,
33, 34, 35, 36, 94, 95 and 96). -/
def Obligations.EngineSteps : Prop :=
  ∀ (s : State) (core n : Nat),
    let cl := clusterOf core
    let st := streamOf n
    let x := s.ctx core n
    let here := fun (u : State) (a k : Nat) => u.localBytes core x .scratch a k
    let local_ := fun (a k : Nat) => s.steer core x a k = some .scratch
    let noted := fun (u : State) => (u.cluster cl).copies.map fun r => (r.ctx, r.header, r.status, r.owed)
    (∀ c, s.copyHead core st = some c → c.whole = true →
      let len := wbits c.header 23 0
      let name := unitName 2 (core * 2 ^ 20 + n)
      let taken := fun (u t : State) => (t.ctx core n).q4 = (u.ctx core n).q4.drop 3 ∧ noted t = noted u ++ [(n, c.header, 0, 0)]
      let range := fun (i : Instr) =>
        exec i s = .next (s.copyTake core st c)
        ∧ (n < 16 → (s.core core).sp.wf = true → s.copyCheck core n x c.header c.src c.dst = none → 1 ≤ len →
          (local_ c.src.toNat len → local_ c.dst.toNat len → ∃ t, exec i s = .next t ∧ taken s t
            ∧ here t c.dst.toNat len = here s c.src.toNat len)
          ∧ (∀ pa pb u v b, len < 4096 → pb % 4096 + len ≤ 4096 → s.steer core x c.src.toNat len = some .glob →
            State.unitMap name (dieOf core) (some cl) x.part x.job 0 (pagesIn len) c.src.toNat len s.fresh.2
              = (.ok [(c.src.toNat, pa, len)], u) →
            paKind pa = .sealed → u.readPoc pa len = some b → u.steer core x c.dst.toNat len = some .glob →
            State.unitMap name (dieOf core) (some cl) x.part x.job 1 (pagesIn len) c.dst.toNat len u
              = (.ok [(c.dst.toNat, pb, len)], v) →
            paKind pb = .sealed → ∃ t q, exec i s = .next t ∧ taken v t ∧ t.poc = v.poc ++ [q] ∧ q.pa = pb ∧ q.op = .write (cellsAt pb b)
              ∧ q.origin = .copy cl s.fresh.1))
      (copyOp c.header = 1 → range (.copyOpCpy core n)) ∧ (copyOp c.header = 2 → range (.copyOpCpyl core n))
      ∧ (copyOp c.header = 3 → s.filling core st = none → exec (.copyOpCpyr core n) s =
        let u := s.fresh.2
        let r := c.run core s.fresh.1 (s.ctx core c.ctx)
        match s.copyCheck core c.ctx (s.ctx core c.ctx) c.header c.src c.dst, s.ring core c.ctx (c.dst.toNat % 8) with
        | some (cause, _), _ => .next ((u.copyPop core st c).addCopy { r with status := copyStatus cause })
        | none, none => .next ((u.copyPop core st c).addCopy { r with status := stRing })
        | none, some g =>
          let r := { r with ring := some (c.ctx, c.dst.toNat % 8), slots := len / g.slotsz }
          let v := (u.copyPop core st c).addCopy r
          .next (if v.mayFill r = true then v.fillSlot r else v))
      ∧ (copyOp c.header = 4 → s.copyOf core st (fun r => r.listing && decide (r.owed = 0) && decide (r.status = 0)) = none →
        exec (.copyOpCpyg core n) s = .next (s.copyTake core st c)
        ∧ (n < 16 → (s.core core).sp.wf = true → s.copyCheck core n x c.header c.src c.dst = none → 1 ≤ len →
          let es := gatherSize c.header
          let list := here s c.src.toNat (8 + 4 * len)
          let at_ := fun j => (fieldAt list 0 8 + fieldAt list (8 + 4 * j) 4 * es) % 2 ^ 64
          local_ c.src.toNat (8 + 4 * len) → winOf (s.resvOf core x).spBytes (s.resvOf core x).stkBytes (fieldAt list 0 8) = some .scratch →
          (∀ j < len, local_ (at_ j) es) → local_ c.dst.toNat (es * len) → ∃ t, exec (.copyOpCpyg core n) s = .next t ∧ taken s t
            ∧ here t c.dst.toNat (es * len) = (List.range len).flatMap fun j => here s (at_ j) es)))
    ∧ (∀ r q t, s.copyOf core st (fun r => r.listing && decide (r.owed = 0) && decide (r.status = 0)) = some r →
      s.gatherGo (unitName 2 (core * 2 ^ 20 + r.ctx)) (s.ctx core r.ctx) r (r.got.flatMap (·.2)) = (.ok q, t) →
      exec (.copyOpCpyg core n) s = .next (t.modCopy cl r.id fun _ => q))
    ∧ (∀ r, s.filling core st = some r →
      exec (.copyOpCpyr core n) s = .next (s.fillSlot r)
      ∧ (∀ k g, n < 16 → (s.core core).sp.wf = true → r.core = core → r.ctx = n → r.status = 0 → r.listing = false → r.got = [] →
        r.ring = some (n, k) → s.ring core n k = some g →
        let src := r.src.toNat + r.filled * g.slotsz
        local_ src g.slotsz → 1 ≤ g.slotsz → ∃ t, exec (.copyOpCpyr core n) s = .next t
          ∧ t.ring core n k = some { g with f := g.f + 1, t := g.t + 1 }
          ∧ here t (wd (g.slotAddr g.f)).toNat g.slotsz = here s src g.slotsz))
    ∧ (∀ cl run r, ((s.cluster cl).copies.find? fun r => r.id == run) = some r → r.owed = 0 → r.slots ≤ r.filled →
      (r.listing = false ∨ r.status ≠ 0) → s.asking (.copy cl run) = false → copyOp r.header ≠ 2 → r.ls = none → 1 ≤ (s.ctx r.core r.ctx).room 5 →
      exec (.copyCompletion cl run) s = .next ((s.modCluster cl fun k => { k with copies := k.copies.filter fun q => q.id != run }).pushQ5
        r.core r.ctx 0 [r.word]))
    ∧ (let t := s.mxDeliver core st
      ∀ h, t.mxCmd core st = none → t.mxHead core st = some h →
      let take := fun (i : Instr) (op : Nat) => h.whole = true → mxOp h.header = op → exec i s = .next (t.mxTake core st h)
      take (.mcmdMma core n) 1 ∧ take (.mcmdMmac core n) 2 ∧ take (.mcmdMtrn core n) 3 ∧ take (.mcmdMperm core n) 4
      ∧ take (.mcmdMred core n) 5 ∧ take (.mcmdMzero core n) 6 ∧ take (.mcmdMctx core n) 7 ∧ take (.mcmdMlut core n) 8
      ∧ (h.whole = false → exec (.mcmdMalformed core n) s = .next (t.mxTake core st h)))
    ∧ (∀ h, s.mxCmd core st = none → s.mxHead core st = some h → n < 16 →
      let w := h.extra.headD 0#64
      let op := mxOp h.header
      let popped := fun (t : State) => (t.ctx core n).q2 = x.q2.drop (1 + h.extra.length)
      let ends := fun (i : Instr) (status : Nat) (p : State → Prop) => ∃ t, exec i s = .next t ∧ popped t ∧ t.mxCmd core st = none
        ∧ (t.ctx core n).q3 = x.q3 ++ [wd (status + op * 2 ^ 8 + wbits h.header 63 48 * 2 ^ 16)] ∧ p t
      let height := if op = 3 then mxKg h.header * groupLen (s.core core).fmt.btype (s.core core).fmt.ctype
        else if op = 5 then 1 else mxM h.header
      let begins := fun (i : Instr) => ∃ t, exec i s = .next t ∧ popped t
        ∧ ((t.mxCmd core st).map fun c => (c.header, c.step, c.done, c.acc)) = some (h.header, 0, none, (List.range height).map fun i =>
            (List.range (mxN h.header)).map fun l =>
              if wbit h.header 4 = true then laneAt 32 ((s.core core).row (x.rowIdx h.vbase (mxCrow h.header + i))) l else 0)
      (h.whole = false → x.q3.length < 8 → ends (.mcmdMalformed core n) 1 fun _ => True)
      ∧ (h.whole = true → s.mxCheck core n x h.header w = none →
        (wbit h.header 7 = false → x.q3.length < 8 →
          (op = 6 → ends (.mcmdMzero core n) 0 fun t => ∀ i < mxM h.header,
            let k := x.rowIdx h.vbase (mxCrow h.header + i)
            (t.core core).row k = putLanes 32 ((s.core core).row k) (List.replicate (mxN h.header) (some (0, 0#5))))
          ∧ (op = 7 → ends (.mcmdMctx core n) 0 fun t => (t.core core).fmt = { (s.core core).fmt with
              atype := wbits h.header 12 8, btype := wbits h.header 17 13, ctype := wbits h.header 18 18 })
          ∧ (op = 8 → ends (.mcmdMlut core n) 0 fun t => (t.core core).fmt = { (s.core core).fmt with
              table := (h.extra.flatMap fun w => leBytes 8 w.toNat).map fun b => intVal true 8 b.toNat }))
        ∧ (s.mxLate core n x (s.core core).fmt h.header w = none →
          (op = 1 → begins (.mcmdMma core n)) ∧ (op = 3 → begins (.mcmdMtrn core n)) ∧ (op = 4 → begins (.mcmdMperm core n))
          ∧ (op = 5 → begins (.mcmdMred core n)))
        ∧ (∀ p, op = 2 → s.coopPlace core x.lkey (wbits w 31 24) = some p →
          let o : Coop := ((s.cluster cl).coops.find p).getD
            { part := x.part, lid := x.lid, lgen := x.lgen, gid := wbits w 31 24, parts := wbits w 15 0, opened := s.clock }
          let all := o.members ++ [(core, st)]
          (∃ i < 16, o.parts / 2 ^ i % 2 = 1 ∧ ∀ m ∈ all, m.1 % 16 ≠ i) → ∃ t, exec (.mcmdMmac core n) s = .next t ∧ popped t
            ∧ ((t.mxCmd core st).map fun c => (c.header, c.coop, c.done)) = some (h.header, some p, none)
            ∧ (t.cluster cl).coops.find p = some { o with members := all })))
    ∧ (∀ cl c k,
      let t := (s.cluster cl).mx.foldl (fun s p => s.mxDeliver p.1 p.2.stream) s
      let u := t.modCluster cl fun q => { q with mxAt := (c % 16 + 1) % 16, mxStream := q.mxStream.set (c % 16) (k.stream.rank + 1) }
      t.nextStep cl = some (c, k) →
      (k.coop = none →
        exec (.matrixStep cl) s = .next ((u.runStep c k (if mxOp k.header = 1 then u.operandA c k else k.constA)).advance c k))
      ∧ (∀ g, k.coop = some g → exec (.matrixStep cl) s = .next
        (let all := u.coopCmds cl g
        let v := all.foldl (fun s m => s.advance m.1 m.2.2) (all.foldl (fun s m => s.runStep m.1 m.2.2 (u.operandA c k)) u)
        if k.step + 1 = mxKg k.header then v.modCluster cl fun q => { q with coops := q.coops.del g } else v)))
    ∧ (∀ cl c k, (∀ p ∈ (s.cluster cl).mx, p.2.done = none) → s.nextStep cl = some (c, k) → k.coop = none → clusterOf c = cl →
      s.mxCmd c k.stream = some k →
      let y := s.ctx c k.ctx
      let op := mxOp k.header
      let len := groupLen k.fmt.btype k.fmt.ctype
      let ones := fun (one : Nat → Bool) =>
        GVec.mk ((List.range len).map fun i => .fin false (if one (k.step * len + i) = true then 1 else 0) 0) (some 0)
      let a := if op = 1 then s.operandA c k else if op = 3 then (List.range k.height).map fun m => ones fun i => i == m
        else if op = 4 then k.perm.map fun p => ones fun i => i == p else [ones fun _ => true]
      let r := applyGroup k.fmt.ctype k.acc a (s.operandB c k)
      let heads := fun (t : State) (m : Nat) => ∀ g, s.ring c k.ctx m = some g →
        t.ring c k.ctx m = some (if k.step % g.gps + 1 = g.gps then { g with h := g.h + 1 } else g)
      let moved := fun (t : State) => (wbit k.header 6 = false → heads t (wbits k.header 29 27))
        ∧ (op = 1 → wbit k.header 5 = false → heads t (wbits k.header 26 24))
      (k.step + 1 ≠ mxKg k.header → ∃ t, exec (.matrixStep cl) s = .next t ∧ moved t
        ∧ ((t.mxCmd c k.stream).map fun q => (q.step, q.acc, q.flags, q.done)) = some (k.step + 1, r.1, k.flags ||| r.2, none))
      ∧ (k.step + 1 = mxKg k.header → k.ls = none → k.ctx < 16 → wbit k.header 7 = false → y.q3.length < 8 →
        mxCrow k.header + r.1.length ≤ y.rows → ∃ t, exec (.matrixStep cl) s = .next t ∧ moved t ∧ t.mxCmd c k.stream = none
          ∧ (t.ctx c k.ctx).q3 = y.q3 ++ [wd (op * 2 ^ 8 + (k.flags ||| r.2) * 2 ^ 12 + wbits k.header 63 48 * 2 ^ 16 + mxKg k.header * 2 ^ 32)]
          ∧ ∀ i l, r.1[i]? = some l →
            let m := y.rowIdx k.vbase (mxCrow k.header + i)
            (t.core c).row m = putLanes 32 ((s.core c).row m) (l.map fun v => some (v, 0#5))))
    ∧ (∀ cl place o, (s.cluster cl).coops.find place = some o → place < 4 → o.opened + Config.ms 1 ≤ s.clock →
      exec (.cooptimeout cl place) s = .next (s.coopFail cl place 7)
      ∧ (∀ c m k, s.coopCmds cl place = [(c, m, k)] → clusterOf c = cl → s.mxCmd c m = some k → k.ls = none → k.ctx < 16 →
        (s.ctx c k.ctx).q3.length < 8 → ∃ t, exec (.cooptimeout cl place) s = .next t ∧ (t.cluster cl).coops.find place = none
          ∧ t.mxCmd c m = none ∧ (t.ctx c k.ctx).q3 = (s.ctx c k.ctx).q3
            ++ [wd (7 + mxOp k.header * 2 ^ 8 + k.flags * 2 ^ 12 + wbits k.header 63 48 * 2 ^ 16)]))

/-- R344 to R358, R359 to R369: what an endpoint admits has its effect. A message enters the mesh: one of no flow at once, one of a flow in its
turn, a duplicate not at all, and an early one is held. A bead's bytes are in memory and its rod counts it, the last one makes the flag action, and
what its rod does not take is dropped with a count or puts the rod in FAULT; so a beam, and the notices at a send rod. A request for data is
answered, an answer reaches the request that waits, an atomic returns the old value, a store writes its bytes, and a packet written into the window
is taken as itself. An unknown type is counted; and acknowledgements, retransmissions, expired halves, read timeouts and the clearing of an
isolation. Where the rules leave a choice, it is the model's (log entries 58, 59, 60, 61, 63, 78, 81, 98, 99, 108 and 126). -/
def Obligations.FabricSteps : Prop :=
  ∀ (s : State) (port : Nat) (pkt : Pkt),
    let die := portDie port
    let ep := pkt.sdev
    let gives := fun (i : Instr) (p : State → Prop) => ∃ t, exec i s = .next t ∧ p t
    let free := fun (t : State) => (t.peerAt ep).any (fun p => p.2.isol) = false
    let drops := fun (i : Instr) (n : Nat) (f : EpDrop → EpDrop) => exec i s = .next (s.epDrop (rodDie n) f)
    let faults := fun (i : Instr) (n srod : Nat) =>
      let r := s.rod n
      gives i fun t => (t.rod n).st = .fault ∧ t.mem = s.mem
        ∧ (free s → ∃ p ∈ t.egress, p.1 = rodDie n ∧ p.2.ddev = ep ∧ p.2.body = .notice srod r.gen true r.count)
    let gate := fun (i : Instr) (n g dpart srod : Nat) =>
      let r := s.rod n
      ((r.st = .free ∨ r.st = .quarantine ∨ r.send = true ∨ r.part ≠ dpart) → drops i n EpDrop.addBadrod)
      ∧ (r.st ≠ .free → r.st ≠ .quarantine → r.send = false → r.part = dpart →
        ((r.gen + 256 - g % 256) % 256 ≠ 0 → drops i n EpDrop.addGen)
        ∧ ((r.gen + 256 - g % 256) % 256 = 0 → r.sender.any (fun p => p != (ep, srod)) = true → drops i n EpDrop.addBadrod)
        ∧ ((r.gen + 256 - g % 256) % 256 = 0 → r.sender.any (fun p => p != (ep, srod)) = false →
          (r.st = .open_ ∨ r.st = .sent ∨ r.st = .fault) → drops i n EpDrop.addBadrod))
    let fits := fun (n g dpart srod : Nat) =>
      let r := s.rod n
      r.send = false ∧ r.part = dpart ∧ (r.gen + 256 - g % 256) % 256 = 0 ∧ r.sender.any (fun p => p != (ep, srod)) = false
    let flags := fun (i : Instr) (n : Nat) (u : State) =>
      let r := s.rod n
      ∀ e w, u.unitXlate (unitName 6 n) (rodDie n) none r.part r.job r.flagaddr 1 = (.ok e, w) →
        let pa := e.phys r.flagaddr
        paKind pa = .sealed → w.forwardOf pa = none → w.tileWaits (tileOf pa) = false → w.tileFails (tileOf pa) = false →
        gives i fun t => (t.rod n).st = .done ∧ (s.memWf → t.mem.bytes pa 8 = leBytes 8 (if r.flagadd = true then
          sigNew false (min r.flagval.toNat (2 ^ 63 - 1)) (w.mem.num pa 8) else r.flagval.toNat))
    (s.letIn port pkt = none →
      (∀ m, pkt.body = .message m → m.ord = false →
        (∀ c u, s.inboundCore die m = (.core c, u) →
          exec (.messagePacket port pkt) s = .next { u with mesh := u.mesh ++ [⟨m, c, .hw⟩] })
        ∧ (∀ u, s.inboundCore die m = (.none_, u) → (u.launch ⟨m.dpart, m.lid, m.lgen⟩).isSome = true →
          exec (.messagePacket port pkt) s = .next { u.epDrop die EpDrop.addBadtile with acks := u.acks ++ [.hw] }))
      ∧ (∀ m c u, pkt.body = .message m → m.ord = true → s.inboundCore die m = (.core c, u) →
        let cls : FlowClass := if m.pri = true then .h else .l
        let mine := fun (r : RecvRec) => r.named ep m.score m.flow cls.code
        let v := u.dropStale
        let last := fun (w : State) => ∀ q, w.recvs.find? mine = some q →
          ∀ p ∈ w.reorder, flowKeyOf p.pkt ≠ some (ep, m.score, m.flow, cls, q.next)
        let arrived := fun (w : State) (c : Nat) => ({ w with mesh := w.mesh ++ [⟨m, c, .flow ep m.score m.flow cls.code⟩] } : State)
        (∀ r, v.recvs.find? mine = some r →
          let behind := (r.next + 2 ^ 16 - m.seq) % 2 ^ 16
          let w : State := { v with recvs := v.recvs.map fun q => if mine q then { q with next := (q.next + 1) % 2 ^ 16 } else q }
          (∀ c' w', behind = 0 → w.inboundCore die m = (.core c', w') → last w' →
            exec (.messagePacket port pkt) s = .next (arrived w' c'))
          ∧ (0 < behind → behind ≤ 2 ^ 15 → exec (.messagePacket port pkt) s = .next v)
          ∧ (2 ^ 15 < behind → (v.reorder.any fun q => flowKeyOf q.pkt == flowKeyOf pkt) = false →
            (v.reorder.filter fun q => q.die == dieOf c && (flowKeyOf q.pkt).any fun k => k.2.2.2.1 == cls).length < 64 →
            exec (.messagePacket port pkt) s = .next { v with reorder := v.reorder ++ [⟨dieOf c, port, v.stamped pkt⟩] }))
        ∧ (v.recvs.find? mine = none → m.taddr = false → m.seq = 0 → (v.recvs.filter fun q => q.die == dieOf c).length < 8192 →
          let r : RecvRec := { die := dieOf c, sdev := ep, score := m.score, flow := m.flow, cls := cls, core := c, part := m.dpart, next := 1 }
          let w : State := { v with recvs := v.recvs ++ [r] }
          last w → exec (.messagePacket port pkt) s = .next (arrived w c)))
      ∧ (∀ score flow cls q r, pkt.body = .flowclose score flow cls q →
        let mine := fun (r : RecvRec) => r.named ep score flow (if cls = 1 then FlowClass.h else .l).code
        let v := s.dropStale
        v.recvs.find? mine = some r → q = r.next → r.done = r.next → r.next < 2 ^ 16 →
        exec (.messagePacket port pkt) s = .next (({ v with recvs := v.recvs.filter fun r => !mine r } : State).emit r.die ep
          (.flowack r.score r.flow r.cls.code q)))
      ∧ (∀ a g dpart srod daddr data, pkt.body = .bead a g dpart srod daddr data → (s.rod (a % 2 ^ 14)).use = .program →
        let n := a % 2 ^ 14
        let r := s.rod n
        let pieces := s.beadPieces dpart (splitAt (2 ^ 16) 4 daddr data.length)
        let bead := Instr.bead port pkt
        gate bead n g dpart srod
        ∧ (fits n g dpart srod → (r.st = .done → drops bead n EpDrop.addBadrod) ∧ (r.st = .armed ∨ r.st = .beamed →
          (r.expect = some r.count → faults bead n srod)
          ∧ (r.expect ≠ some r.count →
            (pieces = none → drops bead n EpDrop.addXlate)
            ∧ (∀ l, pieces = some l → s.piecesWait l = true →
              exec bead s = .next { s with held := s.held ++ [(port, s.stamped pkt)] })
            ∧ (∀ l, pieces = some l → s.piecesWait l = false → s.mergeFails l = true → gives bead fun t => t.rods = s.rods)
            ∧ (∀ l, pieces = some l → s.piecesWait l = false → s.mergeFails l = false →
              let u := (State.writeAll dpart l data s).modRod n fun r => { r with count := r.count + 1, sender := some (ep, srod) }
              (r.expect ≠ some (r.count + 1) → exec bead s = .next u ∧ (u.rod n).st = r.st)
              ∧ (r.expect = some (r.count + 1) → flags bead n u))
            ∧ (∀ pa, pieces = some [(pa, data.length)] → s.memWf → data ≠ [] → pa % 4096 + data.length < 4096 →
              s.writeWaits (tileOf pa) = false → s.tileFails (tileOf pa) = false → r.expect ≠ some (r.count + 1) →
              gives bead fun t => (t.rod n).count = r.count + 1 ∧ t.mem.bytes pa data.length = data)))))
      ∧ (∀ a g dpart k srod, pkt.body = .beam a g dpart k srod → (s.rod (a % 2 ^ 14)).use = .program →
        let n := a % 2 ^ 14
        let r := s.rod n
        let beam := Instr.beamArrival port pkt
        gate beam n g dpart srod
        ∧ (fits n g dpart srod →
          (r.st = .armed →
            let u := s.modRod n fun r =>
              { r with st := .beamed, expect := some k, sender := some (ep, srod), deadline := s.clock + Config.us r.t }
            (r.count < k → exec beam s = .next u) ∧ (k < r.count → faults beam n srod) ∧ (k = r.count → flags beam n u))
          ∧ (r.st = .beamed → (r.expect = some k → exec beam s = .next s) ∧ (r.expect ≠ some k → faults beam n srod))
          ∧ (r.st = .done → exec beam s = .next s)))
      ∧ (∀ a g fault k, pkt.body = .notice a g fault k → (s.rod (a % 2 ^ 14)).use = .program →
        let n := a % 2 ^ 14
        let r := s.rod n
        let i := if fault = true then Instr.faultNotice port pkt else .shortNotice port pkt
        let old := s.puts.filter fun p => p.2.rod != n || p.2.isFirst
        let again := fun (c : Replay) => (rodDie n, ({ rod := n, gen := g % 256, cmd := c } : PutJob))
        let mine := r.st ≠ .free ∧ r.st ≠ .quarantine ∧ r.send = true ∧ r.tdev = ep
        (¬mine → drops i n EpDrop.addBadrod)
        ∧ (mine → fault = true →
          (r.st ≠ .open_ → r.st ≠ .sent → drops i n EpDrop.addBadrod)
          ∧ (r.st = .open_ ∨ r.st = .sent → gives i fun t => (t.rod n).st = .fault ∧ t.puts = old
            ∧ ∀ c, s.roleCore roleFault (some (rodDie n)) = some c → ∃ m, t.mesh = s.mesh ++ [⟨m, c, .hw⟩] ∧ m.kind = .event
              ∧ m.payload.take 2 = [wd (0x30 + n * 2 ^ 8 + r.part * 2 ^ 22 + 2 ^ 27),
                wd (r.count % 2 ^ 32 + (r.expect.getD 0xFFFFFFFF) * 2 ^ 32)]))
        ∧ (mine → fault = false →
          (r.st ≠ .sent → drops i n EpDrop.addBadrod)
          ∧ (r.st = .sent → (r.gen + 256 - g % 256) % 256 ≤ 128 → drops i n EpDrop.addGen)
          ∧ (r.st = .sent → 128 < (r.gen + 256 - g % 256) % 256 →
            (∀ l c, r.list = l ++ [c] → gives i fun t => (t.rod n).st = .sent ∧ (t.rod n).gen = g % 256 ∧ (t.rod n).count = r.count
              ∧ (t.rod n).deadline = s.clock + Config.us (3 * r.t) + Config.ms 2
              ∧ t.puts = old ++ l.map again ++ [((again c).1, { (again c).2 with beams := [(rodDie n, g % 256, r.count)] })])
            ∧ (r.list = [] → (old.any fun p => p.2.rod == n && p.2.target.isNone) = false → exec i s = .next
              ((({ s with puts := old } : State).modRod n fun r => { r.beamed s.clock with gen := g % 256 }).emit (rodDie n) ep
                (.beam r.trod (g % 256) r.tpart r.count n))))))
      ∧ (∀ tag dpart daddr len, pkt.body = .readreq tag dpart daddr len →
        (inFabricWindow daddr = true →
          exec (.readreq port pkt) s = .next (s.emit die ep (.readresp tag (List.replicate len 0#8))))
        ∧ (inFabricWindow daddr = false →
          let got := (splitAt (2 ^ 16) 4 daddr len).mapM fun p => match s.stage2 dpart p.1 with
            | .ok l => if l.rd && !l.mig && paKind (l.out p.1) == .sealed then s.readPoc (l.out p.1) p.2 else none
            | _ => none
          (∀ l, got = some l → exec (.readreq port pkt) s = .next (s.emit die ep (.readresp tag l.flatten)))
          ∧ (got = none → gives (.readreq port pkt) fun t => t.egress = s.egress ∧ t.mem = s.mem)))
      ∧ (let heard : State := { s with peers := s.peers.map fun _ p => if p.valid && p.ep == ep then { p with tocnt := 0 } else p }
        let answers := fun (i : Instr) (tag : Nat) (data : List Byte) =>
          let rest := s.waits.filter fun w => w.tag != tag
          let told := fun (c x : Nat) (a : Answer) => exec i s = .next { heard.modCtx c x fun y =>
            { y with pend := y.pend.map fun p => if p.id == tag then { p with ans := some a } else p } with waits := rest }
          ((s.waits.find? fun w => w.tag == tag && w.peer == ep) = none → exec i s = .next heard)
          ∧ (∀ w, (s.waits.find? fun w => w.tag == tag && w.peer == ep) = some w →
            (∀ c x va len, w.req = .load c x va len → told c x (.bytes data))
            ∧ (∀ c x va z sgn, w.req = .atomic c x va z sgn → told c x (.word (wd (leNat data % 2 ^ (8 * 2 ^ z)))))
            ∧ (∀ id off len q, w.req = .getr id off len → (s.getrs.find? fun q => q.id == id) = some q → q.dstMap = none → q.id = id →
              q.pieces = 1 → q.ctx < 16 → gives i fun t => t.getrs = s.getrs.filter (fun h => h.id != id)
                ∧ (t.ctx q.core q.ctx).q5 = (s.ctx q.core q.ctx).q5 ++ [completion stOk 5 q.tag 0, wd (q.written + len)])
            ∧ (∀ part d to_ tag', w.req = .relay part d to_ tag' →
              exec i s = .next { heard.emit d to_ (.atomicresp tag' (wd (leNat data))) with waits := rest }))
        (∀ tag data, pkt.body = .readresp tag data → answers (.readresp port pkt) tag data)
        ∧ (∀ tag old, pkt.body = .atomicresp tag old → answers (.atomicresp port pkt) tag (leBytes 8 old.toNat)))
      ∧ (∀ tag score q dpart daddr op z sgn arg cmp l, pkt.body = .atomic tag score q dpart daddr op z sgn arg cmp →
        s.stage2 dpart daddr = .ok l →
        let pa := l.out daddr
        let old := s.mem.num pa (2 ^ z)
        let mem := s.mem.store pa (leBytes (2 ^ z) (amoNew op z sgn old arg.toNat cmp.toNat))
        l.rd = true → l.wr = true → l.mig = false → paKind pa = .sealed → pa % 2 ^ z = 0 → s.forwardOf pa = none →
        s.tileWaits (tileOf pa) = false → s.tileFails (tileOf pa) = false → op ≠ .sigAdd → op ≠ .sigNeg →
        let u : State := { s.touchTile (tileOf pa) dpart with mem := mem }
        let mine := fun (r : RecvRec) => r.named ep score 0 2
        (s.feottePeer ep = false →
          exec (.atomic port pkt) s = .next (if tag = 0 then u else u.emit die ep (.atomicresp tag (wd old))))
        ∧ (∀ r, s.feottePeer ep = true → s.dropStale.recvs.find? mine = some r →
          let behind := (r.next + 2 ^ 16 - q) % 2 ^ 16
          (behind = 0 → r.closed = false → (∀ p ∈ s.reorder, flowKeyOf p.pkt ≠ some (ep, score, 0, .atomic, (r.next + 1) % 2 ^ 16)) →
            gives (.atomic port pkt) fun t => t.mem = mem ∧ (t.recvs.find? mine).map (·.next) = some ((r.next + 1) % 2 ^ 16)
              ∧ (tag ≠ 0 → free s → ∃ p ∈ t.egress, p.1 = die ∧ p.2.ddev = ep ∧ p.2.body = .atomicresp tag (wd old)))
          ∧ (0 < behind → behind ≤ 2 ^ 15 → exec (.atomic port pkt) s = .next s.dropStale)))
      ∧ (∀ dpart daddr data, pkt.body = .store dpart daddr data →
        let pieces := s.beadPieces dpart (splitAt (2 ^ 16) 4 daddr data.length)
        let store := Instr.store port pkt
        (inFabricWindow daddr = false →
          (pieces = none → gives store fun t => t.mem = s.mem ∧ t.egress = s.egress)
          ∧ (∀ l, pieces = some l →
            (s.piecesWait l = true → exec store s = .next { s with held := s.held ++ [(port, s.stamped pkt)] })
            ∧ (s.piecesWait l = false → exec store s = .next (State.writeAll dpart l data s)))
          ∧ (∀ pa, pieces = some [(pa, data.length)] → s.memWf → data ≠ [] → pa % 4096 + data.length < 4096 →
            s.writeWaits (tileOf pa) = false → s.tileFails (tileOf pa) = false →
            gives store fun t => t.mem.bytes pa data.length = data))
        ∧ (inFabricWindow daddr = true → daddr % 256 = 0 → s.feottePeer ep = true →
          let tag := daddr / 2 ^ 9 % 2 ^ 31
          let upper := daddr / 256 % 2 == 1
          let p : Pkt := { pktOf data with src := ep }
          let whole := upper = false ∧ (data.length = 256 → packetBytes data ≤ 256)
          (whole → p.sdev ≠ ep → exec store s = .next (s.epDrop die EpDrop.addBadtype))
          ∧ (whole → p.sdev = ep → s.letIn port p = none →
            (∀ m, p.body = .message m → exec store s = exec (.messagePacket port p) s)
            ∧ (∀ a b c d e f, p.body = .bead a b c d e f → exec store s = exec (.bead port p) s)
            ∧ (∀ a b c d e, p.body = .beam a b c d e → exec store s = exec (.beamArrival port p) s)
            ∧ (∀ a b c d, p.body = .notice a b c d →
              exec store s = exec (if c = true then .faultNotice port p else .shortNotice port p) s))
          ∧ (¬whole → (∀ h ∈ s.halves, ¬(h.die = die ∧ h.src = ep ∧ h.tag = tag ∧ h.upper ≠ upper)) → exec store s = .next
            { s with halves := s.halves ++ [⟨die, ep, tag, upper, data, s.clock + Config.ms 2⟩] })))
      ∧ (∀ score flow cls q, pkt.body = .flowack score flow cls q →
        let mine := fun (f : Flow) => f.handle == flow && f.cls.code == cls && f.dest.ddev == pkt.sdev && !f.broken
          && (ackedTo q f.unacked).length != f.unacked.length
        (s.flowsOf score).any mine = true →
        exec (.flowack port pkt) s = .next (((s.modFlow score mine fun f =>
          { f with unacked := ackedTo q f.unacked, rounds := 0, since := s.clock }).sendWaiting score).sendCloses score)))
    ∧ (∀ n, pkt.body = .unknown n → (n = 0 ∨ 10 < n) → exec (.badtypePacket port pkt) s = .next (s.epDrop (portDie port) EpDrop.addBadtype))
    ∧ (∀ (i : Nat) h, s.halves[i]? = some h → h.deadline ≤ s.clock →
      exec (.unpairedHalfExpiry i) s = .next { s.epDrop h.die EpDrop.addExpired with halves := dropAt s.halves i })
    ∧ (∀ tag w, (s.waits.find? fun w => w.tag == tag) = some w → w.deadline ≤ s.clock → s.answerHeld tag = false →
      exec (.readTimeout tag) s = .next (((s.unanswered w stTimeout).peerTimeout w.peer (s.reqPart w.req) (s.reqDie w.req)).resolveIsolated)
      ∧ (∀ c x va len n p, w.req = .load c x va len → s.peerAt w.peer = some (n, p) → p.tocnt + 1 < fabIsoln (s.part (s.ctx c x).part).fabpol →
        p.tocnt < 15 → (∀ v ∈ s.waits, ∀ k ∈ s.peers, k.2.isol = true → k.2.ep ≠ v.peer) → gives (.readTimeout tag) fun t =>
          t.waits = s.waits.filter (fun v => v.tag != tag) ∧ (t.peer n).tocnt = p.tocnt + 1
          ∧ (t.ctx c x).pend = (s.ctx c x).pend.map fun q => if q.id == tag then { q with ans := some (.fault tPerm (wd va)) } else q))
    ∧ (∀ (i : Nat) r t, s.recvs[i]? = some r → 0 < r.unsent → r.ackAt = some t → t ≤ s.clock →
      exec (.flowackTimer i) s = .next { s.sendFlowAck r with recvs := putAt s.recvs i { r with unsent := 0, ackAt := none } })
    ∧ (∀ core (i : Nat) f, (s.flowsOf core)[i]? = some f → f.broken = false → f.unacked ≠ [] → f.dest.ddev ≠ selfEp →
      f.since + Config.us 50 ≤ s.clock → f.rounds < 8 →
      exec (.flowRetransmit core i) s = .next (f.unacked.foldl (fun s p => s.emit (dieOf core) f.dest.ddev p.body)
        { s with flows := s.flows.set core (putAt (s.flowsOf core) i { f with rounds := f.rounds + 1, since := s.clock }) }))
    ∧ (∀ peer, peer < 1024 → exec (.isolClear peer) s = .next (s.modPeer peer fun p => { p with isol := false }))

/-- R351 to R358, R372, R443: the timers of a rod: a receive timer that runs out asks again three times and then faults, a beam is repeated, a
retransmit window closes, a re-arm's 16 µs pass and a quarantine ends; and a die injects the next bead of a put. Where the rules leave a choice, it
is the model's (log entries 53, 54, 55, 63 and 126). -/
def Obligations.RodSteps : Prop :=
  ∀ (s : State) (n : Nat),
    let r := s.rod n
    (r.st = .beamed → r.flagdue = false → r.deadline ≤ s.clock →
      let peer := r.sender.getD (0, 0)
      (r.short < 3 → exec (.rodTimerExpiry n) s = .next ((s.emit (rodDie n) peer.1 (.notice peer.2 ((r.gen + 1) % 256) false r.count)).modRod n
        fun r => { r with st := .armed, gen := (r.gen + 1) % 256, count := 0, expect := none, short := r.short + 1,
                          genAt := if r.use == .program then s.clock else r.genAt }))
      ∧ (3 ≤ r.short → exec (.rodTimerExpiry n) s = .next (s.recvFault n peer)))
    ∧ (∀ t l, r.st = .sent → r.repeats = t :: l → t ≤ s.clock → s.putsOf n = false →
      exec (.beamRepeat n) s = .next ((s.modRod n fun r => { r with repeats := r.repeats.drop 1 }).emitBeam (rodDie n) n r.gen r.count))
    ∧ (r.st = .sent → r.deadline ≤ s.clock → exec (.retransmitWindowDeadline n) s = .next (s.closeWindow n))
    ∧ (r.st = .done → r.rearm = true → r.genAt + Config.us 16 ≤ s.clock → exec (.rodRearm n) s = .next (s.rearmRod n))
    ∧ (r.st = .quarantine → r.quarUntil ≤ s.clock → exec (.quarantineEnd n) s = .next (s.modRod n fun r => { r with st := .free }))
    ∧ (∀ die j b data, s.putReady die [] s.puts = some j → j.cmd.beads[j.pos]? = some b → s.beadSource j.cmd b = some data →
      let k := { j with pos := j.pos + 1 }
      let to_ := j.target.getD ((s.rod j.rod).tdev, (s.rod j.rod).trod, (s.rod j.rod).tpart)
      let u := s.emit die to_.1 (.bead to_.2.1 j.gen to_.2.2 j.rod b.daddr data)
      let t := { u with puts := replaceFirst (die, j) (die, k) u.puts }
      exec (.beadInjection die) s = .next (if k.pos < j.cmd.beads.length then t else t.putEnd die k))

/-- R383 to R401, R432: an instance of a graph starts, arming its rods; its nodes copy, put, beam, wait, reduce tile by tile, send and launch; a
node that has ended tells its successors; and the instance retires, aborts or is stopped. An XALL arms, sends, copies its local part and finishes.
Where the rules leave a choice, it is the model's (log entries 38, 39, 54, 64, 65, 110 and 114). -/
def Obligations.GraphSteps : Prop :=
  ∀ (s : State) (key : GKey),
    (∀ g i t base u, s.graph key = some g → g.inst = some i → i.aborted = none → i.startAt = some t → t ≤ s.clock →
      s.baseTable key i = (.ok base, u) →
      let states := g.nodes.map fun n => if n.npred = 0 then NodeSt.ready else .waiting
      let begin_ := fun (i : GInst) =>
        { i with startAt := none, base := base, counts := g.nodes.map (·.npred), begun := g.nodes.map fun _ => false, nodes := states }
      exec (.graphInstanceStart key) s = .next ((((u.armGraph g i.num).modInst key begin_).applyDeferred
        (g.rods.map (·.rod))).collectStarted i.owner))
    ∧ (∀ (n : Nat) g i d begun,
      let w := s.nodeStart key n
      let rn := ((g.rods[d.rod0]?).map (·.rod)).getD 0
      (s.nodeAt key n 1 = some (g, i, d, true) → i.owed.get 0 n = 0 → w.asking (.unit (nodeName key n)) = false →
        exec (.nodeCopy key n) s = .next (if w.seals.dropped.contains (nodeName key n) = true then w.nodeFail key n stSeal
          else w.setNode key n .ended))
      ∧ (∀ k t, s.nodeAt key n 1 = some (g, i, d, false) →
        (w.modSeal fun z => { z with dropped := z.dropped.filter (· != nodeName key n) }).copyBlock (.unit (nodeName key n))
          (nodeName key n) i.die key.part key.job d.len
          (if d.len = 0 then [] else [(baseAddr i.base d.addr0, baseAddr i.base d.addr1)]) (.node key n) = (.ok (k, stOk), t) →
        exec (.nodeCopy key n) s = .next ((t.nodeBegun key n).modInst key fun i => { i with owed := i.owed.set n k }))
      ∧ (∀ src t dst u, s.nodeAt key n 2 = some (g, i, d, false) → (w.rod rn).send = true → (w.rod rn).st = .open_ →
        w.feottePeer (w.rod rn).tdev = true → inGlobal (baseAddr i.base d.addr0) = true → inGlobal (baseAddr i.base d.addr0 + (d.len - 1)) = true →
        State.unitMap (nodeName key n) i.die none key.part key.job 0 (pagesIn d.len) (baseAddr i.base d.addr0) d.len w = (.ok src, t) →
        (src.any fun p => paKind p.2.1 != .sealed) = false →
        inGlobal (baseAddr i.base d.addr1) = true → inGlobal (baseAddr i.base d.addr1 + (d.len - 1)) = true →
        State.unitMap (nodeName key n) i.die none key.part key.job 1 (pagesIn d.len) (baseAddr i.base d.addr1) d.len t = (.ok dst, u) →
        u.nodeDest (w.rod rn).tdev dst = true → (w.rod rn).nput ≠ 1024 →
        (w.rod rn).count + (beadsOf src dst (baseAddr i.base d.addr1) d.len).length < 2 ^ 32 →
        ∀ j : PutJob, j = { rod := rn, gen := (w.rod rn).gen, cmd := ⟨none, beadsOf src dst (baseAddr i.base d.addr1) d.len⟩,
                            since := u.clock, node := some (key, n) } →
        exec (.nodePutc key n) s = .next ((u.pushPut i.die rn j).nodeBegun key n))
      ∧ (s.nodeAt key n 3 = some (g, i, d, begun) → (w.rod rn).send = true → (w.rod rn).st = .open_ → w.putsOf rn = false →
        exec (.nodeBeam key n) s = .next ((w.sendBeam (rodDie rn) rn).setNode key n .ended))
      ∧ (s.nodeAt key n 4 = some (g, i, d, begun) → (w.rod rn).st = .done → exec (.nodeRodwait key n) s = .next (w.setNode key n .ended))
      ∧ (s.nodeAt key n 5 = some (g, i, d, true) → d.len % d.elemBytes = 0 →
        (i.tiles.filter fun p => p.1 == n).length = reduceTiles (baseAddr i.base d.addr1) d.len →
        (d.rankord = false ∨ w.inputsDone g d = true) → exec (.nodeReduce key n) s = .next (w.setNode key n .ended))
      ∧ (∀ tile l t m u v, s.nodeAt key n 5 = some (g, i, d, true) → w.inputsDone g d = true → i.tiles.contains (n, tile) = false →
        tile < reduceTiles (baseAddr i.base d.addr1) d.len →
        let dst := baseAddr i.base d.addr1
        let es := d.elemBytes
        let lo := (tileRange dst d.len tile).1
        let k := (tileRange dst d.len tile).2
        let e0 := (lo - dst) / es
        let cnt := (lo - dst + (k - 1)) / es + 1 - e0
        let from_ := fun (o : Option Nat) => (match o with
          | none => baseAddr i.base d.addr0
          | some r => (d.arg0.toNat + r * d.len) % 2 ^ 64) + e0 * es
        State.reduceReads (nodeName key n) i.die key.part key.job (cnt * es) ((reduceOrder g i d).map from_) w = (.ok l, t) →
        inGlobal lo = true → inGlobal (lo + (k - 1)) = true →
        State.unitMap (nodeName key n) i.die none key.part key.job 1 2 lo k t = (.ok m, u) →
        (m.any fun p => paKind p.2.1 != .sealed) = false →
        u.writeBead key.part (m.map fun p => (p.2.1, p.2.2))
          ((((List.range cnt).flatMap fun e => leBytes es (reduceElem d (l.map fun b => fieldAt b (es * e) es))).drop
            (lo - dst - e0 * es)).take k) = .written v →
        exec (.reduceTile key n tile) s = .next (v.modInst key fun i => { i with tiles := i.tiles ++ [(n, tile)] }))
      ∧ (∀ b t c u, s.nodeAt key n 6 = some (g, i, d, false) → wbit d.arg0 30 = false → wbit d.arg0 31 = false →
        w.globalRead (nodeName key n) i.die key.part key.job (baseAddr i.base d.addr0) 48 = (.ok b, t) →
        (nodeMsg i.die d b).ddev = selfEp → t.inboundCore i.die (nodeMsg i.die d b) = (.core c, u) → (u.core c).pressed = false →
        exec (.nodeSend key n) s = .next ((u.toMesh (nodeMsg i.die d b) c (.node key n)).nodeBegun key n))
      ∧ (∀ clusters b t u v, s.nodeAt key n 7 = some (g, i, d, false) →
        w.globalRead (nodeName key n) i.die key.part key.job (baseAddr i.base d.addr0) 128 = (.ok b, t) →
        t.nodeSig (nodeName key n) i.die key.part key.job (LaunchReq.parse b).sig = (.ok (), u) → pktType b = 1 →
        (LaunchReq.parse b).gang = 0 →
        u.place (nodeName key n) key.part key.job clusters
          [{ req := LaunchReq.parse b, owner := .node key n, graph := some key.handle, phase := i.phase, die := i.die }] = (.placed, v) →
        exec (.nodeLaunch key n clusters) s = .next ((v.nodeBegun key n).modInst key fun i =>
          { i with templates := i.templates.set n b }))
      ∧ (s.graph key = some g → g.inst = some i → i.nodes[n]? = some .ended →
        ∃ t, exec (.nodeFinish key n) s = .next t
          ∧ ((t.graph key).bind (·.inst)).map (·.counts) = some ((((g.nodes[n]?).map (·.succ)).getD []).foldl
              (fun c k => putAt c k ((c.getD k 0) - 1)) i.counts)))
    ∧ (∀ g i sig val, s.graph key = some g → g.inst = some i → i.owner = .run sig val →
      (i.startAt = none → i.aborted = none → (i.nodes.all fun st => st == .finished) = true →
        (g.rods.all fun r => !(r.send && ((s.rod r.rod).st == .sent || s.putsOf r.rod))) = true → sig = 0 →
        exec (.instanceRetire key) s = .next ((s.modGraph key fun g => { g with inst := none }).ownerDone i.owner key.part key.job i.phase
          false))
      ∧ (∀ node status, i.aborted = some (node, status) → s.instQuiet g i = true → g.failrec = 0 → sig = 0 →
        exec (.instanceAbort key) s = .next ((s.modGraph key fun g => { g with inst := none, stopped := true, status := status }).ownerDone
          i.owner key.part key.job i.phase true)))
    ∧ (∀ g t num, s.graph key = some g → g.inst = none → g.stopEnd = some (t, num) → t ≤ s.clock →
      exec (.graphStoppedEnd key) s = .next (s.modGraph key fun g => { g with stopped := false, next := (g.stopEnd.map (·.2)).getD g.next,
                                                                              stopEnd := none }))
    ∧ (∀ id x, (s.xalls.find? fun x => x.id == id) = some x →
      (x.failed = false → x.started = false → (s.xalls.filter fun y => y.die == x.die && y.started && !y.failed).length < 4 →
        s.spacing x.rods ≤ s.clock →
        exec (.xallStart id) s = .next (((s.armXall x).modXall id fun x => { x with started := true }).applyDeferred x.rods))
      ∧ (∀ plan t, x.failed = false → x.started = true → x.sent = false →
        State.xallPlan x ((List.range (x.src.nranks - 1)).map fun i => (x.me + 1 + i) % x.src.nranks) s = (.ok plan, t) →
        exec (.xallStart id) s = .next ((plan.foldl (fun s p => s.xallSend x p) t).modXall id fun x => { x with sent := true }))
      ∧ (∀ sig val, (x.failed || s.xallDone x) = true → x.owner = .run sig val → sig = 0 →
        ∃ t, exec (.xallFinish id) s = .next t ∧ t.xalls = s.xalls.filter fun y => y.id != id))

/-- R400, R407, R408, R413, R416, R418 to R423, R430 to R440: a cancel mark and its grace, the completion of launches, phases and jobs with the
signals that it makes, the watchdog, the parking and masking limits, partition reset with its contexts FREE, its launches gone and its queues
rewound, the saving and restoring of a job, supervisor commands with the word and the status that they leave, and the event tick and timeout of a
firmware core. The cause that PARKLIM records is the free value at the model's counter. Where the rules leave a choice, it is the model's (log
entries 27, 28, 29, 66, 67, 68, 69, 70, 71, 105 and 119). -/
def Obligations.LifecycleSteps : Prop :=
  ∀ (s : State) (core ctx : Nat),
    let x := s.ctx core ctx
    (∀ key l, s.launch key = some l → l.marks.contains core = true →
      let mark := fun (k : Core) => k.modResv key fun r => { r with mark := some s.clock }
      let rewind := fun (_ : Nat) (e : StreamEnt) =>
        if e.part == key.part && e.lid == key.lid && e.lgen == key.lgen && (e.st == .active || e.st == .bound) then
          { e with st := .bound, bytes := 0, overrun := false, cursor := 0 } else e
      let t := (((s.modLaunch key fun l => { l with marks := l.marks.erase core }).modCore core fun k =>
        { mark k with streams := k.streams.map rewind }).dropWaiting core key).dropSaved core key
      exec (.cancelMark core key) s = .next (((t.core core).members key fun t => t == .parked).foldl (fun s c => s.terminate core c) t))
    ∧ (∀ key r t, (s.core core).resv key = some r → r.mark = some t → t + Config.us 20 ≤ s.clock →
      exec (.cancelGraceEnd core key) s = .next (((s.core core).members key fun _ => true).foldl (fun s c => s.terminate core c)
        (s.dropSaved core key)))
    ∧ (∀ key l, s.launch key = some l → l.ended = true → l.released = true → l.sig = 0 →
      exec (.launchComplete key) s = .next (s.reportLaunch l false))
    ∧ (∀ key l, s.launch key = some l → l.ended = true → l.sig = 0 →
      (l.released = true ∨ (s.launchDrained l = true ∧ s.podReleased key.part (l.cores.map clusterOf) = true)) →
      ∃ t, exec (.launchComplete key) s = .next t ∧ t.launch key = none
        ∧ t.freed = s.freed ++ [⟨key.part, false, key.lid, key.lgen, s.clock⟩]
        ∧ (l.released = false → ∀ c ∈ l.cores, (t.core c).resv key = none
          ∧ ∀ e ∈ (t.core c).streams, ¬(e.2.part = key.part ∧ e.2.lid = key.lid ∧ e.2.lgen = key.lgen))
        ∧ (∀ rid, l.owner = .packet rid → (∀ r ∈ t.running, r.id ≠ rid)
          ∧ ∀ p, s.phaseOf key.part l.job l.phase = some p → t.phaseOf key.part l.job l.phase =
            some { p with members := p.members - 1, failed := p.failed || l.cancelled })
        ∧ (∀ g n gr i, l.owner = .node g n → l.cancelled = false → s.graph g = some gr → gr.inst = some i →
          ((t.graph g).bind (·.inst)).map (·.nodes) = some (putAt i.nodes n .ended)))
    ∧ (∀ part job phase p j u t, s.phaseOf part job phase = some p → s.job part job = some j → (p.marked || p.cancelled) = true →
      p.members = 0 → s.sigAct (unitName 10 (part * 2 ^ 14 + job * 2 ^ 8 + phase)) 0 part job .phase (j.desc.phsig + 8 * phase)
        p.failed 1 phase = (u, t) → u ≠ .wait →
      exec (.phaseComplete part job phase) s = .next
        { t.modJob part job (fun j => { j with phases := j.phases - 1, failed := j.failed || p.failed }) with
            phases := t.phases.filter fun x => !(x.part == part && x.job == job && x.phase == phase) })
    ∧ (∀ part job j, s.job part job = some j → (j.closed || j.cancelled) = true → j.phases = 0 → s.cancelling part job = false →
      j.desc.jobsig = 0 → ∃ t, exec (.jobComplete part job) s = .next t ∧ t.job part job = none
        ∧ ∀ q ∈ t.queues, ¬(q.key.part = part ∧ q.key.job = job))
    ∧ ((x.st = .running ∨ x.st = .blocked) → ctx < 16 → s.runLimit x ≠ 0 → s.runLimit x ≤ x.ran s.clock →
      exec (.watchdog core ctx) s = .next ((s.dropAsks core ctx).trapAt core ctx tWatchdog
        (wd (x.ran s.clock / Config.cyclesPerUs)) x.pc))
    ∧ (x.st = .parked → s.isFw core = false →
      let limit := Config.ms (wbits (s.part x.part).wdpol 47 32)
      limit ≠ 0 → x.parkedAt + limit ≤ s.clock → (s.pfaults.any fun p => p.1 == x.part) = false →
      ∃ t c, exec (.parklim core ctx) s = .next t ∧ c ∈ presetCodes ∧ t.pfaults = s.pfaults ++ [(x.part, c)])
    ∧ (x.st = .running → x.maskLate s.clock = true → exec (.masklen core ctx) s = .next (s.trapAt core ctx tMasklen 0#64 x.pc))
    ∧ (∀ part r, (s.resets.find? fun r => r.part == part) = some r → exec (.partitionReset part) s = .next (s.resetQueues r))
    ∧ (∀ part c, s.resetCause part = some c → (s.resets.find? fun r => r.part == part) = none →
      let p := s.purge part
      let v : State := { p with queues := p.queues.map fun (q : RQueue) => if q.key.part == part && !q.work then { q with st := .stopped } else q }
      ∃ t, exec (.partitionReset part) s = .next t ∧ t = s.resetPart part c
        ∧ (∀ k, s.isFw k = false → (∀ n, (s.ctx k n).part = part → (t.ctx k n).st = .free) ∧ ∀ r ∈ (t.core k).resvs, r.part ≠ part)
        ∧ (∀ l ∈ t.launches, l.key.part ≠ part) ∧ (∀ r ∈ t.running, r.part ≠ part)
        ∧ (∀ n, (s.rod n).part = part → (s.rod n).st ≠ .free → (s.rod n).st ≠ .quarantine →
          (t.rod n).st = .quarantine ∧ (t.rod n).quarUntil = s.clock + Config.ms 2)
        ∧ (∀ q ∈ t.queues, q.key.part = part → q.work = false → q.st = .stopped)
        ∧ (s.rewindKeys part = [] → t.presetCause = c ∧ (s.presetPart = part → t.presetBusy = false))
        ∧ ∀ q, s.rewindKeys part = [q.key] → s.queue q.key = some q →
          let at_ := (t.queue q.key).map fun o => (o.ridx, o.kmax, o.st)
          ((q.fencerec = 0 ∨ q.recorded = false) → at_ = some (q.ridx, q.kmax, .stopped) ∧ t.presetCause = c)
          ∧ ∀ e b w, q.fencerec ≠ 0 → q.recorded = true →
            v.unitXlate (queueName q.key) q.die none q.key.part q.key.job q.fencerec 0 = (.ok e, v) →
            v.readPoc (e.phys q.fencerec) 32 = some b → v.readOwn (q.entry + 32) 8 = some w →
            let f := fieldAt b 0 8
            at_ = some (if (leNat w + (2 ^ 64 - f)) % 2 ^ 64 ≤ 2 ^ q.log2 then (f, f, .stopped) else (q.ridx, q.kmax, .stopped))
            ∧ t.presetCause = c)
    ∧ (∀ die,
      let q := (s.die die).preq
      let saved := fun (v : SavedJob) => v.part = q.part ∧ v.job = q.job ∧ v.area = q.area
      (q.busy = true → q.op = 1 → ∃ t, exec (.preemptSave die) s = .next t ∧ t = s.beginSave die q
        ∧ (t.die die).preq.op = 3 ∧ (t.die die).preq.busy = true ∧ t.jobSaved q.part q.job = true
        ∧ (∀ o ∈ t.queues, o.key.part = q.part → o.key.job = q.job → o.work = true)
        ∧ ∀ c, s.isFw c = false → (s.core c).resvsOf q.part q.job ≠ [] →
          (∀ r ∈ (t.core c).resvs, r.part = q.part → r.job = q.job → r.hold = true)
          ∧ ∃ w ∈ (t.core c).save, w.1 = q.part ∧ w.2.1 = q.job)
      ∧ (q.busy = true → q.op = 3 → (s.cores.any fun p => !s.isFw p.1 && !(p.2.ofJob q.part q.job).isEmpty) = false →
        ∃ t, exec (.preemptSave die) s = .next t ∧ t = s.endSave die q ∧ (t.die die).preq.op = 0 ∧ (t.die die).preq.busy = false
          ∧ (∀ c ∈ s.columnCores, (t.core c).latch.getLsbD 4 = true)
          ∧ ∀ v ∈ s.saves, saved v → ∀ c ∈ v.cores, c.done = false → ∀ r ∈ (t.core c.core).resvs,
            r.part = c.resv.part → r.lid = c.resv.lid → r.lgen = c.resv.lgen → r.stub = true)
      ∧ (q.busy = true → q.op = 2 → exec (.preemptRestore die) s = .next (s.restoreJob die q)
        ∧ (∀ t, t = s.restoreJob die q →
          let ends := fun (void : Bool) => (t.die die).preq = { q with op := 0, busy := false, fail := false, void := void }
            ∧ ∀ c ∈ s.columnCores, (t.core c).latch.getLsbD 4 = true
          let find := s.saves.find? fun v => v.part == q.part && v.job == q.job && v.area == q.area
          (find = none → ends false)
          ∧ (∀ v, find = some v → v.void = true → ends true ∧ t.saves = s.saves.erase v)
          ∧ ∀ v c stub, find = some v → v.void = false → v.cores = [c] →
            let key : LKey := ⟨c.resv.part, c.resv.lid, c.resv.lgen⟩
            (s.core c.core).resv key = some stub →
            ((s.core c.core).fits c = false → (t.die die).preq = { q with fail := true } ∧ t.saves = s.saves)
            ∧ ((s.core c.core).fits c = true → stub.ringQ = [] → c.log = [] → c.resv.valid = true → ends false
              ∧ t.saves = s.saves.erase v
              ∧ (∃ r, (t.core c.core).resv key = some r ∧ r.spots = c.resv.spots ∧ r.stub = false ∧ r.hold = false)
              ∧ (s.spWf → (t.core c.core).sp.bytes c.resv.spBase c.sp.length = c.sp)
              ∧ ∀ n y, c.ctxs = [(n, y)] → t.ctx c.core n =
                y.restored (c.was.get .running n) s.clock (s.core c.core).halted))))
    ∧ (ctx < 16 → (s.core core).saving x = true → (x.st = .parked ∨ x.st = .exiting) →
      (s.modCtx core ctx Ctx.withdrawDeqw).drained core ctx = true →
      exec (.fullSave core ctx) s = .next ((s.modCtx core ctx Ctx.withdrawDeqw).saveCtx core ctx none))
    ∧ (∀ (p : Pending) (write : Bool), x.commandOpen write = some p →
      let i := if write = true then Instr.tcmdWrite core ctx else .tcmdRead core ctx
      let w := wd x.tsel.toNat
      let c := targetCore w
      let n := targetCtx w
      let y := s.ctx c n
      let sel := x.tcmd.toNat % 2 ^ 13
      let ends := fun (u : State) (status : Nat) (data : Option Word) => exec i s = .next ((u.modCtx core ctx fun x =>
        { x with tcmd := BitVec.ofNat 17 (x.tcmd.toNat % 2 ^ 13 + status * 2 ^ 14), tdata := data.getD x.tdata }).answer core ctx p.id
          (.word 0#64))
      let selects := fun (v : Word) (u : State) => if write = true then ends u 0 none else ends s 0 (some v)
      (s.targetStatus core w ≠ 0 → ends s (s.targetStatus core w) none)
      ∧ (s.targetStatus core w = 0 →
        (y.sel sel = none → ends s 3 none)
        ∧ (1 ≤ sel → sel ≤ 0x17 → sel < y.alloc → selects (y.reg sel) (s.setCtx c n (y.setReg sel x.tdata false)))
        ∧ (∀ m k, m < 8 → k < 4 → sel = 0x20 + 4 * m + k → selects ((y.mask m).extractLsb' (64 * k) 64)
          (s.setCtx c n (y.setMask m (putMaskPart (y.mask m) k x.tdata))))
        ∧ (sel = 0x40 → if write = true ∧ x.tdata.getLsbD 0 = true then ends s 3 none else selects y.rpc (s.setCtx c n { y with rpc := x.tdata }))
        ∧ (∀ k, k < 0x14 → sel = 0x100 + k →
          (write = false → ends s 0 (some (s.special c n k)))
          ∧ (write = true → specialRO k = true → ends s 3 none)
          ∧ (∀ z, write = true → specialRO k = false → y.putSpecial k x.tdata = .ok z → ends (s.setCtx c n z) 0 none))
        ∧ (∀ r k, k < 32 → r < y.rows → sel = 0x1000 + 32 * r + k →
          let row := (s.core c).row (y.rowIdx y.vbase r)
          selects (row.extractLsb' (64 * k) 64)
            (s.modCore c fun o => o.setRow (y.rowIdx y.vbase r) (putRowPart row k x.tdata)))))
    ∧ (s.isFw core = true → core < 4096 → (s.core core).tickAt + Config.us 100 ≤ s.clock →
      exec (.eventTick core) s = .next ((s.modCore core fun k => { k with tickAt := k.tickAt + Config.us 100 }).setLatch core 0))
    ∧ (∀ m t p l, x.st = .blocked → x.why = some (.event m) → x.waitAt = some t → x.pend = p :: l → p.key ≠ 0 →
      t + Config.us p.key ≤ s.clock →
      let y : Ctx := { x with pend := x.pend.map fun p => { p with ans := some (.word 0#64) } }
      exec (.waitevTimeout core ctx) s = .next (s.setCtx core ctx (if (x.q1.any fun c => c.missed) = true then
        { y with why := some .residency } else { y with st := .running, why := none })))

/-- R72, R261, R446 to R453, R456, R457: boot and the warm resets, the removal of power with what it loses and keeps, the fuses, the control-space
registers written and read, a cluster's partition, and the windows of power and the bands of temperature, of which the highest reset the device or
leave it in the safe state. Where the rules leave a choice, it is the model's (log entries 10, 11, 75, 76, 80, 106, 117, 118 and 121). -/
def Obligations.BoardSteps : Prop :=
  ∀ (s : State) (selftest : Nat) (detail v : Word),
    let boots := fun (i : Instr) (cold : Bool) (code : Nat) (left : State → Prop) => ∃ t, exec i s = .next t ∧ left t
      ∧ t.launches = [] ∧ t.jobs = [] ∧ t.queues = [] ∧ t.running = [] ∧ t.rods = [] ∧ (∀ c n, (t.ctx c n).st = .free)
      ∧ t.board.flash = s.board.flash ∧ t.board.svnfuse = s.board.svnfuse
      ∧ (∀ f g, s.board.verify 0 = .inl f → s.board.verify 1 = .inl g → code ≠ 0x20 → code ≠ 0x21 →
        t.board.stage = 15 ∧ t.board.safe = true ∧ t.board.fail = f ∧ t.board.faildet = 7#64 ∧ t.board.bankFail = (f, g))
      ∧ ∀ e, (s.board.verify 0 = .inr e ∨ ∃ f, s.board.verify 0 = .inl f ∧ s.board.verify 1 = .inr e) →
        let fails := (cold = true ∧ (code = 0x10 ∨ code = 0x11)) ∨ code = 0x12 ∨ code = 0x13 ∨ code = 0x14 ∨ code = 0x20 ∨ code = 0x21
        (fails → t.board.stage = 15 ∧ t.board.safe = true ∧ t.board.fail = code ∧ t.board.faildet = detail)
        ∧ (¬fails → t.board.stage = 5 ∧ t.board.safe = false ∧ t.board.fail = 0 ∧ t.board.table = some e ∧ t.board.cap = e.capdef
          ∧ ∀ c, c < 4096 → t.isFw c = true → (t.core c).fwHandlers = Config.fwHandlers c)
    let warm := fun (why : Nat) (t : State) => t.mem = s.mem ∧ t.clock = s.clock ∧ t.seals.lost = allGibs
      ∧ t.seals.tiles = s.seals.tiles ∧ t.board.repair = s.board.repair ∧ t.board.warmcnt = min (s.board.warmcnt + 1) 65535
      ∧ t.board.lastrst = why
    exec (.coldReset selftest detail) s = .next (s.coldClear.boot true selftest detail)
    ∧ boots (.coldReset selftest detail) true selftest (fun t => t.board.warmcnt = 0 ∧ t.board.lastrst = 0 ∧ t.seals = State.reset.seals
        ∧ t.mem = s.mem.filter fun c => decide (paKind c.1 = .host))
    ∧ (s.board.booting = false → boots (.fatalWarmReset selftest detail) false selftest (warm 2))
    ∧ (∀ t, s.board.graceful = some t →
      (s.flushed = true → boots (.gracefulWarmReset selftest detail) false selftest (warm 1))
      ∧ (t + Config.ms 1 ≤ s.clock → s.flushed = false → boots (.gracefulResetTimeout selftest detail) false selftest (warm 2)))
    ∧ (s.board.graceful = none → s.board.booting = false → exec (.gracefulWarmReset selftest detail) s = .next s.stopAll)
    ∧ (∀ t, s.board.graceful = some t → s.flushed = true →
      exec (.gracefulWarmReset selftest detail) s = .next ((s.warmClear 1).boot false selftest detail))
    ∧ (s.board.booting = false → exec (.fatalWarmReset selftest detail) s = .next ((s.warmClear 2).boot false selftest detail))
    ∧ (∀ t, s.board.graceful = some t → t + Config.ms 1 ≤ s.clock → s.flushed = false →
      exec (.gracefulResetTimeout selftest detail) s = .next ((s.warmClear 2).boot false selftest detail))
    ∧ exec .modulePowerRemoval s = .next { State.reset with
        agenda := s.agenda, serial := s.serial, draws := s.draws, egress := s.egress,
        mem := s.mem.filter fun c => decide (paKind c.1 = .host),
        board := { flash := s.board.flash, svnfuse := s.board.svnfuse, powered := false } }
    ∧ (∀ n t, s.board.safe = false → s.board.table = some t → n ≤ t.svn → n ≤ 64 → s.board.svnfuse < n →
      exec (.svnburn n) s = .next (s.modBoard fun b => { b with svnfuse := n }))
    ∧ (∀ cluster, s.board.safe = false → cluster < 256 →
      let k := s.cluster cluster
      let part := if wbits v 4 0 < 20 then wbits v 4 0 else k.part
      let valid := wbit v 5 && !s.fwOnly cluster
      let refused := (part ≠ k.part ∨ valid ≠ k.valid) ∧ s.reserved cluster = true
      ∀ i ∈ [Instr.clpartWrite cluster v, .registerWrite (.clpart cluster) v],
        (refused → exec i s = .next (s.modCluster cluster fun k => { k with err := true }))
        ∧ (¬refused → exec i s = .next (s.modCluster cluster fun k =>
          { k with part := part, valid := valid, err := k.err && !wbit v 12 })))
    ∧ (s.board.safe = false →
      let w := fun (reg : CtlReg) => exec (.registerWrite reg v) s
      let low := fun (n : Nat) => wd (v.toNat % 2 ^ n)
      (∀ d, d < 4 → w (.fwall d) = .next (s.modDie d fun x => { x with fwall := wd (v.toNat % 2 ^ 22 / 2 * 2 + 1) })
        ∧ ((s.die d).preq.busy = true → w (.preq d) = .next (s.modDie d fun x => x))
        ∧ ((s.die d).preq.busy = false → ∃ t, w (.preq d) = .next t ∧ (let q := (t.die d).preq
          q.job = wbits v 5 0 ∧ q.part = wbits v 10 6 ∧ q.area = wbits v 55 16
          ∧ ((wbits v 12 11 = 1 ∨ wbits v 12 11 = 2) → q.busy = true ∧ q.op = wbits v 12 11)
          ∧ ((wbits v 12 11 = 0 ∨ wbits v 12 11 = 3) → q.busy = false)))
        ∧ ∀ b, b < 64 → w (.rodblk d b) = .next { s with rodblk := s.rodblk.set (d * 64 + b) (wbits v 4 0, wbit v 5) })
      ∧ (∀ i, i < 1024 → w (.peertab i) = .next (s.modPeer i fun p => { p with
          ep := wbits v 15 0, valid := wbit v 16, carrier := wbit v 17, feotte := wbit v 18, isol := p.isol && !wbit v 19 }))
      ∧ (∀ p, p < 32 → w (.fabpol p) = .next (s.modPart p fun x => { x with fabpol := low 28 })
        ∧ w (.wdpol p) = .next (s.modPart p fun x => { x with wdpol := low 48 })
        ∧ w (.fwdtgt p) = .next (s.modPart p fun x => { x with fwdtgt := low 48 })
        ∧ (∀ i, i < 8 → w (.fwdrange p i) = .next (s.modPart p fun x => { x with fwdrange := x.fwdrange.set i (low 52) }))
        ∧ w (.s2root p) = .next s)
      ∧ (∀ n, n < 64 → w (.kslot n) = .next (s.modKslot n fun k => { k with part := wbits v 4 0 }))
      ∧ (((s.presetBusy = true ∨ s.resets ≠ []) → w .presetPart = .next s)
        ∧ (s.presetBusy = false → s.resets = [] → w .presetPart = .next { s with presetPart := wbits v 4 0, presetBusy := wbit v 5 }))
      ∧ (∀ d, d < 4 → w (.epdrop d) = .next s ∧ w (.walkresp d) = .next s) ∧ w .pwrcap = .next s ∧ w .sealcmd = .next s
      ∧ (∀ k l, k < 8 → l < 16 → w (.hbmref k l) = .next s) ∧ ∀ c, c < 4096 → w (.corestat c) = .next s)
    ∧ (∀ reg, s.board.safe = false → regExists reg = true → exec (.registerWrite reg v) s = .next (s.writeReg reg v))
    ∧ (∀ reg, s.board.safe = false → regExists reg = true → readsReg reg = false → ∃ t, exec (.registerWrite (.read reg) v) s = .next t
      ∧ t.board.ctlResp = s.regWord reg ∧ (∀ d, reg = .epdrop d → (t.die d).epdrop = {}) ∧ (reg = .pwrcap → t.board.throtcnt = 0))
    ∧ (∀ energy mean, ∃ t, exec (.powerWindow energy mean) s = .next t ∧ t.board.now = mean ∧ t.board.throt = s.board.delaying
      ∧ (t.board.delaying = true ↔ s.board.capOn < energy) ∧ t.board.capOn = s.board.cap)
    ∧ (s.board.safe = false → ∃ t, exec (.pwrcapWrite v) s = .next t ∧ t.board.cap = max 1000 (min 2700 (wbits v 11 0)))
    ∧ (∀ d temp, temp ≤ 115 → ∃ t, exec (.thermalBandCrossing (.die d) temp) s = .next t
      ∧ (105 < temp → d ∈ t.board.halved) ∧ (temp < 100 → d ∉ t.board.halved))
    ∧ (∀ k l temp, temp ≤ s.hbmTrip + 5 → ∃ t, exec (.thermalBandCrossing (.layer k l) temp) s = .next t
      ∧ (s.hbmTrip < temp → 16 * k + l ∈ t.board.limited) ∧ (temp + 5 ≤ s.hbmTrip → 16 * k + l ∉ t.board.limited))
    ∧ (let trips := fun (p : ThermalPoint) (temp : Nat) (where_ : Word) => ∃ t, exec (.thermalBandCrossing p temp) s = .next t
        ∧ (s.board.booting = true → t.board.stage = 15 ∧ t.board.safe = true ∧ t.board.fail = 0x20 ∧ t.board.faildet = where_)
        ∧ (s.board.booting = false → t.mem = s.mem ∧ t.clock = s.clock ∧ t.seals.lost = allGibs ∧ t.jobs = [] ∧ t.launches = []
          ∧ t.board.lastrst = 2 ∧ t.board.warmcnt = min (s.board.warmcnt + 1) 65535 ∧ ∀ c n, (t.ctx c n).st = .free)
      (∀ d temp, 115 < temp → trips (.die d) temp (wd (1 + d % 2 ^ 8 * 2 ^ 8)))
      ∧ ∀ k l temp, s.hbmTrip + 5 < temp → trips (.layer k l) temp (wd (2 + k % 2 ^ 8 * 2 ^ 8 + l % 2 ^ 16 * 2 ^ 16)))

/-- R74, R75, R383, R428, R429, R454, R455, R459: the requests of the mailboxes of the physical and the virtual functions while the firmware serves
them, a function-level reset, and the host's accesses to mapped pages and to notify pages. A request is not served while another is unanswered.
Where the rules leave a choice, it is the model's (log entries 41, 72, 73, 74, 77, 84, 86, 107, 110 and 118). -/
def Obligations.HostSteps : Prop :=
  ∀ (s : State) (seq : Nat),
    (∀ fn, fn ≤ 128 → s.board.safe = false → s.board.stage = 5 → s.board.graceful = none → (s.board.mbox.get {} fn).pend = none →
      let t := s.doorbell
      let reply := fun (u : State) (cmd status : Nat) (b : List Byte) => u.mailReply fn seq cmd status b
      let vf := if fn = 0 then none else s.board.vfs.find (fn - 1)
      let known := fn = 0 ∨ vf.isSome = true
      let may := fun (part : Nat) => fn = 0 ∨ vf.map (·.part) = some part
      let denied := fun (i : Instr) (cmd : Nat) => exec i s = .next (reply t cmd mailDenied [])
      (known → exec (.mailboxStatus fn seq) s =
        .next (reply t 0x01 mailOk (leBytes 8 t.board.bootstat.toNat ++ leBytes 8 t.board.faildet.toNat)))
      ∧ (¬known → denied (.mailboxStatus fn seq) 0x01 ∧ ∀ nonce, denied (.attest fn seq nonce) 0x16)
      ∧ (fn ≠ 0 → (∀ off data, denied (.flashwrite fn seq off data) 0x02) ∧ denied (.reboot fn seq) 0x03
        ∧ (∀ cfg, denied (.partcfg fn seq cfg) 0x10) ∧ ∀ part target free, denied (.migrate fn seq part target free) 0x15)
      ∧ (∀ addr desc, ¬may desc.part → denied (.jobcreate fn seq addr desc) 0x11)
      ∧ (∀ part job jgen handle va, ¬may part → denied (.jobclose fn seq part job jgen) 0x12
        ∧ denied (.graphload fn seq part job jgen handle va) 0x13 ∧ denied (.graphunload fn seq part job jgen handle) 0x14)
      ∧ (fn = 0 →
        (∀ off data, off + data.length ≤ 4608 + 2 ^ 26 → exec (.flashwrite fn seq off data) s = .next (reply (t.modBoard fun b =>
            { b with flash := b.flash.set (1 - t.board.bank) (Memory.store (b.flash.get [] (1 - t.board.bank)) off data) }) 0x02 mailOk []))
        ∧ exec (.reboot fn seq) s = .next t.coldClear
        ∧ (∀ cfg, exec (.partcfg fn seq cfg) s = .next (reply (t.partcfg cfg).1 0x10
            (if (t.partcfg cfg).2 then mailRefused else mailOk) []))
        ∧ (∀ c w, c < 256 → exec (.partcfg fn seq ⟨[(c, w)], [], [], []⟩) s = .next (reply (t.writeClpart c (wd w)).1 0x10
            (if (t.writeClpart c (wd w)).2 then mailRefused else mailOk) []))
        ∧ (∀ n p, n < 64 → exec (.partcfg fn seq ⟨[], [(n, p)], [], []⟩) s =
            .next (reply (t.modKslot n fun k => { k with part := p % 32 }) 0x10 mailOk []))
        ∧ (∀ d b p, d < 4 → b < 64 → exec (.partcfg fn seq ⟨[], [], [(d, b, p)], []⟩) s =
            .next (reply { t with rodblk := t.rodblk.set (d * 64 + b) (p % 32, true) } 0x10 mailOk []))
        ∧ (∀ n p j g, n < 128 → exec (.partcfg fn seq ⟨[], [], [], [(n, p, j, g)]⟩) s =
            .next (reply (t.modBoard fun b => { b with vfs := b.vfs.set n ⟨p, j, g, true⟩ }) 0x10 mailOk []))
        ∧ ∀ part target free,
          let reason := if ((t.waitedSignals part).any fun pa => t.granted pa && !t.inForward part pa) = true then 1
            else if (t.rods.any fun p => p.2.part == part && (p.2.st == .armed || p.2.st == .beamed || p.2.st == .sent)) = true then 2
            else if ((t.graphs.any fun g => g.key.part == part && g.inst.isSome) || t.xalls.any fun x => x.part == part) = true then 3
            else if free = true then 0 else 4
          (reason ≠ 0 → exec (.migrate fn seq part target free) s = .next (reply t 0x15 mailRefused (leBytes 8 reason)))
          ∧ (reason = 0 → ∃ u, exec (.migrate fn seq part target free) s = .next (reply u 0x15 mailOk [])
            ∧ u = t.movePart part ∧ (u.part part).moved = true ∧ (∀ j ∈ u.jobs, j.desc.part ≠ part) ∧ (∀ q ∈ u.queues, q.key.part ≠ part)
            ∧ (∀ g ∈ u.graphs, g.key.part ≠ part) ∧ (∀ l ∈ u.launches, l.key.part ≠ part) ∧ ∀ p ∈ u.rods, p.2.part ≠ part))
      ∧ (∀ addr desc, may desc.part →
        let u : State := { t.writePoc addr desc.part (jobDescBytes desc) 2 with jobs := t.jobs ++ [{ desc := desc, addr := addr }] }
        jobDescBad desc = false → t.jobFree desc = true → paKind addr = .sealed → paKind (addr + 63) = .sealed →
        u.sealedAt desc.part desc.job desc.phsig = true → u.sealedAt desc.part desc.job (desc.phsig + 2040) = true →
        (desc.jobsig = 0 ∨ u.sealedAt desc.part desc.job desc.jobsig = true) →
        exec (.jobcreate fn seq addr desc) s = .next (reply u 0x11 mailOk []))
      ∧ (∀ part job jgen j, may part → t.namedJob part job jgen = some j →
        exec (.jobclose fn seq part job jgen) s = .next (reply (t.modJob part job fun j => { j with closed := true }) 0x12 mailOk [])
        ∧ (∀ handle va, handle < 1024 → va % 64 = 0 →
          let key : GKey := ⟨part, job, handle⟩
          let load := Instr.graphload fn seq part job jgen handle va
          (∀ u, t.readImage key va = (.wait, u) →
            exec load s = .next (u.mailWaits fn seq 0x13 (some [part, job, jgen, handle, va])))
          ∧ (∀ h b u, t.readImage key va = (.ok (h, b), u) →
            let g := graphOf key b
            ((headerBad h || g.badImage h b || u.graphRefused g) = true → exec load s = .next (reply u 0x13 mailRefused []))
            ∧ ((headerBad h || g.badImage h b || u.graphRefused g) = false → ∃ w, exec load s = .next (reply w 0x13 mailOk [])
              ∧ w = u.loadGraph g ∧ w.graphs = u.graphs ++ [g]
              ∧ ∀ r ∈ g.rods, (∃ k, (w.rod r.rod).use = .graph key k) ∧ (w.rod r.rod).part = part)))
        ∧ (∀ handle g, t.graph ⟨part, job, handle⟩ = some g →
          (g.inst ≠ none → exec (.graphunload fn seq part job jgen handle) s = .next (reply t 0x14 mailRefused []))
          ∧ (g.inst = none → ∃ w, exec (.graphunload fn seq part job jgen handle) s = .next (reply w 0x14 mailOk [])
            ∧ w = t.unloadGraph g ∧ w.graph ⟨part, job, handle⟩ = none
            ∧ ((∀ r ∈ g.rods, ∃ k, (t.rod r.rod).use = .graph g.key k) → ∀ r ∈ g.rods,
              (w.rod r.rod).st = .quarantine ∧ (w.rod r.rod).quarUntil = s.clock + Config.ms 2 ∧ (w.rod r.rod).use = .program))))
      ∧ (∀ nonce, known →
        let e := t.evidence nonce (vf.map (·.part))
        let sig := (Config.attestSign ((Config.digest e).take 64) ++ List.replicate 1536 0#8).take 1536
        exec (.attest fn seq nonce) s = .next (reply t 0x16 mailOk (e ++ sig ++ Config.identityKey ++ Config.vendorCert))))
    ∧ (∀ fn n c b, s.board.safe = false → (s.board.mbox.get {} fn).pend = some (n, c, b) →
      ((n, c) ≠ (seq % 2 ^ 32, 0x01) ∨ ∃ l, b = some l ∧ l ≠ []) → exec (.mailboxStatus fn seq) s = .next s)
    ∧ (∀ d,
      let cmd := (s.board.mbox.get {} 0).req.num 4 2
      s.board.safe = false → s.board.stage = 5 → s.board.graceful = none → (s.board.mbox.get {} 0).pend = none → cmd ∉ romCmds → cmd ∉ fwCmds →
      exec (.hostAccess 0 0x12000 (.writeBar0 d)) s = .next (s.doorbell.mailReply 0 ((s.board.mbox.get {} 0).req.num 0 4) cmd mailBadcmd []))
    ∧ (∀ d, byteAt d 0 % 4 = 1 → s.board.busy = false → exec (.hostAccess 0 0x10 (.writeBar0 d)) s = .next s.stopAll)
    ∧ (∀ d, s.board.busy = true → exec (.hostAccess 0 0x10 (.writeBar0 d)) s = .next s)
    ∧ (∀ vf, vf < 128 → s.board.stage = 5 → ∃ t, exec (.vfFunctionLevelReset vf) s = .next t
      ∧ (∀ v, s.board.vfs.find vf = some v → (t.board.vfs.find vf).map (·.mapped) = some false)
      ∧ (∀ n c b, (s.board.mbox.get {} (vf + 1)).pend = some (n, c, b) → t.board.mbox.find (vf + 1) = some
        ⟨n % 2 ^ 32, c, mailReset, [], (s.board.mbox.get {} (vf + 1)).irqs + 1, none, (s.board.mbox.get {} (vf + 1)).req⟩)
      ∧ ∀ m ∈ t.board.bar2, m.fn ≠ vf + 1)
    ∧ (∀ fn off pa, s.board.windowPa fn off = some pa → s.board.stage = 5 →
      (∀ n b, off % 2 ^ 16 + n ≤ 2 ^ 16 → s.readPoc pa n = some b →
        exec (.hostAccess fn off (.read n)) s = .next (s.modBoard fun x => { x with hostResp := b }))
      ∧ (∀ d, off % 2 ^ 16 + d.length ≤ 2 ^ 16 →
        exec (.hostAccess fn off (.write d)) s = .next (s.writePoc pa (s.kslot (s.tile (tileOf pa)).slot).part d 18))
      ∧ (∀ z w, off % 2 ^ 16 + 2 ^ z ≤ 2 ^ 16 → z = 2 ∨ z = 3 → pa % 2 ^ z = 0 →
        let m := 2 ^ (8 * 2 ^ z)
        let old := s.mem.num pa (2 ^ z)
        let all := fun (p : Instr → Nat → Prop) => p (.hostAccess fn off (.fetchAdd z w)) ((old + w.toNat) % m)
          ∧ p (.hostAccess fn off (.swap z w)) (w.toNat % m)
          ∧ ∀ c, p (.hostAccess fn off (.cas z c w)) (if old = c.toNat % m then w.toNat % m else old)
        (s.forwardOf pa = none → s.writeWaits (tileOf pa) = true → all fun i _ => exec i s = .next s)
        ∧ (s.forwardOf pa = none → s.writeWaits (tileOf pa) = false → s.tileFails (tileOf pa) = false → all fun i new => ∃ t,
          exec i s = .next t ∧ t.mem = s.mem.store pa (leBytes (2 ^ z) new) ∧ t.board.hostResp = leBytes (2 ^ z) old)
        ∧ ∀ p, s.forwardOf pa = some (p, false) → all fun i _ => exec i s = .next (s.epDrop (homeDie pa) EpDrop.addIsolated)))
    ∧ (∀ fn v, s.board.safe = false → fn ≠ 0 → s.board.vfs.find (fn - 1) = some v → v.mapped = true →
      (∀ off n b t, off < 0x40000 → s.notifyRead v.part v.job v.jgen off n = (some b, t) →
        exec (.hostAccess fn off (.readBar0 n)) s = .next (t.modBoard fun x => { x with hostResp := b }))
      ∧ (∀ off (d : List Byte), off < 0x40000 →
        exec (.hostAccess fn off (.writeBar0 d)) s = .next (s.notifyWrite v.part v.job v.jgen off d)
        ∧ (d.length ≠ 8 → exec (.hostAccess fn off (.writeBar0 d)) s = .next s))
      ∧ ∀ h, h < 4096 →
        let at_ := fun (base : Nat) => h / 64 * 4096 + base + h % 64 * 8
        (∀ d : List Byte, d.length = 8 →
          exec (.hostAccess fn (at_ 0) (.writeBar0 d)) s = exec (.kick v.part v.job v.jgen h 8 (wd (leNat d))) s
          ∧ (leNat d % 4 = 1 → exec (.hostAccess fn (at_ 0x400) (.writeBar0 d)) s = exec (.ctrlResume v.part v.job v.jgen h) s)
          ∧ (leNat d % 4 = 2 → exec (.hostAccess fn (at_ 0x400) (.writeBar0 d)) s = exec (.ctrlStop v.part v.job v.jgen h) s)
          ∧ ((leNat d % 4 = 0 ∨ leNat d % 4 = 3) → exec (.hostAccess fn (at_ 0x400) (.writeBar0 d)) s = .next s)
          ∧ exec (.hostAccess fn (at_ 0x200) (.writeBar0 d)) s = .next s)
        ∧ (let tells := fun (w : Word) => exec (.hostAccess fn (at_ 0x200) (.readBar0 8)) s =
            .next (s.modBoard fun x => { x with hostResp := leBytes 8 w.toNat })
          (s.openJob v.part v.job v.jgen = none → tells 0#64)
          ∧ ∀ j, s.openJob v.part v.job v.jgen = some j →
            (j.desc.qtlen ≤ h → tells 16#64)
            ∧ ∀ q, h < j.desc.qtlen → s.queue ⟨v.part, v.job, h⟩ = some q →
              (q.work = true → tells 16#64)
              ∧ (q.work = false → tells
                (wd ((s.shown q).code % 8 + 8 + q.reason % 2 ^ 8 * 2 ^ 8 + q.ridx % 2 ^ 48 * 2 ^ 16)))))

/-- R93, R94, R97, R109: with an empty agenda the step runs the instruction that the words at the PC decode to, in the context whose turn it is, at
a clock one cycle on; a context in an open masked window that has reached no limit issues as any other. The agenda's issue of a slot, and its step
of another agent, run theirs. Before it, contexts whose cause of waiting has cleared run again and waiting arrivals are tried again. Where the rules
leave a choice, it is the model's (log entries 1, 12 and 111). -/
def Obligations.StepRunsDecoded : Prop :=
  ∀ (s : State), s.board.powered = true →
    let u := s.settle.dueFlags.dueArrivals
    u.board.safe = false →
    (∀ core c engine i n, u.agenda = [] → u.turn = some (core, c, engine) →
      let x := u.ctx core c
      decode ((u.core core).codeWords x.part x.job 6 x.pc.toNat) = .ok i n → x.maskLate u.clock = false → x.maskFull = false →
      step s = exec i { u with clock := u.clock + 1, cur := { core := core, ctx := c, len := n, engine := engine } })
    ∧ (∀ core c engine rest i n, u.agenda = .issue core engine :: rest → (u.core core).choose engine = some c →
      let x := u.ctx core c
      decode ((u.core core).codeWords x.part x.job 6 x.pc.toNat) = .ok i n → x.maskLate u.clock = false → x.maskFull = false →
      step s = exec i { u with agenda := rest, clock := u.clock + 1, cur := { core := core, ctx := c, len := n, engine := engine } })
    ∧ (∀ i rest, u.agenda = .event i :: rest → isStep i = true →
      step s = exec i { u with agenda := rest, clock := u.clock + 1 })

/-- R99 to R116, R132: one word or chain of each page decodes to the instruction it stands for; the word 0xFFFF, op5 0b11110, a page that is not
used and a second PFX.X are refused. Where the rules leave a choice, it is the model's (log entries 17 and 89). -/
def Obligations.WordsDecode : Prop :=
  decode [0x012C] = .ok (.add 1 1 3) 1 ∧ decode [0x70FF] = .ok (.li 0 (-1)) 1
  ∧ decode [0xFC23, 0x012C] = .ok (.vadd 3 1 1 3 0) 2
  ∧ decode [0xFC43, 0x012C] = .ok (.ld 0 3 1 1 12 none) 2
  ∧ decode [0xFC60, 0x5020] = .ok (.lsrun 1) 2
  ∧ decode [0xFC80, 0x000C] = .ok (.enq 0 3) 2
  ∧ decode [0xFCA0, 0x0002] = .ok .bkpt 2
  ∧ decode [0xFFFF] = .bad .illegal ∧ decode [0xF000] = .bad .illegal ∧ decode [0xFCC0, 0x0000] = .bad .illegal
  ∧ decode [0xF800, 0xF800, 0x0000] = .bad .pfx

/-- R99 to R116, R132: decoding an encoded instruction gives it back, whole and with its length, for every well-formed instruction and whatever
words follow. -/
def Obligations.DecodeOfEncode : Prop :=
  ∀ (i : Instr) (l : Layout) (rest : List Half), i.wf = true → layout i = some l →
    decode (encode i ++ rest) = .ok i (encode i).length

/-- The memory keeps its canonical form: whatever step is taken, if no entry lists the absent value and the addresses rise before it, so they do
after it. The canonical form is the model's own (log entry 5). -/
def Obligations.MemoryStaysCanonical : Prop := ∀ (s t : State), s.memWf → step s = .next t → t.memWf

/-- R77, R87, R254, R446: at reset nothing is listed, so the memory and the scratchpads are canonical, the memory reads zero everywhere, every
context is FREE, no cluster's CLPART is valid and no core is a column core before a table has been accepted. Where the rules leave a choice, it is
the model's (log entries 5, 6 and 11). -/
def Obligations.ResetState : Prop :=
  State.reset.memWf ∧ State.reset.spWf ∧ (∀ a, State.reset.byteOf a = 0#8) ∧ (∀ c n, (State.reset.ctx c n).st = .free)
  ∧ (∀ c, (State.reset.cluster c).valid = false) ∧ (∀ c, State.reset.isFw c = false) ∧ (∀ t, (State.reset.tile t).version = 0)

/-- R117, R123, R180: the scalar instructions of three registers change x[d], the ports, the PC and the flags that came with popped words, in every
outcome, and nothing else. -/
def Obligations.ScalarFrame : Prop :=
  ∀ (s t : State) (d a b : Nat),
    let keeps := fun (i : Instr) (o : Opnd) => exec i s = .next t →
      s.keepsBut t (some d) none
      ∧ (s.popped o (.src a) (.src b) = [] → (t.ctx s.cur.core s.cur.ctx).fpflags = s.me.fpflags)
    (∀ i ∈ [Instr.add d a b, .sub d a b, .and d a b, .or d a b, .xor d a b, .shl d a b, .shr d a b, .sra d a b, .rol d a b, .mul d a b,
      .mulh d a b, .mulhu d a b, .addw d a b, .div d a b, .divu d a b, .rem d a b, .remu d a b, .min d a b, .max d a b, .minu d a b,
      .maxu d a b, .seq d a b, .sne d a b, .slt d a b, .sltu d a b, .sle d a b, .sleu d a b], keeps i (.dst d))
    ∧ keeps (.sel d a b) (.both d)

/-- R119, R122, R123, R197, R204 to R216: of the general registers, masks, special registers, ports, rows, scratchpads, memory and other contexts a
vector instruction of rows alone changes only row d, in every outcome, and a trap leaves even that as it was; a conversion changes SRSEED too, a
quantisation x[b] as well, a form that reads or writes a register takes or gives a word of a port only where the field names one, and the
comparisons and mask operations change only their mask or x[d]. FPFLAGS and the PC are left out. -/
def Obligations.VectorFrame : Prop :=
  ∀ (s u : State) (t d a b k n p q : Nat),
    let x := s.me
    let y := u.ctx s.cur.core s.cur.ctx
    let row := some (x.rowIdx x.vbase d)
    let put := fun (f : Ctx → Ctx) => u.modCtx s.cur.core s.cur.ctx f
    let seeded := put fun z => { z with srseed := x.srseed }
    let masked := put fun z => { z with masks := x.masks }
    let keeps := fun (i : Instr) (w : State) (dst r : Option Nat) (regs : Bool) => exec i s = .next u →
      s.keepsBut w dst r ∧ (regs = true → s.portsAs u)
    let whole := y.st = .parked → (u.core s.cur.core).rows = (s.core s.cur.core).rows
    let oneMask := ∀ m, m ≠ d → y.mask m = x.mask m
    (∀ i ∈ [Instr.vadd t d a b k, .vsub t d a b k, .vmul t d a b k, .vdiv t d a b k, .vmin t d a b k, .vmax t d a b k, .vabsd t d a b k,
      .vcsgn t d a b k, .vand t d a b k, .vor t d a b k, .vxor t d a b k, .vandn t d a b k, .vshl t d a b k, .vshr t d a b k,
      .vsra t d a b k, .vmulh t d a b k, .vscale t d a b k, .vfma t d a b k, .vfms t d a b k, .vfnma t d a b k, .vfnms t d a b k,
      .vwidenl t d a b k, .vwidenh t d a b k, .vsel t d a b k, .vperm t d a b k, .vzip t d a b, .vunzip t d a b, .vlut4 t d a b k,
      .vmov t d a k, .vneg t d a k, .vabs t d a k, .vnot t d a k, .vrint t d a k, .vclass t d a k, .vsqrt t d a k, .vslidedn t d a n k,
      .vslideup t d a n k, .vpack t d a p],
      keeps i u none row true ∧ (exec i s = .next u → whole))
    ∧ keeps (.vcvt t d a p k) seeded none row true ∧ (exec (.vcvt t d a p k) s = .next u → whole)
    ∧ (∀ i ∈ [Instr.vbcast t d a k, .viota t d a k], keeps i u none row (decide (a < 24)))
    ∧ (∀ i ∈ [Instr.vrot t d a b k, .vdeq t d a b k], keeps i u none row (decide (b < 24)))
    ∧ keeps (.vins t d a b) u none row (decide (a < 24) && decide (b < 24))
    ∧ keeps (.vquant t d a b k) seeded (some b) row (decide (b < 24))
    ∧ keeps (.vext t d a b) u (some d) none (decide (d < 24) && decide (b < 24))
    ∧ (∀ i ∈ [Instr.vredsum t d a k, .vredmax t d a k, .vredmin t d a k, .vredor t d a k, .kpop t d a, .kto d a q, .vgetbase d],
      keeps i u (some d) none (decide (d < 24)))
    ∧ (∀ i ∈ [Instr.vcmpeq t d a b k, .vcmplt t d a b k, .vcmple t d a b k, .vcmpun t d a b k, .kand d a b, .kor d a b, .kxor d a b,
      .kandn d a b, .knot d a], keeps i masked none none true ∧ (exec i s = .next u → oneMask))
    ∧ keeps (.kfrom d a q) masked none none (decide (a < 24)) ∧ (exec (.kfrom d a q) s = .next u → oneMask)
    ∧ keeps (.vsettype t a) (put fun z => { z with vtype := x.vtype }) none none (decide (a < 24))
    ∧ keeps (.vsetbase a) (put fun z => { z with vbase := x.vbase }) none none (decide (a < 24))

/-- R232, R233, R268, R270 to R276, R279, R287, R339, R340: a load changes no byte, and of the registers and rows only its destination; a scalar
store, a row store or an atomic changes in the scratchpads only the bytes at the addresses that its operands give for the windows of its own core
and context; and none of them, nor a shipped or a signal operation, changes a byte of device memory at issue, where what they do in the global
window waits in the cluster cache or on its way. Of the cluster caches a global store changes only the bytes that it stores, and the others no byte:
what was dirty there stays so or leaves for its point of coherence. -/
def Obligations.AccessFrame : Prop :=
  ∀ (s t : State) (g z p d a b k : Nat) (imm : Int) (mo : Option MemOrd), s.spWf →
    let y := t.ctx s.cur.core s.cur.ctx
    let keeps := fun (i : Instr) (spans : List (Nat × Nat)) (cells : List (Nat × Byte)) (dst row : Option Nat) => exec i s = .next t →
      (∀ c q, (∀ r ∈ spans, c = s.cur.core → q < r.1 ∨ r.1 + r.2 ≤ q) → (t.core c).sp.byte q = (s.core c).sp.byte q)
      ∧ (spans = [] → ∀ c, (t.core c).sp = (s.core c).sp) ∧ (∀ q, t.byteOf q = s.byteOf q) ∧ (∀ n, n < 24 → some n ≠ dst → y.reg n = s.me.reg n)
      ∧ (∀ r, some r ≠ row → (t.core s.cur.core).row r = (s.core s.cur.core).row r) ∧ s.cachesAs t (s.stores cells)
    let row := some (s.me.rowIdx s.me.vbase d)
    let w := laneBits s.me.vtype / 8
    let lanes := fun (u : State) (l : List (Nat × Nat)) => l.flatMap fun q => (u.localSpan q.2 w).toList
    (∀ i ∈ [Instr.ld g z d a imm mo, .ldc g z d a imm mo, .sigread d a mo, .sigwait d a b mo], keeps i [] [] (some d) none)
    ∧ (let u := s.started (.src d) (.src a) .none
      let v := s.vals (.src d) (.src a) .none
      let va := (v.a + w64 imm).toNat
      keeps (.st z d a imm mo) (u.localSpan va (2 ^ z)).toList (cellsAt va (leBytes (2 ^ z) v.d.toNat)) none none)
    ∧ (∀ i ∈ [Instr.vld d a imm k mo, .vlds d a b k mo, .vgath p d a b k mo], keeps i [] [] none row)
    ∧ (let u := s.started (.row d) (.src a) .none
      let va := ((s.vals (.row d) (.src a) .none).a + w64 imm).toNat
      keeps (.vst d a imm k mo) (if k = 0 then (u.localSpan va 256).toList else lanes u (maskedLanes s.me k va))
        (if k = 0 then cellsAt va (leBytes 256 (u.rowOf d).toNat) else u.globCells (u.rowOf d) w (maskedLanes s.me k va)) none none)
    ∧ (let u := s.started (.row d) (.src a) (.src b)
      let v := s.vals (.row d) (.src a) (.src b)
      let l := stridedLanes s.me k v.a v.b
      keeps (.vsts d a b k mo) (lanes u l) (u.globCells (u.rowOf d) w l) none none)
    ∧ (let u := s.started (.row d) (.src a) (.row b)
      let base := (s.vals (.row d) (.src a) (.row b)).a
      let inside := (indexedLanes s.me p k (u.rowOf b)).filter fun q => !outOfBound s.me q.2
      let l := inside.map fun q => (q.1, (base + wd (w * q.2)).toNat)
      keeps (.vscat p d a b k mo) (lanes u l) (u.globCells (u.rowOf d) w l) none none)
    ∧ (let span := fun (o : Opnd) => ((s.started o (.src a) (.src b)).localSpan (s.vals o (.src a) (.src b)).a.toNat (2 ^ z)).toList
      (∀ i ∈ [Instr.amoadd g z d a b mo, .amoand g z d a b mo, .amoor g z d a b mo, .amoxor g z d a b mo, .amomin g z d a b mo,
        .amomax g z d a b mo, .amoswap g z d a b mo], keeps i (span (.dst d)) [] (some d) none)
      ∧ keeps (.amocas g z d a b mo) (span (.both d)) [] (some d) none)
    ∧ (∀ i ∈ [Instr.ship d a b mo, .shipn d a b mo, .xadd p a b mo, .xread p a mo, .sigadd a b mo, .sigabort a mo], keeps i [] [] none none)

/-- R404: a parked context keeps a resume PC: after TRAP, SYSCALL and BKPT the address of the following instruction, after any other cause TRAPPC,
and resuming there executes the trapping instruction again with its port latch. With it R87, R402, R403, R405, R406: the trap registers are
recorded, the context is PARKED, its park sequence counts, no register, mask or byte of memory changes, and the TRAP message of a user context goes
to the core that its SUPER names. Where the rules leave a choice, it is the model's (log entries 25 and 52). -/
def Obligations.TrapEntry : Prop :=
  ∀ (s : State) (cause : Nat) (addr : Word),
    let t := s.takeTrap cause addr
    let x := s.me
    let y := t.ctx s.cur.core s.cur.ctx
    y.rpc = (if cause = tTrap ∨ cause = tSyscall ∨ cause = tBkpt then s.cur.npc else x.pc)
    ∧ (∀ r : State, r.ctx s.cur.core s.cur.ctx = y →
      let z := (r.returnFrom s.cur.core s.cur.ctx 0 0).ctx s.cur.core s.cur.ctx
      z.st = (if (x.q1.any fun c => c.missed) = true then .blocked else .running) ∧ z.pc = y.rpc ∧ (y.rpc = y.trappc → z.latch = x.latch))
    ∧ y.st = .parked ∧ y.trapcause = wd cause ∧ y.trappc = x.pc ∧ y.trapaddr = addr ∧ y.pseq = (x.pseq + 1) % 256 ∧ y.masked = none
    ∧ y.trapctx = trapCtxWord s.cur.core s.cur.ctx x y.pseq .parked false
    ∧ y.regs = x.regs ∧ y.masks = x.masks ∧ y.latch = x.latch ∧ t.mem = s.mem
    ∧ (s.levelOf s.cur.core x = .user → ∃ m, t.mesh = s.mesh ++ [⟨m, superCore x.super, .hw⟩] ∧ m.kind = .trap
      ∧ m.handler = superHandler x.super ∧ m.lid = superLid x.super ∧ m.lgen = superLgen x.super
      ∧ m.payload = [wd cause, x.pc, addr, y.trapctx, 0#64, 0#64])

/-- R109, R124, R125, R413: an instruction above its context's level takes PRIV at once, and so does a special register above it; at a level that
reaches it a number that is not assigned takes ILLEGAL and a write of a read-only register PRIV, as a number from 1,024 up takes ILLEGAL at every
level; and MASKW in an open window takes MASKLEN. That these checks of a special register come ahead of those of the operands is the model's (log
entry 92). -/
def Obligations.LevelTraps : Prop :=
  ∀ (s : State) (d a b sr : Nat),
    let rank := (s.levelOf s.cur.core s.me).rank
    let priv := (.next (s.begin.trapped tPriv) : Host.Outcome State Fault Refusal)
    let illegal := (.next (s.begin.trapped tIllegal) : Host.Outcome State Fault Refusal)
    let level := if 0x200 ≤ sr then 2 else if 0x100 ≤ sr then 1 else 0
    (rank = 0 → exec (.sret d a b) s = priv ∧ exec (.tlbi a b) s = priv)
    ∧ (rank < 2 → exec (.keyld d a b) s = priv ∧ exec (.waitev d a b) s = priv ∧ exec (.haltc d a) s = priv)
    ∧ (1024 ≤ sr → exec (.srd d sr) s = illegal ∧ exec (.swr a sr) s = illegal)
    ∧ (sr < 1024 → rank < level → exec (.srd d sr) s = priv ∧ exec (.swr a sr) s = priv)
    ∧ (sr < 1024 → level ≤ rank → specialKnown sr = false → exec (.srd d sr) s = illegal ∧ exec (.swr a sr) s = illegal)
    ∧ (sr < 1024 → level ≤ rank → specialKnown sr = true → specialRO sr = true → exec (.swr a sr) s = priv)
    ∧ (s.me.masked ≠ none → exec .maskw s = .next (s.begin.trapped tMasklen))

/-- R109, R117, R119, R120, R122, R181: of the fields of any instruction, a register outside the allocation takes REGBOUND, else a row outside the
rows ROWBOUND, else a read of a push-only port or a write of a pop-only one QUEUE. Each scalar form of three registers and each vector form of two
rows, masked or not, takes that trap with nothing changed, blocks on an empty port that it reads and on a full one that it writes, and each of these
vector forms takes FPE for an enabled flag of an active lane, with FPFLAGS and TRAPADDR set and no row written. -/
def Obligations.OperandTraps : Prop :=
  (∀ (x : Ctx) (l : List Opnd), (∀ o ∈ l, o.plainField = true) →
    operandCheck x l = if l.any (fun o => o.reads.any (outside x.alloc) || o.writes.any (outside x.alloc)) then some tRegbound
      else if l.any (fun o => o.rowNo.any fun n => decide (x.rows ≤ n)) then some tRowbound
      else if l.any (fun o => o.reads.any pushOnly || o.writes.any popOnly) then some tQueue else none)
  ∧ ∀ (s : State) (t d a b k : Nat),
    let stops := fun (i : Instr) (o1 o2 o3 : Opnd) =>
      (∀ c, operandCheck s.me [o1, o2, o3] = some c → exec i s = .next (s.begin.trapped c))
      ∧ (operandCheck s.me [o1, o2, o3] = none →
        (∀ q n, shortPop s.me [] (s.need o1 o2 o3) = some (q, n) → exec i s = .next (s.begin.blockMe (.pop q n)))
        ∧ ∀ q, shortPop s.me [] (s.need o1 o2 o3) = none → o1.pushesTo = some q → s.me.room q = 0 →
          exec i s = .next (s.begin.blockMe (.room q 1)))
    (∀ i ∈ [Instr.add d a b, .sub d a b, .and d a b, .or d a b, .xor d a b, .shl d a b, .shr d a b, .sra d a b, .rol d a b, .mul d a b,
      .mulh d a b, .mulhu d a b, .addw d a b, .div d a b, .divu d a b, .rem d a b, .remu d a b, .min d a b, .max d a b, .minu d a b,
      .maxu d a b, .seq d a b, .sne d a b, .slt d a b, .sltu d a b, .sle d a b, .sleu d a b], stops i (.dst d) (.src a) (.src b))
    ∧ stops (.sel d a b) (.both d) (.src a) (.src b)
    ∧ (∀ p ∈ [(Instr.vadd t d a b k, VOp2.add), (.vsub t d a b k, .sub), (.vmul t d a b k, .mul), (.vdiv t d a b k, .div),
        (.vmin t d a b k, .min), (.vmax t d a b k, .max), (.vabsd t d a b k, .absd), (.vcsgn t d a b k, .csgn), (.vand t d a b k, .and),
        (.vor t d a b k, .or), (.vxor t d a b k, .xor), (.vandn t d a b k, .andn), (.vshl t d a b k, .shl), (.vshr t d a b k, .shr),
        (.vsra t d a b k, .sra), (.vmulh t d a b k, .mulh), (.vscale t d a b k, .scale)],
      stops p.1 (.row d) (.row a) (.row b)
      ∧ (s.ready (.row d) (.row a) (.row b) = true → s.quiet (.row d) (.row a) (.row b) = true →
        let ty := s.me.elemType t
        p.2.accepts ty = true →
        let u := s.started (.row d) (.row a) (.row b)
        let out := lanesOf (laneCount ty) (s.me.governing k) fun i =>
          p.2.lane s.me.fpEnv ty (codeAt ty (u.rowOf a) i) (codeAt ty (u.rowOf b) i)
        let flags := s.popped (.row d) (.row a) (.row b) ++ flagLanes out
        allFlags flags &&& s.me.fpEnables ≠ 0#5 →
        exec p.1 s = .next ((u.noteFlags u.cur.core u.cur.ctx (allFlags flags)).trapped tFpe (fpeAddr s.me.fpEnables flags))))

/-- R232, R265, R268, R274, R450, R457: a scalar access that is not aligned takes ALIGN, and one in no window APERTURE, with its address as TRAPADDR
and nothing read or written; in the safe diagnostic state no instruction issues, whoever's turn it is; and without module power nothing runs but a
cold reset, so that whatever else was due is lost and the model stops where nothing is. Where the rules leave a choice, it is the model's (log
entries 1 and 84). -/
def Obligations.RefusedAccessesAndStops : Prop :=
  (∀ (s : State) (g z d a b : Nat) (imm : Int) (mo : Option MemOrd),
    let refused := fun (i : Instr) (o1 o2 o3 : Opnd) (off : Word) => s.ready o1 o2 o3 = true → s.quiet o1 o2 o3 = true →
      let u := s.started o1 o2 o3
      let va := (s.vals o1 o2 o3).a + off
      (va.toNat % 2 ^ z ≠ 0 → exec i s = .next (u.trapped tAlign va))
      ∧ (va.toNat % 2 ^ z = 0 → u.steer u.cur.core u.me va.toNat (2 ^ z) = none → exec i s = .next (u.trapped tAperture va))
    refused (.ld g z d a imm mo) (.dst d) (.src a) .none (w64 imm) ∧ refused (.ldc g z d a imm mo) (.dst d) (.src a) .none (w64 imm)
    ∧ refused (.st z d a imm mo) (.src d) (.src a) .none (w64 imm)
    ∧ (∀ i ∈ [Instr.amoadd g z d a b mo, .amoand g z d a b mo, .amoor g z d a b mo, .amoxor g z d a b mo, .amomin g z d a b mo,
        .amomax g z d a b mo, .amoswap g z d a b mo], refused i (.dst d) (.src a) (.src b) 0#64)
    ∧ refused (.amocas g z d a b mo) (.both d) (.src a) (.src b) 0#64)
  ∧ (∀ s : State, s.board.powered = true →
    let u := s.settle.dueFlags.dueArrivals
    u.board.safe = true →
    (u.agenda = [] → ∀ core c engine, u.turn = some (core, c, engine) → step s = .next { u with clock := u.clock + 1 })
    ∧ ∀ core engine rest, u.agenda = .issue core engine :: rest → step s = .next { u with agenda := rest, clock := u.clock + 1 })
  ∧ ∀ s : State, s.board.powered = false →
    (s.agenda = [] → step s = .fault .unpowered)
    ∧ (∀ n v rest, s.agenda = .event (.coldReset n v) :: rest → step s = exec (.coldReset n v) { s with agenda := rest })
    ∧ ∀ e rest, s.agenda = e :: rest → (∀ n v, e ≠ .event (.coldReset n v)) → step s = .next { s with agenda := rest }

/-- R77, R233: the scratchpads keep their canonical form: whatever step is taken, if the bytes that each core's scratchpad lists rise in address and
none is the absent value, so they do after it. The canonical form is the model's own (log entry 5). -/
def Obligations.ScratchpadsStayCanonical : Prop := ∀ (s t : State), s.spWf → step s = .next t → t.spWf
end

