-- ==== Sys2Proof/Laws/State.lean ====
section
/-! SUPPORT. What each update of State leaves as it was, field by field: each true by rfl. -/

namespace Sys2Proof.Machine

/-! The fields that setCore leaves. -/
@[simp] theorem State.setCore_clock (s : State) (c : Nat) (k : Core) : (s.setCore c k).clock = s.clock := rfl
@[simp] theorem State.setCore_cur (s : State) (c : Nat) (k : Core) : (s.setCore c k).cur = s.cur := rfl
@[simp] theorem State.setCore_agenda (s : State) (c : Nat) (k : Core) : (s.setCore c k).agenda = s.agenda := rfl
@[simp] theorem State.setCore_serial (s : State) (c : Nat) (k : Core) : (s.setCore c k).serial = s.serial := rfl
@[simp] theorem State.setCore_draws (s : State) (c : Nat) (k : Core) : (s.setCore c k).draws = s.draws := rfl
@[simp] theorem State.setCore_clusters (s : State) (c : Nat) (k : Core) : (s.setCore c k).clusters = s.clusters := rfl
@[simp] theorem State.setCore_dies (s : State) (c : Nat) (k : Core) : (s.setCore c k).dies = s.dies := rfl
@[simp] theorem State.setCore_parts (s : State) (c : Nat) (k : Core) : (s.setCore c k).parts = s.parts := rfl
@[simp] theorem State.setCore_jobs (s : State) (c : Nat) (k : Core) : (s.setCore c k).jobs = s.jobs := rfl
@[simp] theorem State.setCore_phases (s : State) (c : Nat) (k : Core) : (s.setCore c k).phases = s.phases := rfl
@[simp] theorem State.setCore_freed (s : State) (c : Nat) (k : Core) : (s.setCore c k).freed = s.freed := rfl
@[simp] theorem State.setCore_launches (s : State) (c : Nat) (k : Core) : (s.setCore c k).launches = s.launches := rfl
@[simp] theorem State.setCore_seedings (s : State) (c : Nat) (k : Core) : (s.setCore c k).seedings = s.seedings := rfl
@[simp] theorem State.setCore_mesh (s : State) (c : Nat) (k : Core) : (s.setCore c k).mesh = s.mesh := rfl
@[simp] theorem State.setCore_acks (s : State) (c : Nat) (k : Core) : (s.setCore c k).acks = s.acks := rfl
@[simp] theorem State.setCore_egress (s : State) (c : Nat) (k : Core) : (s.setCore c k).egress = s.egress := rfl
@[simp] theorem State.setCore_queues (s : State) (c : Nat) (k : Core) : (s.setCore c k).queues = s.queues := rfl
@[simp] theorem State.setCore_notices (s : State) (c : Nat) (k : Core) : (s.setCore c k).notices = s.notices := rfl
@[simp] theorem State.setCore_placing (s : State) (c : Nat) (k : Core) : (s.setCore c k).placing = s.placing := rfl
@[simp] theorem State.setCore_readAhead (s : State) (c : Nat) (k : Core) : (s.setCore c k).readAhead = s.readAhead := rfl
@[simp] theorem State.setCore_running (s : State) (c : Nat) (k : Core) : (s.setCore c k).running = s.running := rfl
@[simp] theorem State.setCore_watches (s : State) (c : Nat) (k : Core) : (s.setCore c k).watches = s.watches := rfl
@[simp] theorem State.setCore_mem (s : State) (c : Nat) (k : Core) : (s.setCore c k).mem = s.mem := rfl
@[simp] theorem State.setCore_seals (s : State) (c : Nat) (k : Core) : (s.setCore c k).seals = s.seals := rfl
@[simp] theorem State.setCore_poc (s : State) (c : Nat) (k : Core) : (s.setCore c k).poc = s.poc := rfl
@[simp] theorem State.setCore_walks (s : State) (c : Nat) (k : Core) : (s.setCore c k).walks = s.walks := rfl
@[simp] theorem State.setCore_rods (s : State) (c : Nat) (k : Core) : (s.setCore c k).rods = s.rods := rfl
@[simp] theorem State.setCore_rodblk (s : State) (c : Nat) (k : Core) : (s.setCore c k).rodblk = s.rodblk := rfl
@[simp] theorem State.setCore_puts (s : State) (c : Nat) (k : Core) : (s.setCore c k).puts = s.puts := rfl
@[simp] theorem State.setCore_flows (s : State) (c : Nat) (k : Core) : (s.setCore c k).flows = s.flows := rfl
@[simp] theorem State.setCore_recvs (s : State) (c : Nat) (k : Core) : (s.setCore c k).recvs = s.recvs := rfl
@[simp] theorem State.setCore_reorder (s : State) (c : Nat) (k : Core) : (s.setCore c k).reorder = s.reorder := rfl
@[simp] theorem State.setCore_waits (s : State) (c : Nat) (k : Core) : (s.setCore c k).waits = s.waits := rfl
@[simp] theorem State.setCore_getrs (s : State) (c : Nat) (k : Core) : (s.setCore c k).getrs = s.getrs := rfl
@[simp] theorem State.setCore_ureads (s : State) (c : Nat) (k : Core) : (s.setCore c k).ureads = s.ureads := rfl
@[simp] theorem State.setCore_peers (s : State) (c : Nat) (k : Core) : (s.setCore c k).peers = s.peers := rfl
@[simp] theorem State.setCore_halves (s : State) (c : Nat) (k : Core) : (s.setCore c k).halves = s.halves := rfl
@[simp] theorem State.setCore_held (s : State) (c : Nat) (k : Core) : (s.setCore c k).held = s.held := rfl
@[simp] theorem State.setCore_deferred (s : State) (c : Nat) (k : Core) : (s.setCore c k).deferred = s.deferred := rfl
@[simp] theorem State.setCore_graphs (s : State) (c : Nat) (k : Core) : (s.setCore c k).graphs = s.graphs := rfl
@[simp] theorem State.setCore_xalls (s : State) (c : Nat) (k : Core) : (s.setCore c k).xalls = s.xalls := rfl
@[simp] theorem State.setCore_saves (s : State) (c : Nat) (k : Core) : (s.setCore c k).saves = s.saves := rfl
@[simp] theorem State.setCore_presetPart (s : State) (c : Nat) (k : Core) : (s.setCore c k).presetPart = s.presetPart := rfl
@[simp] theorem State.setCore_presetBusy (s : State) (c : Nat) (k : Core) : (s.setCore c k).presetBusy = s.presetBusy := rfl
@[simp] theorem State.setCore_resets (s : State) (c : Nat) (k : Core) : (s.setCore c k).resets = s.resets := rfl
@[simp] theorem State.setCore_presetCause (s : State) (c : Nat) (k : Core) : (s.setCore c k).presetCause = s.presetCause := rfl
@[simp] theorem State.setCore_pfaults (s : State) (c : Nat) (k : Core) : (s.setCore c k).pfaults = s.pfaults := rfl
@[simp] theorem State.setCore_board (s : State) (c : Nat) (k : Core) : (s.setCore c k).board = s.board := rfl

/-! The fields that modCore leaves. -/
@[simp] theorem State.modCore_clock (s : State) (c : Nat) (f : Core → Core) : (s.modCore c f).clock = s.clock := rfl
@[simp] theorem State.modCore_cur (s : State) (c : Nat) (f : Core → Core) : (s.modCore c f).cur = s.cur := rfl
@[simp] theorem State.modCore_agenda (s : State) (c : Nat) (f : Core → Core) : (s.modCore c f).agenda = s.agenda := rfl
@[simp] theorem State.modCore_serial (s : State) (c : Nat) (f : Core → Core) : (s.modCore c f).serial = s.serial := rfl
@[simp] theorem State.modCore_draws (s : State) (c : Nat) (f : Core → Core) : (s.modCore c f).draws = s.draws := rfl
@[simp] theorem State.modCore_clusters (s : State) (c : Nat) (f : Core → Core) : (s.modCore c f).clusters = s.clusters := rfl
@[simp] theorem State.modCore_dies (s : State) (c : Nat) (f : Core → Core) : (s.modCore c f).dies = s.dies := rfl
@[simp] theorem State.modCore_parts (s : State) (c : Nat) (f : Core → Core) : (s.modCore c f).parts = s.parts := rfl
@[simp] theorem State.modCore_jobs (s : State) (c : Nat) (f : Core → Core) : (s.modCore c f).jobs = s.jobs := rfl
@[simp] theorem State.modCore_phases (s : State) (c : Nat) (f : Core → Core) : (s.modCore c f).phases = s.phases := rfl
@[simp] theorem State.modCore_freed (s : State) (c : Nat) (f : Core → Core) : (s.modCore c f).freed = s.freed := rfl
@[simp] theorem State.modCore_launches (s : State) (c : Nat) (f : Core → Core) : (s.modCore c f).launches = s.launches := rfl
@[simp] theorem State.modCore_seedings (s : State) (c : Nat) (f : Core → Core) : (s.modCore c f).seedings = s.seedings := rfl
@[simp] theorem State.modCore_mesh (s : State) (c : Nat) (f : Core → Core) : (s.modCore c f).mesh = s.mesh := rfl
@[simp] theorem State.modCore_acks (s : State) (c : Nat) (f : Core → Core) : (s.modCore c f).acks = s.acks := rfl
@[simp] theorem State.modCore_egress (s : State) (c : Nat) (f : Core → Core) : (s.modCore c f).egress = s.egress := rfl
@[simp] theorem State.modCore_queues (s : State) (c : Nat) (f : Core → Core) : (s.modCore c f).queues = s.queues := rfl
@[simp] theorem State.modCore_notices (s : State) (c : Nat) (f : Core → Core) : (s.modCore c f).notices = s.notices := rfl
@[simp] theorem State.modCore_placing (s : State) (c : Nat) (f : Core → Core) : (s.modCore c f).placing = s.placing := rfl
@[simp] theorem State.modCore_readAhead (s : State) (c : Nat) (f : Core → Core) : (s.modCore c f).readAhead = s.readAhead := rfl
@[simp] theorem State.modCore_running (s : State) (c : Nat) (f : Core → Core) : (s.modCore c f).running = s.running := rfl
@[simp] theorem State.modCore_watches (s : State) (c : Nat) (f : Core → Core) : (s.modCore c f).watches = s.watches := rfl
@[simp] theorem State.modCore_mem (s : State) (c : Nat) (f : Core → Core) : (s.modCore c f).mem = s.mem := rfl
@[simp] theorem State.modCore_seals (s : State) (c : Nat) (f : Core → Core) : (s.modCore c f).seals = s.seals := rfl
@[simp] theorem State.modCore_poc (s : State) (c : Nat) (f : Core → Core) : (s.modCore c f).poc = s.poc := rfl
@[simp] theorem State.modCore_walks (s : State) (c : Nat) (f : Core → Core) : (s.modCore c f).walks = s.walks := rfl
@[simp] theorem State.modCore_rods (s : State) (c : Nat) (f : Core → Core) : (s.modCore c f).rods = s.rods := rfl
@[simp] theorem State.modCore_rodblk (s : State) (c : Nat) (f : Core → Core) : (s.modCore c f).rodblk = s.rodblk := rfl
@[simp] theorem State.modCore_puts (s : State) (c : Nat) (f : Core → Core) : (s.modCore c f).puts = s.puts := rfl
@[simp] theorem State.modCore_flows (s : State) (c : Nat) (f : Core → Core) : (s.modCore c f).flows = s.flows := rfl
@[simp] theorem State.modCore_recvs (s : State) (c : Nat) (f : Core → Core) : (s.modCore c f).recvs = s.recvs := rfl
@[simp] theorem State.modCore_reorder (s : State) (c : Nat) (f : Core → Core) : (s.modCore c f).reorder = s.reorder := rfl
@[simp] theorem State.modCore_waits (s : State) (c : Nat) (f : Core → Core) : (s.modCore c f).waits = s.waits := rfl
@[simp] theorem State.modCore_getrs (s : State) (c : Nat) (f : Core → Core) : (s.modCore c f).getrs = s.getrs := rfl
@[simp] theorem State.modCore_ureads (s : State) (c : Nat) (f : Core → Core) : (s.modCore c f).ureads = s.ureads := rfl
@[simp] theorem State.modCore_peers (s : State) (c : Nat) (f : Core → Core) : (s.modCore c f).peers = s.peers := rfl
@[simp] theorem State.modCore_halves (s : State) (c : Nat) (f : Core → Core) : (s.modCore c f).halves = s.halves := rfl
@[simp] theorem State.modCore_held (s : State) (c : Nat) (f : Core → Core) : (s.modCore c f).held = s.held := rfl
@[simp] theorem State.modCore_deferred (s : State) (c : Nat) (f : Core → Core) : (s.modCore c f).deferred = s.deferred := rfl
@[simp] theorem State.modCore_graphs (s : State) (c : Nat) (f : Core → Core) : (s.modCore c f).graphs = s.graphs := rfl
@[simp] theorem State.modCore_xalls (s : State) (c : Nat) (f : Core → Core) : (s.modCore c f).xalls = s.xalls := rfl
@[simp] theorem State.modCore_saves (s : State) (c : Nat) (f : Core → Core) : (s.modCore c f).saves = s.saves := rfl
@[simp] theorem State.modCore_presetPart (s : State) (c : Nat) (f : Core → Core) : (s.modCore c f).presetPart = s.presetPart := rfl
@[simp] theorem State.modCore_presetBusy (s : State) (c : Nat) (f : Core → Core) : (s.modCore c f).presetBusy = s.presetBusy := rfl
@[simp] theorem State.modCore_resets (s : State) (c : Nat) (f : Core → Core) : (s.modCore c f).resets = s.resets := rfl
@[simp] theorem State.modCore_presetCause (s : State) (c : Nat) (f : Core → Core) : (s.modCore c f).presetCause = s.presetCause := rfl
@[simp] theorem State.modCore_pfaults (s : State) (c : Nat) (f : Core → Core) : (s.modCore c f).pfaults = s.pfaults := rfl
@[simp] theorem State.modCore_board (s : State) (c : Nat) (f : Core → Core) : (s.modCore c f).board = s.board := rfl

/-! The fields that setCtx leaves. -/
@[simp] theorem State.setCtx_clock (s : State) (c n : Nat) (x : Ctx) : (s.setCtx c n x).clock = s.clock := rfl
@[simp] theorem State.setCtx_cur (s : State) (c n : Nat) (x : Ctx) : (s.setCtx c n x).cur = s.cur := rfl
@[simp] theorem State.setCtx_agenda (s : State) (c n : Nat) (x : Ctx) : (s.setCtx c n x).agenda = s.agenda := rfl
@[simp] theorem State.setCtx_serial (s : State) (c n : Nat) (x : Ctx) : (s.setCtx c n x).serial = s.serial := rfl
@[simp] theorem State.setCtx_draws (s : State) (c n : Nat) (x : Ctx) : (s.setCtx c n x).draws = s.draws := rfl
@[simp] theorem State.setCtx_clusters (s : State) (c n : Nat) (x : Ctx) : (s.setCtx c n x).clusters = s.clusters := rfl
@[simp] theorem State.setCtx_dies (s : State) (c n : Nat) (x : Ctx) : (s.setCtx c n x).dies = s.dies := rfl
@[simp] theorem State.setCtx_parts (s : State) (c n : Nat) (x : Ctx) : (s.setCtx c n x).parts = s.parts := rfl
@[simp] theorem State.setCtx_jobs (s : State) (c n : Nat) (x : Ctx) : (s.setCtx c n x).jobs = s.jobs := rfl
@[simp] theorem State.setCtx_phases (s : State) (c n : Nat) (x : Ctx) : (s.setCtx c n x).phases = s.phases := rfl
@[simp] theorem State.setCtx_freed (s : State) (c n : Nat) (x : Ctx) : (s.setCtx c n x).freed = s.freed := rfl
@[simp] theorem State.setCtx_launches (s : State) (c n : Nat) (x : Ctx) : (s.setCtx c n x).launches = s.launches := rfl
@[simp] theorem State.setCtx_seedings (s : State) (c n : Nat) (x : Ctx) : (s.setCtx c n x).seedings = s.seedings := rfl
@[simp] theorem State.setCtx_mesh (s : State) (c n : Nat) (x : Ctx) : (s.setCtx c n x).mesh = s.mesh := rfl
@[simp] theorem State.setCtx_acks (s : State) (c n : Nat) (x : Ctx) : (s.setCtx c n x).acks = s.acks := rfl
@[simp] theorem State.setCtx_egress (s : State) (c n : Nat) (x : Ctx) : (s.setCtx c n x).egress = s.egress := rfl
@[simp] theorem State.setCtx_queues (s : State) (c n : Nat) (x : Ctx) : (s.setCtx c n x).queues = s.queues := rfl
@[simp] theorem State.setCtx_notices (s : State) (c n : Nat) (x : Ctx) : (s.setCtx c n x).notices = s.notices := rfl
@[simp] theorem State.setCtx_placing (s : State) (c n : Nat) (x : Ctx) : (s.setCtx c n x).placing = s.placing := rfl
@[simp] theorem State.setCtx_readAhead (s : State) (c n : Nat) (x : Ctx) : (s.setCtx c n x).readAhead = s.readAhead := rfl
@[simp] theorem State.setCtx_running (s : State) (c n : Nat) (x : Ctx) : (s.setCtx c n x).running = s.running := rfl
@[simp] theorem State.setCtx_watches (s : State) (c n : Nat) (x : Ctx) : (s.setCtx c n x).watches = s.watches := rfl
@[simp] theorem State.setCtx_mem (s : State) (c n : Nat) (x : Ctx) : (s.setCtx c n x).mem = s.mem := rfl
@[simp] theorem State.setCtx_seals (s : State) (c n : Nat) (x : Ctx) : (s.setCtx c n x).seals = s.seals := rfl
@[simp] theorem State.setCtx_poc (s : State) (c n : Nat) (x : Ctx) : (s.setCtx c n x).poc = s.poc := rfl
@[simp] theorem State.setCtx_walks (s : State) (c n : Nat) (x : Ctx) : (s.setCtx c n x).walks = s.walks := rfl
@[simp] theorem State.setCtx_rods (s : State) (c n : Nat) (x : Ctx) : (s.setCtx c n x).rods = s.rods := rfl
@[simp] theorem State.setCtx_rodblk (s : State) (c n : Nat) (x : Ctx) : (s.setCtx c n x).rodblk = s.rodblk := rfl
@[simp] theorem State.setCtx_puts (s : State) (c n : Nat) (x : Ctx) : (s.setCtx c n x).puts = s.puts := rfl
@[simp] theorem State.setCtx_flows (s : State) (c n : Nat) (x : Ctx) : (s.setCtx c n x).flows = s.flows := rfl
@[simp] theorem State.setCtx_recvs (s : State) (c n : Nat) (x : Ctx) : (s.setCtx c n x).recvs = s.recvs := rfl
@[simp] theorem State.setCtx_reorder (s : State) (c n : Nat) (x : Ctx) : (s.setCtx c n x).reorder = s.reorder := rfl
@[simp] theorem State.setCtx_waits (s : State) (c n : Nat) (x : Ctx) : (s.setCtx c n x).waits = s.waits := rfl
@[simp] theorem State.setCtx_getrs (s : State) (c n : Nat) (x : Ctx) : (s.setCtx c n x).getrs = s.getrs := rfl
@[simp] theorem State.setCtx_ureads (s : State) (c n : Nat) (x : Ctx) : (s.setCtx c n x).ureads = s.ureads := rfl
@[simp] theorem State.setCtx_peers (s : State) (c n : Nat) (x : Ctx) : (s.setCtx c n x).peers = s.peers := rfl
@[simp] theorem State.setCtx_halves (s : State) (c n : Nat) (x : Ctx) : (s.setCtx c n x).halves = s.halves := rfl
@[simp] theorem State.setCtx_held (s : State) (c n : Nat) (x : Ctx) : (s.setCtx c n x).held = s.held := rfl
@[simp] theorem State.setCtx_deferred (s : State) (c n : Nat) (x : Ctx) : (s.setCtx c n x).deferred = s.deferred := rfl
@[simp] theorem State.setCtx_graphs (s : State) (c n : Nat) (x : Ctx) : (s.setCtx c n x).graphs = s.graphs := rfl
@[simp] theorem State.setCtx_xalls (s : State) (c n : Nat) (x : Ctx) : (s.setCtx c n x).xalls = s.xalls := rfl
@[simp] theorem State.setCtx_saves (s : State) (c n : Nat) (x : Ctx) : (s.setCtx c n x).saves = s.saves := rfl
@[simp] theorem State.setCtx_presetPart (s : State) (c n : Nat) (x : Ctx) : (s.setCtx c n x).presetPart = s.presetPart := rfl
@[simp] theorem State.setCtx_presetBusy (s : State) (c n : Nat) (x : Ctx) : (s.setCtx c n x).presetBusy = s.presetBusy := rfl
@[simp] theorem State.setCtx_resets (s : State) (c n : Nat) (x : Ctx) : (s.setCtx c n x).resets = s.resets := rfl
@[simp] theorem State.setCtx_presetCause (s : State) (c n : Nat) (x : Ctx) : (s.setCtx c n x).presetCause = s.presetCause := rfl
@[simp] theorem State.setCtx_pfaults (s : State) (c n : Nat) (x : Ctx) : (s.setCtx c n x).pfaults = s.pfaults := rfl
@[simp] theorem State.setCtx_board (s : State) (c n : Nat) (x : Ctx) : (s.setCtx c n x).board = s.board := rfl

/-! The fields that modCtx leaves. -/
@[simp] theorem State.modCtx_clock (s : State) (c n : Nat) (f : Ctx → Ctx) : (s.modCtx c n f).clock = s.clock := rfl
@[simp] theorem State.modCtx_cur (s : State) (c n : Nat) (f : Ctx → Ctx) : (s.modCtx c n f).cur = s.cur := rfl
@[simp] theorem State.modCtx_agenda (s : State) (c n : Nat) (f : Ctx → Ctx) : (s.modCtx c n f).agenda = s.agenda := rfl
@[simp] theorem State.modCtx_serial (s : State) (c n : Nat) (f : Ctx → Ctx) : (s.modCtx c n f).serial = s.serial := rfl
@[simp] theorem State.modCtx_draws (s : State) (c n : Nat) (f : Ctx → Ctx) : (s.modCtx c n f).draws = s.draws := rfl
@[simp] theorem State.modCtx_clusters (s : State) (c n : Nat) (f : Ctx → Ctx) : (s.modCtx c n f).clusters = s.clusters := rfl
@[simp] theorem State.modCtx_dies (s : State) (c n : Nat) (f : Ctx → Ctx) : (s.modCtx c n f).dies = s.dies := rfl
@[simp] theorem State.modCtx_parts (s : State) (c n : Nat) (f : Ctx → Ctx) : (s.modCtx c n f).parts = s.parts := rfl
@[simp] theorem State.modCtx_jobs (s : State) (c n : Nat) (f : Ctx → Ctx) : (s.modCtx c n f).jobs = s.jobs := rfl
@[simp] theorem State.modCtx_phases (s : State) (c n : Nat) (f : Ctx → Ctx) : (s.modCtx c n f).phases = s.phases := rfl
@[simp] theorem State.modCtx_freed (s : State) (c n : Nat) (f : Ctx → Ctx) : (s.modCtx c n f).freed = s.freed := rfl
@[simp] theorem State.modCtx_launches (s : State) (c n : Nat) (f : Ctx → Ctx) : (s.modCtx c n f).launches = s.launches := rfl
@[simp] theorem State.modCtx_seedings (s : State) (c n : Nat) (f : Ctx → Ctx) : (s.modCtx c n f).seedings = s.seedings := rfl
@[simp] theorem State.modCtx_mesh (s : State) (c n : Nat) (f : Ctx → Ctx) : (s.modCtx c n f).mesh = s.mesh := rfl
@[simp] theorem State.modCtx_acks (s : State) (c n : Nat) (f : Ctx → Ctx) : (s.modCtx c n f).acks = s.acks := rfl
@[simp] theorem State.modCtx_egress (s : State) (c n : Nat) (f : Ctx → Ctx) : (s.modCtx c n f).egress = s.egress := rfl
@[simp] theorem State.modCtx_queues (s : State) (c n : Nat) (f : Ctx → Ctx) : (s.modCtx c n f).queues = s.queues := rfl
@[simp] theorem State.modCtx_notices (s : State) (c n : Nat) (f : Ctx → Ctx) : (s.modCtx c n f).notices = s.notices := rfl
@[simp] theorem State.modCtx_placing (s : State) (c n : Nat) (f : Ctx → Ctx) : (s.modCtx c n f).placing = s.placing := rfl
@[simp] theorem State.modCtx_readAhead (s : State) (c n : Nat) (f : Ctx → Ctx) : (s.modCtx c n f).readAhead = s.readAhead := rfl
@[simp] theorem State.modCtx_running (s : State) (c n : Nat) (f : Ctx → Ctx) : (s.modCtx c n f).running = s.running := rfl
@[simp] theorem State.modCtx_watches (s : State) (c n : Nat) (f : Ctx → Ctx) : (s.modCtx c n f).watches = s.watches := rfl
@[simp] theorem State.modCtx_mem (s : State) (c n : Nat) (f : Ctx → Ctx) : (s.modCtx c n f).mem = s.mem := rfl
@[simp] theorem State.modCtx_seals (s : State) (c n : Nat) (f : Ctx → Ctx) : (s.modCtx c n f).seals = s.seals := rfl
@[simp] theorem State.modCtx_poc (s : State) (c n : Nat) (f : Ctx → Ctx) : (s.modCtx c n f).poc = s.poc := rfl
@[simp] theorem State.modCtx_walks (s : State) (c n : Nat) (f : Ctx → Ctx) : (s.modCtx c n f).walks = s.walks := rfl
@[simp] theorem State.modCtx_rods (s : State) (c n : Nat) (f : Ctx → Ctx) : (s.modCtx c n f).rods = s.rods := rfl
@[simp] theorem State.modCtx_rodblk (s : State) (c n : Nat) (f : Ctx → Ctx) : (s.modCtx c n f).rodblk = s.rodblk := rfl
@[simp] theorem State.modCtx_puts (s : State) (c n : Nat) (f : Ctx → Ctx) : (s.modCtx c n f).puts = s.puts := rfl
@[simp] theorem State.modCtx_flows (s : State) (c n : Nat) (f : Ctx → Ctx) : (s.modCtx c n f).flows = s.flows := rfl
@[simp] theorem State.modCtx_recvs (s : State) (c n : Nat) (f : Ctx → Ctx) : (s.modCtx c n f).recvs = s.recvs := rfl
@[simp] theorem State.modCtx_reorder (s : State) (c n : Nat) (f : Ctx → Ctx) : (s.modCtx c n f).reorder = s.reorder := rfl
@[simp] theorem State.modCtx_waits (s : State) (c n : Nat) (f : Ctx → Ctx) : (s.modCtx c n f).waits = s.waits := rfl
@[simp] theorem State.modCtx_getrs (s : State) (c n : Nat) (f : Ctx → Ctx) : (s.modCtx c n f).getrs = s.getrs := rfl
@[simp] theorem State.modCtx_ureads (s : State) (c n : Nat) (f : Ctx → Ctx) : (s.modCtx c n f).ureads = s.ureads := rfl
@[simp] theorem State.modCtx_peers (s : State) (c n : Nat) (f : Ctx → Ctx) : (s.modCtx c n f).peers = s.peers := rfl
@[simp] theorem State.modCtx_halves (s : State) (c n : Nat) (f : Ctx → Ctx) : (s.modCtx c n f).halves = s.halves := rfl
@[simp] theorem State.modCtx_held (s : State) (c n : Nat) (f : Ctx → Ctx) : (s.modCtx c n f).held = s.held := rfl
@[simp] theorem State.modCtx_deferred (s : State) (c n : Nat) (f : Ctx → Ctx) : (s.modCtx c n f).deferred = s.deferred := rfl
@[simp] theorem State.modCtx_graphs (s : State) (c n : Nat) (f : Ctx → Ctx) : (s.modCtx c n f).graphs = s.graphs := rfl
@[simp] theorem State.modCtx_xalls (s : State) (c n : Nat) (f : Ctx → Ctx) : (s.modCtx c n f).xalls = s.xalls := rfl
@[simp] theorem State.modCtx_saves (s : State) (c n : Nat) (f : Ctx → Ctx) : (s.modCtx c n f).saves = s.saves := rfl
@[simp] theorem State.modCtx_presetPart (s : State) (c n : Nat) (f : Ctx → Ctx) : (s.modCtx c n f).presetPart = s.presetPart := rfl
@[simp] theorem State.modCtx_presetBusy (s : State) (c n : Nat) (f : Ctx → Ctx) : (s.modCtx c n f).presetBusy = s.presetBusy := rfl
@[simp] theorem State.modCtx_resets (s : State) (c n : Nat) (f : Ctx → Ctx) : (s.modCtx c n f).resets = s.resets := rfl
@[simp] theorem State.modCtx_presetCause (s : State) (c n : Nat) (f : Ctx → Ctx) : (s.modCtx c n f).presetCause = s.presetCause := rfl
@[simp] theorem State.modCtx_pfaults (s : State) (c n : Nat) (f : Ctx → Ctx) : (s.modCtx c n f).pfaults = s.pfaults := rfl
@[simp] theorem State.modCtx_board (s : State) (c n : Nat) (f : Ctx → Ctx) : (s.modCtx c n f).board = s.board := rfl

/-! The fields that setMe leaves. -/
@[simp] theorem State.setMe_clock (s : State) (x : Ctx) : (s.setMe x).clock = s.clock := rfl
@[simp] theorem State.setMe_cur (s : State) (x : Ctx) : (s.setMe x).cur = s.cur := rfl
@[simp] theorem State.setMe_agenda (s : State) (x : Ctx) : (s.setMe x).agenda = s.agenda := rfl
@[simp] theorem State.setMe_serial (s : State) (x : Ctx) : (s.setMe x).serial = s.serial := rfl
@[simp] theorem State.setMe_draws (s : State) (x : Ctx) : (s.setMe x).draws = s.draws := rfl
@[simp] theorem State.setMe_clusters (s : State) (x : Ctx) : (s.setMe x).clusters = s.clusters := rfl
@[simp] theorem State.setMe_dies (s : State) (x : Ctx) : (s.setMe x).dies = s.dies := rfl
@[simp] theorem State.setMe_parts (s : State) (x : Ctx) : (s.setMe x).parts = s.parts := rfl
@[simp] theorem State.setMe_jobs (s : State) (x : Ctx) : (s.setMe x).jobs = s.jobs := rfl
@[simp] theorem State.setMe_phases (s : State) (x : Ctx) : (s.setMe x).phases = s.phases := rfl
@[simp] theorem State.setMe_freed (s : State) (x : Ctx) : (s.setMe x).freed = s.freed := rfl
@[simp] theorem State.setMe_launches (s : State) (x : Ctx) : (s.setMe x).launches = s.launches := rfl
@[simp] theorem State.setMe_seedings (s : State) (x : Ctx) : (s.setMe x).seedings = s.seedings := rfl
@[simp] theorem State.setMe_mesh (s : State) (x : Ctx) : (s.setMe x).mesh = s.mesh := rfl
@[simp] theorem State.setMe_acks (s : State) (x : Ctx) : (s.setMe x).acks = s.acks := rfl
@[simp] theorem State.setMe_egress (s : State) (x : Ctx) : (s.setMe x).egress = s.egress := rfl
@[simp] theorem State.setMe_queues (s : State) (x : Ctx) : (s.setMe x).queues = s.queues := rfl
@[simp] theorem State.setMe_notices (s : State) (x : Ctx) : (s.setMe x).notices = s.notices := rfl
@[simp] theorem State.setMe_placing (s : State) (x : Ctx) : (s.setMe x).placing = s.placing := rfl
@[simp] theorem State.setMe_readAhead (s : State) (x : Ctx) : (s.setMe x).readAhead = s.readAhead := rfl
@[simp] theorem State.setMe_running (s : State) (x : Ctx) : (s.setMe x).running = s.running := rfl
@[simp] theorem State.setMe_watches (s : State) (x : Ctx) : (s.setMe x).watches = s.watches := rfl
@[simp] theorem State.setMe_mem (s : State) (x : Ctx) : (s.setMe x).mem = s.mem := rfl
@[simp] theorem State.setMe_seals (s : State) (x : Ctx) : (s.setMe x).seals = s.seals := rfl
@[simp] theorem State.setMe_poc (s : State) (x : Ctx) : (s.setMe x).poc = s.poc := rfl
@[simp] theorem State.setMe_walks (s : State) (x : Ctx) : (s.setMe x).walks = s.walks := rfl
@[simp] theorem State.setMe_rods (s : State) (x : Ctx) : (s.setMe x).rods = s.rods := rfl
@[simp] theorem State.setMe_rodblk (s : State) (x : Ctx) : (s.setMe x).rodblk = s.rodblk := rfl
@[simp] theorem State.setMe_puts (s : State) (x : Ctx) : (s.setMe x).puts = s.puts := rfl
@[simp] theorem State.setMe_flows (s : State) (x : Ctx) : (s.setMe x).flows = s.flows := rfl
@[simp] theorem State.setMe_recvs (s : State) (x : Ctx) : (s.setMe x).recvs = s.recvs := rfl
@[simp] theorem State.setMe_reorder (s : State) (x : Ctx) : (s.setMe x).reorder = s.reorder := rfl
@[simp] theorem State.setMe_waits (s : State) (x : Ctx) : (s.setMe x).waits = s.waits := rfl
@[simp] theorem State.setMe_getrs (s : State) (x : Ctx) : (s.setMe x).getrs = s.getrs := rfl
@[simp] theorem State.setMe_ureads (s : State) (x : Ctx) : (s.setMe x).ureads = s.ureads := rfl
@[simp] theorem State.setMe_peers (s : State) (x : Ctx) : (s.setMe x).peers = s.peers := rfl
@[simp] theorem State.setMe_halves (s : State) (x : Ctx) : (s.setMe x).halves = s.halves := rfl
@[simp] theorem State.setMe_held (s : State) (x : Ctx) : (s.setMe x).held = s.held := rfl
@[simp] theorem State.setMe_deferred (s : State) (x : Ctx) : (s.setMe x).deferred = s.deferred := rfl
@[simp] theorem State.setMe_graphs (s : State) (x : Ctx) : (s.setMe x).graphs = s.graphs := rfl
@[simp] theorem State.setMe_xalls (s : State) (x : Ctx) : (s.setMe x).xalls = s.xalls := rfl
@[simp] theorem State.setMe_saves (s : State) (x : Ctx) : (s.setMe x).saves = s.saves := rfl
@[simp] theorem State.setMe_presetPart (s : State) (x : Ctx) : (s.setMe x).presetPart = s.presetPart := rfl
@[simp] theorem State.setMe_presetBusy (s : State) (x : Ctx) : (s.setMe x).presetBusy = s.presetBusy := rfl
@[simp] theorem State.setMe_resets (s : State) (x : Ctx) : (s.setMe x).resets = s.resets := rfl
@[simp] theorem State.setMe_presetCause (s : State) (x : Ctx) : (s.setMe x).presetCause = s.presetCause := rfl
@[simp] theorem State.setMe_pfaults (s : State) (x : Ctx) : (s.setMe x).pfaults = s.pfaults := rfl
@[simp] theorem State.setMe_board (s : State) (x : Ctx) : (s.setMe x).board = s.board := rfl

/-! The fields that modMyCore leaves. -/
@[simp] theorem State.modMyCore_clock (s : State) (f : Core → Core) : (s.modMyCore f).clock = s.clock := rfl
@[simp] theorem State.modMyCore_cur (s : State) (f : Core → Core) : (s.modMyCore f).cur = s.cur := rfl
@[simp] theorem State.modMyCore_agenda (s : State) (f : Core → Core) : (s.modMyCore f).agenda = s.agenda := rfl
@[simp] theorem State.modMyCore_serial (s : State) (f : Core → Core) : (s.modMyCore f).serial = s.serial := rfl
@[simp] theorem State.modMyCore_draws (s : State) (f : Core → Core) : (s.modMyCore f).draws = s.draws := rfl
@[simp] theorem State.modMyCore_clusters (s : State) (f : Core → Core) : (s.modMyCore f).clusters = s.clusters := rfl
@[simp] theorem State.modMyCore_dies (s : State) (f : Core → Core) : (s.modMyCore f).dies = s.dies := rfl
@[simp] theorem State.modMyCore_parts (s : State) (f : Core → Core) : (s.modMyCore f).parts = s.parts := rfl
@[simp] theorem State.modMyCore_jobs (s : State) (f : Core → Core) : (s.modMyCore f).jobs = s.jobs := rfl
@[simp] theorem State.modMyCore_phases (s : State) (f : Core → Core) : (s.modMyCore f).phases = s.phases := rfl
@[simp] theorem State.modMyCore_freed (s : State) (f : Core → Core) : (s.modMyCore f).freed = s.freed := rfl
@[simp] theorem State.modMyCore_launches (s : State) (f : Core → Core) : (s.modMyCore f).launches = s.launches := rfl
@[simp] theorem State.modMyCore_seedings (s : State) (f : Core → Core) : (s.modMyCore f).seedings = s.seedings := rfl
@[simp] theorem State.modMyCore_mesh (s : State) (f : Core → Core) : (s.modMyCore f).mesh = s.mesh := rfl
@[simp] theorem State.modMyCore_acks (s : State) (f : Core → Core) : (s.modMyCore f).acks = s.acks := rfl
@[simp] theorem State.modMyCore_egress (s : State) (f : Core → Core) : (s.modMyCore f).egress = s.egress := rfl
@[simp] theorem State.modMyCore_queues (s : State) (f : Core → Core) : (s.modMyCore f).queues = s.queues := rfl
@[simp] theorem State.modMyCore_notices (s : State) (f : Core → Core) : (s.modMyCore f).notices = s.notices := rfl
@[simp] theorem State.modMyCore_placing (s : State) (f : Core → Core) : (s.modMyCore f).placing = s.placing := rfl
@[simp] theorem State.modMyCore_readAhead (s : State) (f : Core → Core) : (s.modMyCore f).readAhead = s.readAhead := rfl
@[simp] theorem State.modMyCore_running (s : State) (f : Core → Core) : (s.modMyCore f).running = s.running := rfl
@[simp] theorem State.modMyCore_watches (s : State) (f : Core → Core) : (s.modMyCore f).watches = s.watches := rfl
@[simp] theorem State.modMyCore_mem (s : State) (f : Core → Core) : (s.modMyCore f).mem = s.mem := rfl
@[simp] theorem State.modMyCore_seals (s : State) (f : Core → Core) : (s.modMyCore f).seals = s.seals := rfl
@[simp] theorem State.modMyCore_poc (s : State) (f : Core → Core) : (s.modMyCore f).poc = s.poc := rfl
@[simp] theorem State.modMyCore_walks (s : State) (f : Core → Core) : (s.modMyCore f).walks = s.walks := rfl
@[simp] theorem State.modMyCore_rods (s : State) (f : Core → Core) : (s.modMyCore f).rods = s.rods := rfl
@[simp] theorem State.modMyCore_rodblk (s : State) (f : Core → Core) : (s.modMyCore f).rodblk = s.rodblk := rfl
@[simp] theorem State.modMyCore_puts (s : State) (f : Core → Core) : (s.modMyCore f).puts = s.puts := rfl
@[simp] theorem State.modMyCore_flows (s : State) (f : Core → Core) : (s.modMyCore f).flows = s.flows := rfl
@[simp] theorem State.modMyCore_recvs (s : State) (f : Core → Core) : (s.modMyCore f).recvs = s.recvs := rfl
@[simp] theorem State.modMyCore_reorder (s : State) (f : Core → Core) : (s.modMyCore f).reorder = s.reorder := rfl
@[simp] theorem State.modMyCore_waits (s : State) (f : Core → Core) : (s.modMyCore f).waits = s.waits := rfl
@[simp] theorem State.modMyCore_getrs (s : State) (f : Core → Core) : (s.modMyCore f).getrs = s.getrs := rfl
@[simp] theorem State.modMyCore_ureads (s : State) (f : Core → Core) : (s.modMyCore f).ureads = s.ureads := rfl
@[simp] theorem State.modMyCore_peers (s : State) (f : Core → Core) : (s.modMyCore f).peers = s.peers := rfl
@[simp] theorem State.modMyCore_halves (s : State) (f : Core → Core) : (s.modMyCore f).halves = s.halves := rfl
@[simp] theorem State.modMyCore_held (s : State) (f : Core → Core) : (s.modMyCore f).held = s.held := rfl
@[simp] theorem State.modMyCore_deferred (s : State) (f : Core → Core) : (s.modMyCore f).deferred = s.deferred := rfl
@[simp] theorem State.modMyCore_graphs (s : State) (f : Core → Core) : (s.modMyCore f).graphs = s.graphs := rfl
@[simp] theorem State.modMyCore_xalls (s : State) (f : Core → Core) : (s.modMyCore f).xalls = s.xalls := rfl
@[simp] theorem State.modMyCore_saves (s : State) (f : Core → Core) : (s.modMyCore f).saves = s.saves := rfl
@[simp] theorem State.modMyCore_presetPart (s : State) (f : Core → Core) : (s.modMyCore f).presetPart = s.presetPart := rfl
@[simp] theorem State.modMyCore_presetBusy (s : State) (f : Core → Core) : (s.modMyCore f).presetBusy = s.presetBusy := rfl
@[simp] theorem State.modMyCore_resets (s : State) (f : Core → Core) : (s.modMyCore f).resets = s.resets := rfl
@[simp] theorem State.modMyCore_presetCause (s : State) (f : Core → Core) : (s.modMyCore f).presetCause = s.presetCause := rfl
@[simp] theorem State.modMyCore_pfaults (s : State) (f : Core → Core) : (s.modMyCore f).pfaults = s.pfaults := rfl
@[simp] theorem State.modMyCore_board (s : State) (f : Core → Core) : (s.modMyCore f).board = s.board := rfl

/-! The fields that setCluster leaves. -/
@[simp] theorem State.setCluster_clock (s : State) (c : Nat) (k : Cluster) : (s.setCluster c k).clock = s.clock := rfl
@[simp] theorem State.setCluster_cur (s : State) (c : Nat) (k : Cluster) : (s.setCluster c k).cur = s.cur := rfl
@[simp] theorem State.setCluster_agenda (s : State) (c : Nat) (k : Cluster) : (s.setCluster c k).agenda = s.agenda := rfl
@[simp] theorem State.setCluster_serial (s : State) (c : Nat) (k : Cluster) : (s.setCluster c k).serial = s.serial := rfl
@[simp] theorem State.setCluster_draws (s : State) (c : Nat) (k : Cluster) : (s.setCluster c k).draws = s.draws := rfl
@[simp] theorem State.setCluster_cores (s : State) (c : Nat) (k : Cluster) : (s.setCluster c k).cores = s.cores := rfl
@[simp] theorem State.setCluster_dies (s : State) (c : Nat) (k : Cluster) : (s.setCluster c k).dies = s.dies := rfl
@[simp] theorem State.setCluster_parts (s : State) (c : Nat) (k : Cluster) : (s.setCluster c k).parts = s.parts := rfl
@[simp] theorem State.setCluster_jobs (s : State) (c : Nat) (k : Cluster) : (s.setCluster c k).jobs = s.jobs := rfl
@[simp] theorem State.setCluster_phases (s : State) (c : Nat) (k : Cluster) : (s.setCluster c k).phases = s.phases := rfl
@[simp] theorem State.setCluster_freed (s : State) (c : Nat) (k : Cluster) : (s.setCluster c k).freed = s.freed := rfl
@[simp] theorem State.setCluster_launches (s : State) (c : Nat) (k : Cluster) : (s.setCluster c k).launches = s.launches := rfl
@[simp] theorem State.setCluster_seedings (s : State) (c : Nat) (k : Cluster) : (s.setCluster c k).seedings = s.seedings := rfl
@[simp] theorem State.setCluster_mesh (s : State) (c : Nat) (k : Cluster) : (s.setCluster c k).mesh = s.mesh := rfl
@[simp] theorem State.setCluster_acks (s : State) (c : Nat) (k : Cluster) : (s.setCluster c k).acks = s.acks := rfl
@[simp] theorem State.setCluster_egress (s : State) (c : Nat) (k : Cluster) : (s.setCluster c k).egress = s.egress := rfl
@[simp] theorem State.setCluster_queues (s : State) (c : Nat) (k : Cluster) : (s.setCluster c k).queues = s.queues := rfl
@[simp] theorem State.setCluster_notices (s : State) (c : Nat) (k : Cluster) : (s.setCluster c k).notices = s.notices := rfl
@[simp] theorem State.setCluster_placing (s : State) (c : Nat) (k : Cluster) : (s.setCluster c k).placing = s.placing := rfl
@[simp] theorem State.setCluster_readAhead (s : State) (c : Nat) (k : Cluster) : (s.setCluster c k).readAhead = s.readAhead := rfl
@[simp] theorem State.setCluster_running (s : State) (c : Nat) (k : Cluster) : (s.setCluster c k).running = s.running := rfl
@[simp] theorem State.setCluster_watches (s : State) (c : Nat) (k : Cluster) : (s.setCluster c k).watches = s.watches := rfl
@[simp] theorem State.setCluster_mem (s : State) (c : Nat) (k : Cluster) : (s.setCluster c k).mem = s.mem := rfl
@[simp] theorem State.setCluster_seals (s : State) (c : Nat) (k : Cluster) : (s.setCluster c k).seals = s.seals := rfl
@[simp] theorem State.setCluster_poc (s : State) (c : Nat) (k : Cluster) : (s.setCluster c k).poc = s.poc := rfl
@[simp] theorem State.setCluster_walks (s : State) (c : Nat) (k : Cluster) : (s.setCluster c k).walks = s.walks := rfl
@[simp] theorem State.setCluster_rods (s : State) (c : Nat) (k : Cluster) : (s.setCluster c k).rods = s.rods := rfl
@[simp] theorem State.setCluster_rodblk (s : State) (c : Nat) (k : Cluster) : (s.setCluster c k).rodblk = s.rodblk := rfl
@[simp] theorem State.setCluster_puts (s : State) (c : Nat) (k : Cluster) : (s.setCluster c k).puts = s.puts := rfl
@[simp] theorem State.setCluster_flows (s : State) (c : Nat) (k : Cluster) : (s.setCluster c k).flows = s.flows := rfl
@[simp] theorem State.setCluster_recvs (s : State) (c : Nat) (k : Cluster) : (s.setCluster c k).recvs = s.recvs := rfl
@[simp] theorem State.setCluster_reorder (s : State) (c : Nat) (k : Cluster) : (s.setCluster c k).reorder = s.reorder := rfl
@[simp] theorem State.setCluster_waits (s : State) (c : Nat) (k : Cluster) : (s.setCluster c k).waits = s.waits := rfl
@[simp] theorem State.setCluster_getrs (s : State) (c : Nat) (k : Cluster) : (s.setCluster c k).getrs = s.getrs := rfl
@[simp] theorem State.setCluster_ureads (s : State) (c : Nat) (k : Cluster) : (s.setCluster c k).ureads = s.ureads := rfl
@[simp] theorem State.setCluster_peers (s : State) (c : Nat) (k : Cluster) : (s.setCluster c k).peers = s.peers := rfl
@[simp] theorem State.setCluster_halves (s : State) (c : Nat) (k : Cluster) : (s.setCluster c k).halves = s.halves := rfl
@[simp] theorem State.setCluster_held (s : State) (c : Nat) (k : Cluster) : (s.setCluster c k).held = s.held := rfl
@[simp] theorem State.setCluster_deferred (s : State) (c : Nat) (k : Cluster) : (s.setCluster c k).deferred = s.deferred := rfl
@[simp] theorem State.setCluster_graphs (s : State) (c : Nat) (k : Cluster) : (s.setCluster c k).graphs = s.graphs := rfl
@[simp] theorem State.setCluster_xalls (s : State) (c : Nat) (k : Cluster) : (s.setCluster c k).xalls = s.xalls := rfl
@[simp] theorem State.setCluster_saves (s : State) (c : Nat) (k : Cluster) : (s.setCluster c k).saves = s.saves := rfl
@[simp] theorem State.setCluster_presetPart (s : State) (c : Nat) (k : Cluster) : (s.setCluster c k).presetPart = s.presetPart := rfl
@[simp] theorem State.setCluster_presetBusy (s : State) (c : Nat) (k : Cluster) : (s.setCluster c k).presetBusy = s.presetBusy := rfl
@[simp] theorem State.setCluster_resets (s : State) (c : Nat) (k : Cluster) : (s.setCluster c k).resets = s.resets := rfl
@[simp] theorem State.setCluster_presetCause (s : State) (c : Nat) (k : Cluster) : (s.setCluster c k).presetCause = s.presetCause := rfl
@[simp] theorem State.setCluster_pfaults (s : State) (c : Nat) (k : Cluster) : (s.setCluster c k).pfaults = s.pfaults := rfl
@[simp] theorem State.setCluster_board (s : State) (c : Nat) (k : Cluster) : (s.setCluster c k).board = s.board := rfl

/-! The fields that modCluster leaves. -/
@[simp] theorem State.modCluster_clock (s : State) (c : Nat) (f : Cluster → Cluster) : (s.modCluster c f).clock = s.clock := rfl
@[simp] theorem State.modCluster_cur (s : State) (c : Nat) (f : Cluster → Cluster) : (s.modCluster c f).cur = s.cur := rfl
@[simp] theorem State.modCluster_agenda (s : State) (c : Nat) (f : Cluster → Cluster) : (s.modCluster c f).agenda = s.agenda := rfl
@[simp] theorem State.modCluster_serial (s : State) (c : Nat) (f : Cluster → Cluster) : (s.modCluster c f).serial = s.serial := rfl
@[simp] theorem State.modCluster_draws (s : State) (c : Nat) (f : Cluster → Cluster) : (s.modCluster c f).draws = s.draws := rfl
@[simp] theorem State.modCluster_cores (s : State) (c : Nat) (f : Cluster → Cluster) : (s.modCluster c f).cores = s.cores := rfl
@[simp] theorem State.modCluster_dies (s : State) (c : Nat) (f : Cluster → Cluster) : (s.modCluster c f).dies = s.dies := rfl
@[simp] theorem State.modCluster_parts (s : State) (c : Nat) (f : Cluster → Cluster) : (s.modCluster c f).parts = s.parts := rfl
@[simp] theorem State.modCluster_jobs (s : State) (c : Nat) (f : Cluster → Cluster) : (s.modCluster c f).jobs = s.jobs := rfl
@[simp] theorem State.modCluster_phases (s : State) (c : Nat) (f : Cluster → Cluster) : (s.modCluster c f).phases = s.phases := rfl
@[simp] theorem State.modCluster_freed (s : State) (c : Nat) (f : Cluster → Cluster) : (s.modCluster c f).freed = s.freed := rfl
@[simp] theorem State.modCluster_launches (s : State) (c : Nat) (f : Cluster → Cluster) : (s.modCluster c f).launches = s.launches := rfl
@[simp] theorem State.modCluster_seedings (s : State) (c : Nat) (f : Cluster → Cluster) : (s.modCluster c f).seedings = s.seedings := rfl
@[simp] theorem State.modCluster_mesh (s : State) (c : Nat) (f : Cluster → Cluster) : (s.modCluster c f).mesh = s.mesh := rfl
@[simp] theorem State.modCluster_acks (s : State) (c : Nat) (f : Cluster → Cluster) : (s.modCluster c f).acks = s.acks := rfl
@[simp] theorem State.modCluster_egress (s : State) (c : Nat) (f : Cluster → Cluster) : (s.modCluster c f).egress = s.egress := rfl
@[simp] theorem State.modCluster_queues (s : State) (c : Nat) (f : Cluster → Cluster) : (s.modCluster c f).queues = s.queues := rfl
@[simp] theorem State.modCluster_notices (s : State) (c : Nat) (f : Cluster → Cluster) : (s.modCluster c f).notices = s.notices := rfl
@[simp] theorem State.modCluster_placing (s : State) (c : Nat) (f : Cluster → Cluster) : (s.modCluster c f).placing = s.placing := rfl
@[simp] theorem State.modCluster_readAhead (s : State) (c : Nat) (f : Cluster → Cluster) : (s.modCluster c f).readAhead = s.readAhead := rfl
@[simp] theorem State.modCluster_running (s : State) (c : Nat) (f : Cluster → Cluster) : (s.modCluster c f).running = s.running := rfl
@[simp] theorem State.modCluster_watches (s : State) (c : Nat) (f : Cluster → Cluster) : (s.modCluster c f).watches = s.watches := rfl
@[simp] theorem State.modCluster_mem (s : State) (c : Nat) (f : Cluster → Cluster) : (s.modCluster c f).mem = s.mem := rfl
@[simp] theorem State.modCluster_seals (s : State) (c : Nat) (f : Cluster → Cluster) : (s.modCluster c f).seals = s.seals := rfl
@[simp] theorem State.modCluster_poc (s : State) (c : Nat) (f : Cluster → Cluster) : (s.modCluster c f).poc = s.poc := rfl
@[simp] theorem State.modCluster_walks (s : State) (c : Nat) (f : Cluster → Cluster) : (s.modCluster c f).walks = s.walks := rfl
@[simp] theorem State.modCluster_rods (s : State) (c : Nat) (f : Cluster → Cluster) : (s.modCluster c f).rods = s.rods := rfl
@[simp] theorem State.modCluster_rodblk (s : State) (c : Nat) (f : Cluster → Cluster) : (s.modCluster c f).rodblk = s.rodblk := rfl
@[simp] theorem State.modCluster_puts (s : State) (c : Nat) (f : Cluster → Cluster) : (s.modCluster c f).puts = s.puts := rfl
@[simp] theorem State.modCluster_flows (s : State) (c : Nat) (f : Cluster → Cluster) : (s.modCluster c f).flows = s.flows := rfl
@[simp] theorem State.modCluster_recvs (s : State) (c : Nat) (f : Cluster → Cluster) : (s.modCluster c f).recvs = s.recvs := rfl
@[simp] theorem State.modCluster_reorder (s : State) (c : Nat) (f : Cluster → Cluster) : (s.modCluster c f).reorder = s.reorder := rfl
@[simp] theorem State.modCluster_waits (s : State) (c : Nat) (f : Cluster → Cluster) : (s.modCluster c f).waits = s.waits := rfl
@[simp] theorem State.modCluster_getrs (s : State) (c : Nat) (f : Cluster → Cluster) : (s.modCluster c f).getrs = s.getrs := rfl
@[simp] theorem State.modCluster_ureads (s : State) (c : Nat) (f : Cluster → Cluster) : (s.modCluster c f).ureads = s.ureads := rfl
@[simp] theorem State.modCluster_peers (s : State) (c : Nat) (f : Cluster → Cluster) : (s.modCluster c f).peers = s.peers := rfl
@[simp] theorem State.modCluster_halves (s : State) (c : Nat) (f : Cluster → Cluster) : (s.modCluster c f).halves = s.halves := rfl
@[simp] theorem State.modCluster_held (s : State) (c : Nat) (f : Cluster → Cluster) : (s.modCluster c f).held = s.held := rfl
@[simp] theorem State.modCluster_deferred (s : State) (c : Nat) (f : Cluster → Cluster) : (s.modCluster c f).deferred = s.deferred := rfl
@[simp] theorem State.modCluster_graphs (s : State) (c : Nat) (f : Cluster → Cluster) : (s.modCluster c f).graphs = s.graphs := rfl
@[simp] theorem State.modCluster_xalls (s : State) (c : Nat) (f : Cluster → Cluster) : (s.modCluster c f).xalls = s.xalls := rfl
@[simp] theorem State.modCluster_saves (s : State) (c : Nat) (f : Cluster → Cluster) : (s.modCluster c f).saves = s.saves := rfl
@[simp] theorem State.modCluster_presetPart (s : State) (c : Nat) (f : Cluster → Cluster) : (s.modCluster c f).presetPart = s.presetPart := rfl
@[simp] theorem State.modCluster_presetBusy (s : State) (c : Nat) (f : Cluster → Cluster) : (s.modCluster c f).presetBusy = s.presetBusy := rfl
@[simp] theorem State.modCluster_resets (s : State) (c : Nat) (f : Cluster → Cluster) : (s.modCluster c f).resets = s.resets := rfl
@[simp] theorem State.modCluster_presetCause (s : State) (c : Nat) (f : Cluster → Cluster) : (s.modCluster c f).presetCause = s.presetCause := rfl
@[simp] theorem State.modCluster_pfaults (s : State) (c : Nat) (f : Cluster → Cluster) : (s.modCluster c f).pfaults = s.pfaults := rfl
@[simp] theorem State.modCluster_board (s : State) (c : Nat) (f : Cluster → Cluster) : (s.modCluster c f).board = s.board := rfl

/-! The fields that modDie leaves. -/
@[simp] theorem State.modDie_clock (s : State) (d : Nat) (f : Die → Die) : (s.modDie d f).clock = s.clock := rfl
@[simp] theorem State.modDie_cur (s : State) (d : Nat) (f : Die → Die) : (s.modDie d f).cur = s.cur := rfl
@[simp] theorem State.modDie_agenda (s : State) (d : Nat) (f : Die → Die) : (s.modDie d f).agenda = s.agenda := rfl
@[simp] theorem State.modDie_serial (s : State) (d : Nat) (f : Die → Die) : (s.modDie d f).serial = s.serial := rfl
@[simp] theorem State.modDie_draws (s : State) (d : Nat) (f : Die → Die) : (s.modDie d f).draws = s.draws := rfl
@[simp] theorem State.modDie_cores (s : State) (d : Nat) (f : Die → Die) : (s.modDie d f).cores = s.cores := rfl
@[simp] theorem State.modDie_clusters (s : State) (d : Nat) (f : Die → Die) : (s.modDie d f).clusters = s.clusters := rfl
@[simp] theorem State.modDie_parts (s : State) (d : Nat) (f : Die → Die) : (s.modDie d f).parts = s.parts := rfl
@[simp] theorem State.modDie_jobs (s : State) (d : Nat) (f : Die → Die) : (s.modDie d f).jobs = s.jobs := rfl
@[simp] theorem State.modDie_phases (s : State) (d : Nat) (f : Die → Die) : (s.modDie d f).phases = s.phases := rfl
@[simp] theorem State.modDie_freed (s : State) (d : Nat) (f : Die → Die) : (s.modDie d f).freed = s.freed := rfl
@[simp] theorem State.modDie_launches (s : State) (d : Nat) (f : Die → Die) : (s.modDie d f).launches = s.launches := rfl
@[simp] theorem State.modDie_seedings (s : State) (d : Nat) (f : Die → Die) : (s.modDie d f).seedings = s.seedings := rfl
@[simp] theorem State.modDie_mesh (s : State) (d : Nat) (f : Die → Die) : (s.modDie d f).mesh = s.mesh := rfl
@[simp] theorem State.modDie_acks (s : State) (d : Nat) (f : Die → Die) : (s.modDie d f).acks = s.acks := rfl
@[simp] theorem State.modDie_egress (s : State) (d : Nat) (f : Die → Die) : (s.modDie d f).egress = s.egress := rfl
@[simp] theorem State.modDie_queues (s : State) (d : Nat) (f : Die → Die) : (s.modDie d f).queues = s.queues := rfl
@[simp] theorem State.modDie_notices (s : State) (d : Nat) (f : Die → Die) : (s.modDie d f).notices = s.notices := rfl
@[simp] theorem State.modDie_placing (s : State) (d : Nat) (f : Die → Die) : (s.modDie d f).placing = s.placing := rfl
@[simp] theorem State.modDie_readAhead (s : State) (d : Nat) (f : Die → Die) : (s.modDie d f).readAhead = s.readAhead := rfl
@[simp] theorem State.modDie_running (s : State) (d : Nat) (f : Die → Die) : (s.modDie d f).running = s.running := rfl
@[simp] theorem State.modDie_watches (s : State) (d : Nat) (f : Die → Die) : (s.modDie d f).watches = s.watches := rfl
@[simp] theorem State.modDie_mem (s : State) (d : Nat) (f : Die → Die) : (s.modDie d f).mem = s.mem := rfl
@[simp] theorem State.modDie_seals (s : State) (d : Nat) (f : Die → Die) : (s.modDie d f).seals = s.seals := rfl
@[simp] theorem State.modDie_poc (s : State) (d : Nat) (f : Die → Die) : (s.modDie d f).poc = s.poc := rfl
@[simp] theorem State.modDie_walks (s : State) (d : Nat) (f : Die → Die) : (s.modDie d f).walks = s.walks := rfl
@[simp] theorem State.modDie_rods (s : State) (d : Nat) (f : Die → Die) : (s.modDie d f).rods = s.rods := rfl
@[simp] theorem State.modDie_rodblk (s : State) (d : Nat) (f : Die → Die) : (s.modDie d f).rodblk = s.rodblk := rfl
@[simp] theorem State.modDie_puts (s : State) (d : Nat) (f : Die → Die) : (s.modDie d f).puts = s.puts := rfl
@[simp] theorem State.modDie_flows (s : State) (d : Nat) (f : Die → Die) : (s.modDie d f).flows = s.flows := rfl
@[simp] theorem State.modDie_recvs (s : State) (d : Nat) (f : Die → Die) : (s.modDie d f).recvs = s.recvs := rfl
@[simp] theorem State.modDie_reorder (s : State) (d : Nat) (f : Die → Die) : (s.modDie d f).reorder = s.reorder := rfl
@[simp] theorem State.modDie_waits (s : State) (d : Nat) (f : Die → Die) : (s.modDie d f).waits = s.waits := rfl
@[simp] theorem State.modDie_getrs (s : State) (d : Nat) (f : Die → Die) : (s.modDie d f).getrs = s.getrs := rfl
@[simp] theorem State.modDie_ureads (s : State) (d : Nat) (f : Die → Die) : (s.modDie d f).ureads = s.ureads := rfl
@[simp] theorem State.modDie_peers (s : State) (d : Nat) (f : Die → Die) : (s.modDie d f).peers = s.peers := rfl
@[simp] theorem State.modDie_halves (s : State) (d : Nat) (f : Die → Die) : (s.modDie d f).halves = s.halves := rfl
@[simp] theorem State.modDie_held (s : State) (d : Nat) (f : Die → Die) : (s.modDie d f).held = s.held := rfl
@[simp] theorem State.modDie_deferred (s : State) (d : Nat) (f : Die → Die) : (s.modDie d f).deferred = s.deferred := rfl
@[simp] theorem State.modDie_graphs (s : State) (d : Nat) (f : Die → Die) : (s.modDie d f).graphs = s.graphs := rfl
@[simp] theorem State.modDie_xalls (s : State) (d : Nat) (f : Die → Die) : (s.modDie d f).xalls = s.xalls := rfl
@[simp] theorem State.modDie_saves (s : State) (d : Nat) (f : Die → Die) : (s.modDie d f).saves = s.saves := rfl
@[simp] theorem State.modDie_presetPart (s : State) (d : Nat) (f : Die → Die) : (s.modDie d f).presetPart = s.presetPart := rfl
@[simp] theorem State.modDie_presetBusy (s : State) (d : Nat) (f : Die → Die) : (s.modDie d f).presetBusy = s.presetBusy := rfl
@[simp] theorem State.modDie_resets (s : State) (d : Nat) (f : Die → Die) : (s.modDie d f).resets = s.resets := rfl
@[simp] theorem State.modDie_presetCause (s : State) (d : Nat) (f : Die → Die) : (s.modDie d f).presetCause = s.presetCause := rfl
@[simp] theorem State.modDie_pfaults (s : State) (d : Nat) (f : Die → Die) : (s.modDie d f).pfaults = s.pfaults := rfl
@[simp] theorem State.modDie_board (s : State) (d : Nat) (f : Die → Die) : (s.modDie d f).board = s.board := rfl

/-! The fields that modPart leaves. -/
@[simp] theorem State.modPart_clock (s : State) (p : Nat) (f : Part → Part) : (s.modPart p f).clock = s.clock := rfl
@[simp] theorem State.modPart_cur (s : State) (p : Nat) (f : Part → Part) : (s.modPart p f).cur = s.cur := rfl
@[simp] theorem State.modPart_agenda (s : State) (p : Nat) (f : Part → Part) : (s.modPart p f).agenda = s.agenda := rfl
@[simp] theorem State.modPart_serial (s : State) (p : Nat) (f : Part → Part) : (s.modPart p f).serial = s.serial := rfl
@[simp] theorem State.modPart_draws (s : State) (p : Nat) (f : Part → Part) : (s.modPart p f).draws = s.draws := rfl
@[simp] theorem State.modPart_cores (s : State) (p : Nat) (f : Part → Part) : (s.modPart p f).cores = s.cores := rfl
@[simp] theorem State.modPart_clusters (s : State) (p : Nat) (f : Part → Part) : (s.modPart p f).clusters = s.clusters := rfl
@[simp] theorem State.modPart_dies (s : State) (p : Nat) (f : Part → Part) : (s.modPart p f).dies = s.dies := rfl
@[simp] theorem State.modPart_jobs (s : State) (p : Nat) (f : Part → Part) : (s.modPart p f).jobs = s.jobs := rfl
@[simp] theorem State.modPart_phases (s : State) (p : Nat) (f : Part → Part) : (s.modPart p f).phases = s.phases := rfl
@[simp] theorem State.modPart_freed (s : State) (p : Nat) (f : Part → Part) : (s.modPart p f).freed = s.freed := rfl
@[simp] theorem State.modPart_launches (s : State) (p : Nat) (f : Part → Part) : (s.modPart p f).launches = s.launches := rfl
@[simp] theorem State.modPart_seedings (s : State) (p : Nat) (f : Part → Part) : (s.modPart p f).seedings = s.seedings := rfl
@[simp] theorem State.modPart_mesh (s : State) (p : Nat) (f : Part → Part) : (s.modPart p f).mesh = s.mesh := rfl
@[simp] theorem State.modPart_acks (s : State) (p : Nat) (f : Part → Part) : (s.modPart p f).acks = s.acks := rfl
@[simp] theorem State.modPart_egress (s : State) (p : Nat) (f : Part → Part) : (s.modPart p f).egress = s.egress := rfl
@[simp] theorem State.modPart_queues (s : State) (p : Nat) (f : Part → Part) : (s.modPart p f).queues = s.queues := rfl
@[simp] theorem State.modPart_notices (s : State) (p : Nat) (f : Part → Part) : (s.modPart p f).notices = s.notices := rfl
@[simp] theorem State.modPart_placing (s : State) (p : Nat) (f : Part → Part) : (s.modPart p f).placing = s.placing := rfl
@[simp] theorem State.modPart_readAhead (s : State) (p : Nat) (f : Part → Part) : (s.modPart p f).readAhead = s.readAhead := rfl
@[simp] theorem State.modPart_running (s : State) (p : Nat) (f : Part → Part) : (s.modPart p f).running = s.running := rfl
@[simp] theorem State.modPart_watches (s : State) (p : Nat) (f : Part → Part) : (s.modPart p f).watches = s.watches := rfl
@[simp] theorem State.modPart_mem (s : State) (p : Nat) (f : Part → Part) : (s.modPart p f).mem = s.mem := rfl
@[simp] theorem State.modPart_seals (s : State) (p : Nat) (f : Part → Part) : (s.modPart p f).seals = s.seals := rfl
@[simp] theorem State.modPart_poc (s : State) (p : Nat) (f : Part → Part) : (s.modPart p f).poc = s.poc := rfl
@[simp] theorem State.modPart_walks (s : State) (p : Nat) (f : Part → Part) : (s.modPart p f).walks = s.walks := rfl
@[simp] theorem State.modPart_rods (s : State) (p : Nat) (f : Part → Part) : (s.modPart p f).rods = s.rods := rfl
@[simp] theorem State.modPart_rodblk (s : State) (p : Nat) (f : Part → Part) : (s.modPart p f).rodblk = s.rodblk := rfl
@[simp] theorem State.modPart_puts (s : State) (p : Nat) (f : Part → Part) : (s.modPart p f).puts = s.puts := rfl
@[simp] theorem State.modPart_flows (s : State) (p : Nat) (f : Part → Part) : (s.modPart p f).flows = s.flows := rfl
@[simp] theorem State.modPart_recvs (s : State) (p : Nat) (f : Part → Part) : (s.modPart p f).recvs = s.recvs := rfl
@[simp] theorem State.modPart_reorder (s : State) (p : Nat) (f : Part → Part) : (s.modPart p f).reorder = s.reorder := rfl
@[simp] theorem State.modPart_waits (s : State) (p : Nat) (f : Part → Part) : (s.modPart p f).waits = s.waits := rfl
@[simp] theorem State.modPart_getrs (s : State) (p : Nat) (f : Part → Part) : (s.modPart p f).getrs = s.getrs := rfl
@[simp] theorem State.modPart_ureads (s : State) (p : Nat) (f : Part → Part) : (s.modPart p f).ureads = s.ureads := rfl
@[simp] theorem State.modPart_peers (s : State) (p : Nat) (f : Part → Part) : (s.modPart p f).peers = s.peers := rfl
@[simp] theorem State.modPart_halves (s : State) (p : Nat) (f : Part → Part) : (s.modPart p f).halves = s.halves := rfl
@[simp] theorem State.modPart_held (s : State) (p : Nat) (f : Part → Part) : (s.modPart p f).held = s.held := rfl
@[simp] theorem State.modPart_deferred (s : State) (p : Nat) (f : Part → Part) : (s.modPart p f).deferred = s.deferred := rfl
@[simp] theorem State.modPart_graphs (s : State) (p : Nat) (f : Part → Part) : (s.modPart p f).graphs = s.graphs := rfl
@[simp] theorem State.modPart_xalls (s : State) (p : Nat) (f : Part → Part) : (s.modPart p f).xalls = s.xalls := rfl
@[simp] theorem State.modPart_saves (s : State) (p : Nat) (f : Part → Part) : (s.modPart p f).saves = s.saves := rfl
@[simp] theorem State.modPart_presetPart (s : State) (p : Nat) (f : Part → Part) : (s.modPart p f).presetPart = s.presetPart := rfl
@[simp] theorem State.modPart_presetBusy (s : State) (p : Nat) (f : Part → Part) : (s.modPart p f).presetBusy = s.presetBusy := rfl
@[simp] theorem State.modPart_resets (s : State) (p : Nat) (f : Part → Part) : (s.modPart p f).resets = s.resets := rfl
@[simp] theorem State.modPart_presetCause (s : State) (p : Nat) (f : Part → Part) : (s.modPart p f).presetCause = s.presetCause := rfl
@[simp] theorem State.modPart_pfaults (s : State) (p : Nat) (f : Part → Part) : (s.modPart p f).pfaults = s.pfaults := rfl
@[simp] theorem State.modPart_board (s : State) (p : Nat) (f : Part → Part) : (s.modPart p f).board = s.board := rfl

/-! The fields that modRod leaves. -/
@[simp] theorem State.modRod_clock (s : State) (r : Nat) (f : Rod → Rod) : (s.modRod r f).clock = s.clock := rfl
@[simp] theorem State.modRod_cur (s : State) (r : Nat) (f : Rod → Rod) : (s.modRod r f).cur = s.cur := rfl
@[simp] theorem State.modRod_agenda (s : State) (r : Nat) (f : Rod → Rod) : (s.modRod r f).agenda = s.agenda := rfl
@[simp] theorem State.modRod_serial (s : State) (r : Nat) (f : Rod → Rod) : (s.modRod r f).serial = s.serial := rfl
@[simp] theorem State.modRod_draws (s : State) (r : Nat) (f : Rod → Rod) : (s.modRod r f).draws = s.draws := rfl
@[simp] theorem State.modRod_cores (s : State) (r : Nat) (f : Rod → Rod) : (s.modRod r f).cores = s.cores := rfl
@[simp] theorem State.modRod_clusters (s : State) (r : Nat) (f : Rod → Rod) : (s.modRod r f).clusters = s.clusters := rfl
@[simp] theorem State.modRod_dies (s : State) (r : Nat) (f : Rod → Rod) : (s.modRod r f).dies = s.dies := rfl
@[simp] theorem State.modRod_parts (s : State) (r : Nat) (f : Rod → Rod) : (s.modRod r f).parts = s.parts := rfl
@[simp] theorem State.modRod_jobs (s : State) (r : Nat) (f : Rod → Rod) : (s.modRod r f).jobs = s.jobs := rfl
@[simp] theorem State.modRod_phases (s : State) (r : Nat) (f : Rod → Rod) : (s.modRod r f).phases = s.phases := rfl
@[simp] theorem State.modRod_freed (s : State) (r : Nat) (f : Rod → Rod) : (s.modRod r f).freed = s.freed := rfl
@[simp] theorem State.modRod_launches (s : State) (r : Nat) (f : Rod → Rod) : (s.modRod r f).launches = s.launches := rfl
@[simp] theorem State.modRod_seedings (s : State) (r : Nat) (f : Rod → Rod) : (s.modRod r f).seedings = s.seedings := rfl
@[simp] theorem State.modRod_mesh (s : State) (r : Nat) (f : Rod → Rod) : (s.modRod r f).mesh = s.mesh := rfl
@[simp] theorem State.modRod_acks (s : State) (r : Nat) (f : Rod → Rod) : (s.modRod r f).acks = s.acks := rfl
@[simp] theorem State.modRod_egress (s : State) (r : Nat) (f : Rod → Rod) : (s.modRod r f).egress = s.egress := rfl
@[simp] theorem State.modRod_queues (s : State) (r : Nat) (f : Rod → Rod) : (s.modRod r f).queues = s.queues := rfl
@[simp] theorem State.modRod_notices (s : State) (r : Nat) (f : Rod → Rod) : (s.modRod r f).notices = s.notices := rfl
@[simp] theorem State.modRod_placing (s : State) (r : Nat) (f : Rod → Rod) : (s.modRod r f).placing = s.placing := rfl
@[simp] theorem State.modRod_readAhead (s : State) (r : Nat) (f : Rod → Rod) : (s.modRod r f).readAhead = s.readAhead := rfl
@[simp] theorem State.modRod_running (s : State) (r : Nat) (f : Rod → Rod) : (s.modRod r f).running = s.running := rfl
@[simp] theorem State.modRod_watches (s : State) (r : Nat) (f : Rod → Rod) : (s.modRod r f).watches = s.watches := rfl
@[simp] theorem State.modRod_mem (s : State) (r : Nat) (f : Rod → Rod) : (s.modRod r f).mem = s.mem := rfl
@[simp] theorem State.modRod_seals (s : State) (r : Nat) (f : Rod → Rod) : (s.modRod r f).seals = s.seals := rfl
@[simp] theorem State.modRod_poc (s : State) (r : Nat) (f : Rod → Rod) : (s.modRod r f).poc = s.poc := rfl
@[simp] theorem State.modRod_walks (s : State) (r : Nat) (f : Rod → Rod) : (s.modRod r f).walks = s.walks := rfl
@[simp] theorem State.modRod_rodblk (s : State) (r : Nat) (f : Rod → Rod) : (s.modRod r f).rodblk = s.rodblk := rfl
@[simp] theorem State.modRod_puts (s : State) (r : Nat) (f : Rod → Rod) : (s.modRod r f).puts = s.puts := rfl
@[simp] theorem State.modRod_flows (s : State) (r : Nat) (f : Rod → Rod) : (s.modRod r f).flows = s.flows := rfl
@[simp] theorem State.modRod_recvs (s : State) (r : Nat) (f : Rod → Rod) : (s.modRod r f).recvs = s.recvs := rfl
@[simp] theorem State.modRod_reorder (s : State) (r : Nat) (f : Rod → Rod) : (s.modRod r f).reorder = s.reorder := rfl
@[simp] theorem State.modRod_waits (s : State) (r : Nat) (f : Rod → Rod) : (s.modRod r f).waits = s.waits := rfl
@[simp] theorem State.modRod_getrs (s : State) (r : Nat) (f : Rod → Rod) : (s.modRod r f).getrs = s.getrs := rfl
@[simp] theorem State.modRod_ureads (s : State) (r : Nat) (f : Rod → Rod) : (s.modRod r f).ureads = s.ureads := rfl
@[simp] theorem State.modRod_peers (s : State) (r : Nat) (f : Rod → Rod) : (s.modRod r f).peers = s.peers := rfl
@[simp] theorem State.modRod_halves (s : State) (r : Nat) (f : Rod → Rod) : (s.modRod r f).halves = s.halves := rfl
@[simp] theorem State.modRod_held (s : State) (r : Nat) (f : Rod → Rod) : (s.modRod r f).held = s.held := rfl
@[simp] theorem State.modRod_deferred (s : State) (r : Nat) (f : Rod → Rod) : (s.modRod r f).deferred = s.deferred := rfl
@[simp] theorem State.modRod_graphs (s : State) (r : Nat) (f : Rod → Rod) : (s.modRod r f).graphs = s.graphs := rfl
@[simp] theorem State.modRod_xalls (s : State) (r : Nat) (f : Rod → Rod) : (s.modRod r f).xalls = s.xalls := rfl
@[simp] theorem State.modRod_saves (s : State) (r : Nat) (f : Rod → Rod) : (s.modRod r f).saves = s.saves := rfl
@[simp] theorem State.modRod_presetPart (s : State) (r : Nat) (f : Rod → Rod) : (s.modRod r f).presetPart = s.presetPart := rfl
@[simp] theorem State.modRod_presetBusy (s : State) (r : Nat) (f : Rod → Rod) : (s.modRod r f).presetBusy = s.presetBusy := rfl
@[simp] theorem State.modRod_resets (s : State) (r : Nat) (f : Rod → Rod) : (s.modRod r f).resets = s.resets := rfl
@[simp] theorem State.modRod_presetCause (s : State) (r : Nat) (f : Rod → Rod) : (s.modRod r f).presetCause = s.presetCause := rfl
@[simp] theorem State.modRod_pfaults (s : State) (r : Nat) (f : Rod → Rod) : (s.modRod r f).pfaults = s.pfaults := rfl
@[simp] theorem State.modRod_board (s : State) (r : Nat) (f : Rod → Rod) : (s.modRod r f).board = s.board := rfl

/-! The fields that begin leaves. -/
@[simp] theorem State.begin_clock (s : State) : (s.begin).clock = s.clock := rfl
@[simp] theorem State.begin_agenda (s : State) : (s.begin).agenda = s.agenda := rfl
@[simp] theorem State.begin_serial (s : State) : (s.begin).serial = s.serial := rfl
@[simp] theorem State.begin_draws (s : State) : (s.begin).draws = s.draws := rfl
@[simp] theorem State.begin_cores (s : State) : (s.begin).cores = s.cores := rfl
@[simp] theorem State.begin_clusters (s : State) : (s.begin).clusters = s.clusters := rfl
@[simp] theorem State.begin_dies (s : State) : (s.begin).dies = s.dies := rfl
@[simp] theorem State.begin_parts (s : State) : (s.begin).parts = s.parts := rfl
@[simp] theorem State.begin_jobs (s : State) : (s.begin).jobs = s.jobs := rfl
@[simp] theorem State.begin_phases (s : State) : (s.begin).phases = s.phases := rfl
@[simp] theorem State.begin_freed (s : State) : (s.begin).freed = s.freed := rfl
@[simp] theorem State.begin_launches (s : State) : (s.begin).launches = s.launches := rfl
@[simp] theorem State.begin_seedings (s : State) : (s.begin).seedings = s.seedings := rfl
@[simp] theorem State.begin_mesh (s : State) : (s.begin).mesh = s.mesh := rfl
@[simp] theorem State.begin_acks (s : State) : (s.begin).acks = s.acks := rfl
@[simp] theorem State.begin_egress (s : State) : (s.begin).egress = s.egress := rfl
@[simp] theorem State.begin_queues (s : State) : (s.begin).queues = s.queues := rfl
@[simp] theorem State.begin_notices (s : State) : (s.begin).notices = s.notices := rfl
@[simp] theorem State.begin_placing (s : State) : (s.begin).placing = s.placing := rfl
@[simp] theorem State.begin_readAhead (s : State) : (s.begin).readAhead = s.readAhead := rfl
@[simp] theorem State.begin_running (s : State) : (s.begin).running = s.running := rfl
@[simp] theorem State.begin_watches (s : State) : (s.begin).watches = s.watches := rfl
@[simp] theorem State.begin_mem (s : State) : (s.begin).mem = s.mem := rfl
@[simp] theorem State.begin_seals (s : State) : (s.begin).seals = s.seals := rfl
@[simp] theorem State.begin_poc (s : State) : (s.begin).poc = s.poc := rfl
@[simp] theorem State.begin_walks (s : State) : (s.begin).walks = s.walks := rfl
@[simp] theorem State.begin_rods (s : State) : (s.begin).rods = s.rods := rfl
@[simp] theorem State.begin_rodblk (s : State) : (s.begin).rodblk = s.rodblk := rfl
@[simp] theorem State.begin_puts (s : State) : (s.begin).puts = s.puts := rfl
@[simp] theorem State.begin_flows (s : State) : (s.begin).flows = s.flows := rfl
@[simp] theorem State.begin_recvs (s : State) : (s.begin).recvs = s.recvs := rfl
@[simp] theorem State.begin_reorder (s : State) : (s.begin).reorder = s.reorder := rfl
@[simp] theorem State.begin_waits (s : State) : (s.begin).waits = s.waits := rfl
@[simp] theorem State.begin_getrs (s : State) : (s.begin).getrs = s.getrs := rfl
@[simp] theorem State.begin_ureads (s : State) : (s.begin).ureads = s.ureads := rfl
@[simp] theorem State.begin_peers (s : State) : (s.begin).peers = s.peers := rfl
@[simp] theorem State.begin_halves (s : State) : (s.begin).halves = s.halves := rfl
@[simp] theorem State.begin_held (s : State) : (s.begin).held = s.held := rfl
@[simp] theorem State.begin_deferred (s : State) : (s.begin).deferred = s.deferred := rfl
@[simp] theorem State.begin_graphs (s : State) : (s.begin).graphs = s.graphs := rfl
@[simp] theorem State.begin_xalls (s : State) : (s.begin).xalls = s.xalls := rfl
@[simp] theorem State.begin_saves (s : State) : (s.begin).saves = s.saves := rfl
@[simp] theorem State.begin_presetPart (s : State) : (s.begin).presetPart = s.presetPart := rfl
@[simp] theorem State.begin_presetBusy (s : State) : (s.begin).presetBusy = s.presetBusy := rfl
@[simp] theorem State.begin_resets (s : State) : (s.begin).resets = s.resets := rfl
@[simp] theorem State.begin_presetCause (s : State) : (s.begin).presetCause = s.presetCause := rfl
@[simp] theorem State.begin_pfaults (s : State) : (s.begin).pfaults = s.pfaults := rfl
@[simp] theorem State.begin_board (s : State) : (s.begin).board = s.board := rfl

/-! The fields that rotate leaves. -/
@[simp] theorem State.rotate_clock (s : State) : (s.rotate).clock = s.clock := rfl
@[simp] theorem State.rotate_cur (s : State) : (s.rotate).cur = s.cur := rfl
@[simp] theorem State.rotate_agenda (s : State) : (s.rotate).agenda = s.agenda := rfl
@[simp] theorem State.rotate_serial (s : State) : (s.rotate).serial = s.serial := rfl
@[simp] theorem State.rotate_draws (s : State) : (s.rotate).draws = s.draws := rfl
@[simp] theorem State.rotate_clusters (s : State) : (s.rotate).clusters = s.clusters := rfl
@[simp] theorem State.rotate_dies (s : State) : (s.rotate).dies = s.dies := rfl
@[simp] theorem State.rotate_parts (s : State) : (s.rotate).parts = s.parts := rfl
@[simp] theorem State.rotate_jobs (s : State) : (s.rotate).jobs = s.jobs := rfl
@[simp] theorem State.rotate_phases (s : State) : (s.rotate).phases = s.phases := rfl
@[simp] theorem State.rotate_freed (s : State) : (s.rotate).freed = s.freed := rfl
@[simp] theorem State.rotate_launches (s : State) : (s.rotate).launches = s.launches := rfl
@[simp] theorem State.rotate_seedings (s : State) : (s.rotate).seedings = s.seedings := rfl
@[simp] theorem State.rotate_mesh (s : State) : (s.rotate).mesh = s.mesh := rfl
@[simp] theorem State.rotate_acks (s : State) : (s.rotate).acks = s.acks := rfl
@[simp] theorem State.rotate_egress (s : State) : (s.rotate).egress = s.egress := rfl
@[simp] theorem State.rotate_queues (s : State) : (s.rotate).queues = s.queues := rfl
@[simp] theorem State.rotate_notices (s : State) : (s.rotate).notices = s.notices := rfl
@[simp] theorem State.rotate_placing (s : State) : (s.rotate).placing = s.placing := rfl
@[simp] theorem State.rotate_readAhead (s : State) : (s.rotate).readAhead = s.readAhead := rfl
@[simp] theorem State.rotate_running (s : State) : (s.rotate).running = s.running := rfl
@[simp] theorem State.rotate_watches (s : State) : (s.rotate).watches = s.watches := rfl
@[simp] theorem State.rotate_mem (s : State) : (s.rotate).mem = s.mem := rfl
@[simp] theorem State.rotate_seals (s : State) : (s.rotate).seals = s.seals := rfl
@[simp] theorem State.rotate_poc (s : State) : (s.rotate).poc = s.poc := rfl
@[simp] theorem State.rotate_walks (s : State) : (s.rotate).walks = s.walks := rfl
@[simp] theorem State.rotate_rods (s : State) : (s.rotate).rods = s.rods := rfl
@[simp] theorem State.rotate_rodblk (s : State) : (s.rotate).rodblk = s.rodblk := rfl
@[simp] theorem State.rotate_puts (s : State) : (s.rotate).puts = s.puts := rfl
@[simp] theorem State.rotate_flows (s : State) : (s.rotate).flows = s.flows := rfl
@[simp] theorem State.rotate_recvs (s : State) : (s.rotate).recvs = s.recvs := rfl
@[simp] theorem State.rotate_reorder (s : State) : (s.rotate).reorder = s.reorder := rfl
@[simp] theorem State.rotate_waits (s : State) : (s.rotate).waits = s.waits := rfl
@[simp] theorem State.rotate_getrs (s : State) : (s.rotate).getrs = s.getrs := rfl
@[simp] theorem State.rotate_ureads (s : State) : (s.rotate).ureads = s.ureads := rfl
@[simp] theorem State.rotate_peers (s : State) : (s.rotate).peers = s.peers := rfl
@[simp] theorem State.rotate_halves (s : State) : (s.rotate).halves = s.halves := rfl
@[simp] theorem State.rotate_held (s : State) : (s.rotate).held = s.held := rfl
@[simp] theorem State.rotate_deferred (s : State) : (s.rotate).deferred = s.deferred := rfl
@[simp] theorem State.rotate_graphs (s : State) : (s.rotate).graphs = s.graphs := rfl
@[simp] theorem State.rotate_xalls (s : State) : (s.rotate).xalls = s.xalls := rfl
@[simp] theorem State.rotate_saves (s : State) : (s.rotate).saves = s.saves := rfl
@[simp] theorem State.rotate_presetPart (s : State) : (s.rotate).presetPart = s.presetPart := rfl
@[simp] theorem State.rotate_presetBusy (s : State) : (s.rotate).presetBusy = s.presetBusy := rfl
@[simp] theorem State.rotate_resets (s : State) : (s.rotate).resets = s.resets := rfl
@[simp] theorem State.rotate_presetCause (s : State) : (s.rotate).presetCause = s.presetCause := rfl
@[simp] theorem State.rotate_pfaults (s : State) : (s.rotate).pfaults = s.pfaults := rfl
@[simp] theorem State.rotate_board (s : State) : (s.rotate).board = s.board := rfl

/-! The fields that toMesh leaves. -/
@[simp] theorem State.toMesh_clock (s : State) (m : Msg) (c : Nat) (w : Sender) : (s.toMesh m c w).clock = s.clock := rfl
@[simp] theorem State.toMesh_cur (s : State) (m : Msg) (c : Nat) (w : Sender) : (s.toMesh m c w).cur = s.cur := rfl
@[simp] theorem State.toMesh_agenda (s : State) (m : Msg) (c : Nat) (w : Sender) : (s.toMesh m c w).agenda = s.agenda := rfl
@[simp] theorem State.toMesh_serial (s : State) (m : Msg) (c : Nat) (w : Sender) : (s.toMesh m c w).serial = s.serial := rfl
@[simp] theorem State.toMesh_draws (s : State) (m : Msg) (c : Nat) (w : Sender) : (s.toMesh m c w).draws = s.draws := rfl
@[simp] theorem State.toMesh_cores (s : State) (m : Msg) (c : Nat) (w : Sender) : (s.toMesh m c w).cores = s.cores := rfl
@[simp] theorem State.toMesh_clusters (s : State) (m : Msg) (c : Nat) (w : Sender) : (s.toMesh m c w).clusters = s.clusters := rfl
@[simp] theorem State.toMesh_dies (s : State) (m : Msg) (c : Nat) (w : Sender) : (s.toMesh m c w).dies = s.dies := rfl
@[simp] theorem State.toMesh_parts (s : State) (m : Msg) (c : Nat) (w : Sender) : (s.toMesh m c w).parts = s.parts := rfl
@[simp] theorem State.toMesh_jobs (s : State) (m : Msg) (c : Nat) (w : Sender) : (s.toMesh m c w).jobs = s.jobs := rfl
@[simp] theorem State.toMesh_phases (s : State) (m : Msg) (c : Nat) (w : Sender) : (s.toMesh m c w).phases = s.phases := rfl
@[simp] theorem State.toMesh_freed (s : State) (m : Msg) (c : Nat) (w : Sender) : (s.toMesh m c w).freed = s.freed := rfl
@[simp] theorem State.toMesh_launches (s : State) (m : Msg) (c : Nat) (w : Sender) : (s.toMesh m c w).launches = s.launches := rfl
@[simp] theorem State.toMesh_seedings (s : State) (m : Msg) (c : Nat) (w : Sender) : (s.toMesh m c w).seedings = s.seedings := rfl
@[simp] theorem State.toMesh_acks (s : State) (m : Msg) (c : Nat) (w : Sender) : (s.toMesh m c w).acks = s.acks := rfl
@[simp] theorem State.toMesh_egress (s : State) (m : Msg) (c : Nat) (w : Sender) : (s.toMesh m c w).egress = s.egress := rfl
@[simp] theorem State.toMesh_queues (s : State) (m : Msg) (c : Nat) (w : Sender) : (s.toMesh m c w).queues = s.queues := rfl
@[simp] theorem State.toMesh_notices (s : State) (m : Msg) (c : Nat) (w : Sender) : (s.toMesh m c w).notices = s.notices := rfl
@[simp] theorem State.toMesh_placing (s : State) (m : Msg) (c : Nat) (w : Sender) : (s.toMesh m c w).placing = s.placing := rfl
@[simp] theorem State.toMesh_readAhead (s : State) (m : Msg) (c : Nat) (w : Sender) : (s.toMesh m c w).readAhead = s.readAhead := rfl
@[simp] theorem State.toMesh_running (s : State) (m : Msg) (c : Nat) (w : Sender) : (s.toMesh m c w).running = s.running := rfl
@[simp] theorem State.toMesh_watches (s : State) (m : Msg) (c : Nat) (w : Sender) : (s.toMesh m c w).watches = s.watches := rfl
@[simp] theorem State.toMesh_mem (s : State) (m : Msg) (c : Nat) (w : Sender) : (s.toMesh m c w).mem = s.mem := rfl
@[simp] theorem State.toMesh_seals (s : State) (m : Msg) (c : Nat) (w : Sender) : (s.toMesh m c w).seals = s.seals := rfl
@[simp] theorem State.toMesh_poc (s : State) (m : Msg) (c : Nat) (w : Sender) : (s.toMesh m c w).poc = s.poc := rfl
@[simp] theorem State.toMesh_walks (s : State) (m : Msg) (c : Nat) (w : Sender) : (s.toMesh m c w).walks = s.walks := rfl
@[simp] theorem State.toMesh_rods (s : State) (m : Msg) (c : Nat) (w : Sender) : (s.toMesh m c w).rods = s.rods := rfl
@[simp] theorem State.toMesh_rodblk (s : State) (m : Msg) (c : Nat) (w : Sender) : (s.toMesh m c w).rodblk = s.rodblk := rfl
@[simp] theorem State.toMesh_puts (s : State) (m : Msg) (c : Nat) (w : Sender) : (s.toMesh m c w).puts = s.puts := rfl
@[simp] theorem State.toMesh_flows (s : State) (m : Msg) (c : Nat) (w : Sender) : (s.toMesh m c w).flows = s.flows := rfl
@[simp] theorem State.toMesh_recvs (s : State) (m : Msg) (c : Nat) (w : Sender) : (s.toMesh m c w).recvs = s.recvs := rfl
@[simp] theorem State.toMesh_reorder (s : State) (m : Msg) (c : Nat) (w : Sender) : (s.toMesh m c w).reorder = s.reorder := rfl
@[simp] theorem State.toMesh_waits (s : State) (m : Msg) (c : Nat) (w : Sender) : (s.toMesh m c w).waits = s.waits := rfl
@[simp] theorem State.toMesh_getrs (s : State) (m : Msg) (c : Nat) (w : Sender) : (s.toMesh m c w).getrs = s.getrs := rfl
@[simp] theorem State.toMesh_ureads (s : State) (m : Msg) (c : Nat) (w : Sender) : (s.toMesh m c w).ureads = s.ureads := rfl
@[simp] theorem State.toMesh_peers (s : State) (m : Msg) (c : Nat) (w : Sender) : (s.toMesh m c w).peers = s.peers := rfl
@[simp] theorem State.toMesh_halves (s : State) (m : Msg) (c : Nat) (w : Sender) : (s.toMesh m c w).halves = s.halves := rfl
@[simp] theorem State.toMesh_held (s : State) (m : Msg) (c : Nat) (w : Sender) : (s.toMesh m c w).held = s.held := rfl
@[simp] theorem State.toMesh_deferred (s : State) (m : Msg) (c : Nat) (w : Sender) : (s.toMesh m c w).deferred = s.deferred := rfl
@[simp] theorem State.toMesh_graphs (s : State) (m : Msg) (c : Nat) (w : Sender) : (s.toMesh m c w).graphs = s.graphs := rfl
@[simp] theorem State.toMesh_xalls (s : State) (m : Msg) (c : Nat) (w : Sender) : (s.toMesh m c w).xalls = s.xalls := rfl
@[simp] theorem State.toMesh_saves (s : State) (m : Msg) (c : Nat) (w : Sender) : (s.toMesh m c w).saves = s.saves := rfl
@[simp] theorem State.toMesh_presetPart (s : State) (m : Msg) (c : Nat) (w : Sender) : (s.toMesh m c w).presetPart = s.presetPart := rfl
@[simp] theorem State.toMesh_presetBusy (s : State) (m : Msg) (c : Nat) (w : Sender) : (s.toMesh m c w).presetBusy = s.presetBusy := rfl
@[simp] theorem State.toMesh_resets (s : State) (m : Msg) (c : Nat) (w : Sender) : (s.toMesh m c w).resets = s.resets := rfl
@[simp] theorem State.toMesh_presetCause (s : State) (m : Msg) (c : Nat) (w : Sender) : (s.toMesh m c w).presetCause = s.presetCause := rfl
@[simp] theorem State.toMesh_pfaults (s : State) (m : Msg) (c : Nat) (w : Sender) : (s.toMesh m c w).pfaults = s.pfaults := rfl
@[simp] theorem State.toMesh_board (s : State) (m : Msg) (c : Nat) (w : Sender) : (s.toMesh m c w).board = s.board := rfl

/-! The fields that modLaunch leaves. -/
@[simp] theorem State.modLaunch_clock (s : State) (k : LKey) (f : Launch → Launch) : (s.modLaunch k f).clock = s.clock := rfl
@[simp] theorem State.modLaunch_cur (s : State) (k : LKey) (f : Launch → Launch) : (s.modLaunch k f).cur = s.cur := rfl
@[simp] theorem State.modLaunch_agenda (s : State) (k : LKey) (f : Launch → Launch) : (s.modLaunch k f).agenda = s.agenda := rfl
@[simp] theorem State.modLaunch_serial (s : State) (k : LKey) (f : Launch → Launch) : (s.modLaunch k f).serial = s.serial := rfl
@[simp] theorem State.modLaunch_draws (s : State) (k : LKey) (f : Launch → Launch) : (s.modLaunch k f).draws = s.draws := rfl
@[simp] theorem State.modLaunch_cores (s : State) (k : LKey) (f : Launch → Launch) : (s.modLaunch k f).cores = s.cores := rfl
@[simp] theorem State.modLaunch_clusters (s : State) (k : LKey) (f : Launch → Launch) : (s.modLaunch k f).clusters = s.clusters := rfl
@[simp] theorem State.modLaunch_dies (s : State) (k : LKey) (f : Launch → Launch) : (s.modLaunch k f).dies = s.dies := rfl
@[simp] theorem State.modLaunch_parts (s : State) (k : LKey) (f : Launch → Launch) : (s.modLaunch k f).parts = s.parts := rfl
@[simp] theorem State.modLaunch_jobs (s : State) (k : LKey) (f : Launch → Launch) : (s.modLaunch k f).jobs = s.jobs := rfl
@[simp] theorem State.modLaunch_phases (s : State) (k : LKey) (f : Launch → Launch) : (s.modLaunch k f).phases = s.phases := rfl
@[simp] theorem State.modLaunch_freed (s : State) (k : LKey) (f : Launch → Launch) : (s.modLaunch k f).freed = s.freed := rfl
@[simp] theorem State.modLaunch_seedings (s : State) (k : LKey) (f : Launch → Launch) : (s.modLaunch k f).seedings = s.seedings := rfl
@[simp] theorem State.modLaunch_mesh (s : State) (k : LKey) (f : Launch → Launch) : (s.modLaunch k f).mesh = s.mesh := rfl
@[simp] theorem State.modLaunch_acks (s : State) (k : LKey) (f : Launch → Launch) : (s.modLaunch k f).acks = s.acks := rfl
@[simp] theorem State.modLaunch_egress (s : State) (k : LKey) (f : Launch → Launch) : (s.modLaunch k f).egress = s.egress := rfl
@[simp] theorem State.modLaunch_queues (s : State) (k : LKey) (f : Launch → Launch) : (s.modLaunch k f).queues = s.queues := rfl
@[simp] theorem State.modLaunch_notices (s : State) (k : LKey) (f : Launch → Launch) : (s.modLaunch k f).notices = s.notices := rfl
@[simp] theorem State.modLaunch_placing (s : State) (k : LKey) (f : Launch → Launch) : (s.modLaunch k f).placing = s.placing := rfl
@[simp] theorem State.modLaunch_readAhead (s : State) (k : LKey) (f : Launch → Launch) : (s.modLaunch k f).readAhead = s.readAhead := rfl
@[simp] theorem State.modLaunch_running (s : State) (k : LKey) (f : Launch → Launch) : (s.modLaunch k f).running = s.running := rfl
@[simp] theorem State.modLaunch_watches (s : State) (k : LKey) (f : Launch → Launch) : (s.modLaunch k f).watches = s.watches := rfl
@[simp] theorem State.modLaunch_mem (s : State) (k : LKey) (f : Launch → Launch) : (s.modLaunch k f).mem = s.mem := rfl
@[simp] theorem State.modLaunch_seals (s : State) (k : LKey) (f : Launch → Launch) : (s.modLaunch k f).seals = s.seals := rfl
@[simp] theorem State.modLaunch_poc (s : State) (k : LKey) (f : Launch → Launch) : (s.modLaunch k f).poc = s.poc := rfl
@[simp] theorem State.modLaunch_walks (s : State) (k : LKey) (f : Launch → Launch) : (s.modLaunch k f).walks = s.walks := rfl
@[simp] theorem State.modLaunch_rods (s : State) (k : LKey) (f : Launch → Launch) : (s.modLaunch k f).rods = s.rods := rfl
@[simp] theorem State.modLaunch_rodblk (s : State) (k : LKey) (f : Launch → Launch) : (s.modLaunch k f).rodblk = s.rodblk := rfl
@[simp] theorem State.modLaunch_puts (s : State) (k : LKey) (f : Launch → Launch) : (s.modLaunch k f).puts = s.puts := rfl
@[simp] theorem State.modLaunch_flows (s : State) (k : LKey) (f : Launch → Launch) : (s.modLaunch k f).flows = s.flows := rfl
@[simp] theorem State.modLaunch_recvs (s : State) (k : LKey) (f : Launch → Launch) : (s.modLaunch k f).recvs = s.recvs := rfl
@[simp] theorem State.modLaunch_reorder (s : State) (k : LKey) (f : Launch → Launch) : (s.modLaunch k f).reorder = s.reorder := rfl
@[simp] theorem State.modLaunch_waits (s : State) (k : LKey) (f : Launch → Launch) : (s.modLaunch k f).waits = s.waits := rfl
@[simp] theorem State.modLaunch_getrs (s : State) (k : LKey) (f : Launch → Launch) : (s.modLaunch k f).getrs = s.getrs := rfl
@[simp] theorem State.modLaunch_ureads (s : State) (k : LKey) (f : Launch → Launch) : (s.modLaunch k f).ureads = s.ureads := rfl
@[simp] theorem State.modLaunch_peers (s : State) (k : LKey) (f : Launch → Launch) : (s.modLaunch k f).peers = s.peers := rfl
@[simp] theorem State.modLaunch_halves (s : State) (k : LKey) (f : Launch → Launch) : (s.modLaunch k f).halves = s.halves := rfl
@[simp] theorem State.modLaunch_held (s : State) (k : LKey) (f : Launch → Launch) : (s.modLaunch k f).held = s.held := rfl
@[simp] theorem State.modLaunch_deferred (s : State) (k : LKey) (f : Launch → Launch) : (s.modLaunch k f).deferred = s.deferred := rfl
@[simp] theorem State.modLaunch_graphs (s : State) (k : LKey) (f : Launch → Launch) : (s.modLaunch k f).graphs = s.graphs := rfl
@[simp] theorem State.modLaunch_xalls (s : State) (k : LKey) (f : Launch → Launch) : (s.modLaunch k f).xalls = s.xalls := rfl
@[simp] theorem State.modLaunch_saves (s : State) (k : LKey) (f : Launch → Launch) : (s.modLaunch k f).saves = s.saves := rfl
@[simp] theorem State.modLaunch_presetPart (s : State) (k : LKey) (f : Launch → Launch) : (s.modLaunch k f).presetPart = s.presetPart := rfl
@[simp] theorem State.modLaunch_presetBusy (s : State) (k : LKey) (f : Launch → Launch) : (s.modLaunch k f).presetBusy = s.presetBusy := rfl
@[simp] theorem State.modLaunch_resets (s : State) (k : LKey) (f : Launch → Launch) : (s.modLaunch k f).resets = s.resets := rfl
@[simp] theorem State.modLaunch_presetCause (s : State) (k : LKey) (f : Launch → Launch) : (s.modLaunch k f).presetCause = s.presetCause := rfl
@[simp] theorem State.modLaunch_pfaults (s : State) (k : LKey) (f : Launch → Launch) : (s.modLaunch k f).pfaults = s.pfaults := rfl
@[simp] theorem State.modLaunch_board (s : State) (k : LKey) (f : Launch → Launch) : (s.modLaunch k f).board = s.board := rfl

end Sys2Proof.Machine
end

