-- ==== Sys2Proof/Laws/Tab.lean ====
section
/-! SUPPORT. The laws of tables and of byte memory: read after write, and that every memory operation keeps the canonical form. -/

namespace Sys2Proof.Machine

@[simp] theorem Tab.find_set_same {α : Type} (t : Tab α) (n : Nat) (a : α) : Tab.find (Tab.set t n a) n = some a := by
  induction t with
  | nil => simp [Tab.set, Tab.find]
  | cons p t ih =>
    obtain ⟨k, v⟩ := p
    by_cases h : n < k
    · simp [Tab.set, h, Tab.find]
    · by_cases e : n = k
      · simp [Tab.set, e, Tab.find]
      · have e' : ¬k = n := fun h => e h.symm
        simp [Tab.set, h, e, Tab.find, e', ih]

@[simp] theorem Tab.find_set_ne {α : Type} (t : Tab α) {n m : Nat} (a : α) (h : m ≠ n) :
    Tab.find (Tab.set t n a) m = Tab.find t m := by
  induction t with
  | nil => simp [Tab.set, Tab.find, Ne.symm h]
  | cons p t ih =>
    obtain ⟨k, v⟩ := p
    have h' : ¬n = m := fun e => h e.symm
    by_cases l : n < k
    · simp [Tab.set, l, Tab.find, h']
    · by_cases e : n = k
      · subst e
        simp [Tab.set, Tab.find, h']
      · simp only [Tab.set, l, e, if_false, Tab.find, ih]

@[simp] theorem Tab.get_set_same {α : Type} (t : Tab α) (d : α) (n : Nat) (a : α) : Tab.get (Tab.set t n a) d n = a := by
  simp [Tab.get]

@[simp] theorem Tab.get_set_ne {α : Type} (t : Tab α) (d : α) {n m : Nat} (a : α) (h : m ≠ n) :
    Tab.get (Tab.set t n a) d m = Tab.get t d m := by
  simp [Tab.get, h]

@[simp] theorem Tab.set_set {α : Type} (t : Tab α) (n : Nat) (a b : α) : Tab.set (Tab.set t n a) n b = Tab.set t n b := by
  induction t with
  | nil => simp [Tab.set]
  | cons p t ih =>
    obtain ⟨k, v⟩ := p
    by_cases h : n < k
    · simp [Tab.set, h]
    · by_cases e : n = k
      · simp [Tab.set, e]
      · simp [Tab.set, h, e, ih]

/-- A canonical memory from an address on is canonical from any lower one. -/
theorem Memory.wfFrom_mono {lo lo' : Nat} {m : Memory} (h : lo' ≤ lo) (w : Memory.wfFrom lo m = true) :
    Memory.wfFrom lo' m = true := by
  cases m with
  | nil => rfl
  | cons c t =>
    obtain ⟨k, v⟩ := c
    simp only [Memory.wfFrom, Bool.and_eq_true, decide_eq_true_eq] at w ⊢
    exact ⟨⟨by omega, w.1.2⟩, w.2⟩

/-- A byte below every listed address reads as absent. -/
theorem Memory.byte_below {lo a : Nat} {m : Memory} (w : Memory.wfFrom lo m = true) (h : a < lo) :
    Memory.byte m a = Memory.absent := by
  cases m with
  | nil => rfl
  | cons c t =>
    obtain ⟨k, v⟩ := c
    simp only [Memory.wfFrom, Bool.and_eq_true, decide_eq_true_eq] at w
    have e : ¬k = a := by omega
    have l : a < k := by omega
    simp [Memory.byte, e, l]

theorem Memory.put_wfFrom {lo : Nat} {m : Memory} (a : Nat) (v : Byte) (w : Memory.wfFrom lo m = true) (h : lo ≤ a) :
    Memory.wfFrom lo (Memory.put m a v) = true := by
  induction m generalizing lo with
  | nil =>
    by_cases e : v = Memory.absent
    · simp [Memory.put, e, Memory.wfFrom]
    · simp [Memory.put, e, Memory.wfFrom, h]
  | cons c t ih =>
    obtain ⟨k, x⟩ := c
    have w' := w
    simp only [Memory.wfFrom, Bool.and_eq_true, decide_eq_true_eq] at w
    obtain ⟨⟨hk, hx⟩, ht⟩ := w
    by_cases l : a < k
    · by_cases e : v = Memory.absent
      · simpa [Memory.put, l, e] using w'
      · simp only [Memory.put, if_pos l, if_neg e, Memory.wfFrom, Bool.and_eq_true, decide_eq_true_eq]
        exact ⟨⟨h, bne_iff_ne.mpr e⟩, ⟨by omega, hx⟩, ht⟩
    · by_cases q : a = k
      · by_cases e : v = Memory.absent
        · simp [Memory.put, q, e]
          exact Memory.wfFrom_mono (by omega) ht
        · simp [Memory.put, q, e, Memory.wfFrom, hk, ht]
      · simp only [Memory.put, if_neg l, if_neg q, Memory.wfFrom, Bool.and_eq_true, decide_eq_true_eq]
        exact ⟨⟨hk, hx⟩, ih ht (by omega)⟩

/-- Writing a byte keeps the canonical form. -/
theorem Memory.put_wf {m : Memory} (a : Nat) (v : Byte) (w : m.wf = true) : (m.put a v).wf = true :=
  Memory.put_wfFrom a v w (Nat.zero_le a)

/-- Storing bytes keeps the canonical form. -/
theorem Memory.store_wf {m : Memory} (a : Nat) (b : List Byte) (w : m.wf = true) : (m.store a b).wf = true := by
  induction b generalizing m a with
  | nil => exact w
  | cons x t ih => exact ih (a + 1) (Memory.put_wf a x w)

/-- Keeping some entries of a canonical memory keeps the canonical form. -/
theorem Memory.filter_wfFrom {lo : Nat} {m : Memory} (p : Host.Cell → Bool) (w : Memory.wfFrom lo m = true) :
    Memory.wfFrom lo (m.filter p) = true := by
  induction m generalizing lo with
  | nil => rfl
  | cons c t ih =>
    obtain ⟨k, v⟩ := c
    simp only [Memory.wfFrom, Bool.and_eq_true, decide_eq_true_eq] at w
    obtain ⟨⟨hk, hv⟩, ht⟩ := w
    by_cases e : p (k, v) = true
    · simp only [List.filter_cons, e, if_true, Memory.wfFrom, Bool.and_eq_true, decide_eq_true_eq]
      exact ⟨⟨hk, hv⟩, ih ht⟩
    · simp only [List.filter_cons, e]
      exact ih (Memory.wfFrom_mono (by omega) ht)

/-- Clearing a range keeps the canonical form. -/
theorem Memory.clear_wf {m : Memory} (a n : Nat) (w : m.wf = true) : (m.clear a n).wf = true :=
  Memory.filter_wfFrom _ w

theorem Memory.byte_put_from {lo : Nat} {m : Memory} (a b : Nat) (v : Byte) (w : Memory.wfFrom lo m = true) :
    Memory.byte (Memory.put m a v) b = if b = a then v else Memory.byte m b := by
  induction m generalizing lo with
  | nil =>
    by_cases e : v = Memory.absent
    · simp [Memory.put, e, Memory.byte]
    · by_cases q : b = a
      · simp [Memory.put, e, Memory.byte, q]
      · have q' : ¬a = b := fun h => q h.symm
        simp [Memory.put, e, Memory.byte, q, q']
  | cons c t ih =>
    obtain ⟨k, x⟩ := c
    have w' := w
    simp only [Memory.wfFrom, Bool.and_eq_true, decide_eq_true_eq] at w
    obtain ⟨⟨hk, -⟩, ht⟩ := w
    by_cases l : a < k
    · by_cases e : v = Memory.absent
      · by_cases q : b = a
        · have n1 : ¬k = b := by omega
          have n2 : b < k := by omega
          simp [Memory.put, e, Memory.byte, q, l, show ¬k = a by omega]
        · simp [Memory.put, l, e, q]
      · by_cases q : b = a
        · simp [Memory.put, l, e, Memory.byte, q]
        · have q' : ¬a = b := fun h => q h.symm
          by_cases m1 : b < a
          · simp [Memory.put, l, e, Memory.byte, q, q', m1, show ¬k = b by omega, show b < k by omega]
          · simp [Memory.put, l, e, Memory.byte, q, q', m1]
    · by_cases q : a = k
      · subst q
        by_cases e : v = Memory.absent
        · simp only [Memory.put, l, e, if_true, if_false]
          by_cases z : b = a
          · simpa [z] using Memory.byte_below ht (by omega : a < a + 1)
          · have z' : ¬a = b := fun h => z h.symm
            by_cases y : b < a
            · simpa [z, Memory.byte, z', y] using Memory.byte_below ht (by omega : b < a + 1)
            · simp [z, Memory.byte, z', y]
        · by_cases z : b = a
          · simp [Memory.put, e, Memory.byte, z]
          · have z' : ¬a = b := fun h => z h.symm
            simp [Memory.put, e, Memory.byte, z, z']
      · simp only [Memory.put, l, q, if_false, Memory.byte]
        by_cases z : k = b
        · simp [z, show ¬b = a by omega]
        · by_cases y : b < k
          · simp [z, y, show ¬b = a by omega]
          · simp [z, y, ih ht]

/-- The byte read after a byte is written: the one written at its address, else the old one. -/
theorem Memory.byte_put {m : Memory} (a b : Nat) (v : Byte) (w : m.wf = true) :
    (m.put a v).byte b = if b = a then v else m.byte b := Memory.byte_put_from a b v w

/-- A store leaves every byte outside it as it was. -/
theorem Memory.byte_store_out {m : Memory} (a b : Nat) (l : List Byte) (w : m.wf = true) (h : b < a ∨ a + l.length ≤ b) :
    (m.store a l).byte b = m.byte b := by
  induction l generalizing m a with
  | nil => rfl
  | cons x t ih =>
    simp only [List.length_cons] at h
    rw [Memory.store, ih (a + 1) (Memory.put_wf a x w) (by omega), Memory.byte_put a b x w]
    simp [show ¬b = a by omega]

/-- A store's bytes are read back. -/
theorem Memory.byte_store_in {m : Memory} (a i : Nat) (l : List Byte) (w : m.wf = true) (h : i < l.length) :
    (m.store a l).byte (a + i) = l[i] := by
  induction l generalizing m a i with
  | nil => simp at h
  | cons x t ih =>
    rw [Memory.store]
    cases i with
    | zero =>
      rw [Memory.byte_store_out (a + 1) (a + 0) t (Memory.put_wf a x w) (by omega), Memory.byte_put a _ x w]
      simp
    | succ i =>
      have := ih (a + 1) i (Memory.put_wf a x w) (by simpa using h)
      simpa [Nat.add_assoc, Nat.add_comm 1 i] using this

end Sys2Proof.Machine
end

