-- ==== Sys2Proof/Laws/Operands.lean ====
section
/-! SUPPORT. What the shared stages of an instruction do: the operand stage, the outcomes of an effect, and the steps of the effect
type, each said once. -/

namespace Sys2Proof.Machine

@[simp] theorem State.core_setCore (s : State) (c : Nat) (k : Core) : (s.setCore c k).core c = k := by
  simp [State.core, State.setCore]

@[simp] theorem Core.ctx_setCtx (k : Core) (n : Nat) (x : Ctx) : (k.setCtx n x).ctx n = x := by
  simp [Core.ctx, Core.setCtx]

@[simp] theorem State.ctx_setCtx (s : State) (c n : Nat) (x : Ctx) : (s.setCtx c n x).ctx c n = x := by
  simp [State.ctx, State.setCtx, State.modCore]

/-- The context at issue reads as it was written. -/
@[simp] theorem State.me_setMe (s : State) (x : Ctx) : (s.setMe x).me = x := by
  simp [State.me, State.setMe]

@[simp] theorem State.begin_me (s : State) : s.begin.me = s.me := rfl
@[simp] theorem State.begin_core (s : State) (c : Nat) : s.begin.core c = s.core c := rfl
@[simp] theorem State.begin_myCore (s : State) : s.begin.myCore = s.myCore := rfl
@[simp] theorem State.begin_cur_core (s : State) : s.begin.cur.core = s.cur.core := rfl
@[simp] theorem State.begin_cur_ctx (s : State) : s.begin.cur.ctx = s.cur.ctx := rfl
@[simp] theorem State.begin_flags (s : State) : s.begin.cur.flags = [] := rfl
@[simp] theorem State.begin_npc (s : State) : s.begin.cur.npc = s.me.pc + wd (2 * s.cur.len) := rfl

/-! The effect type: what each of its steps answers. -/

@[simp] theorem M.bind_run {α β : Type} (m : M α) (f : α → M β) (s : State) :
    (m >>= f) s = match m s with
      | .ok a t => f a t
      | .error e t => .error e t := by
  simp only [bind, EStateM.bind]
  cases m s <;> rfl

@[simp] theorem M.pure_run {α : Type} (a : α) (s : State) : (pure a : M α) s = .ok a s := rfl
@[simp] theorem M.get_run (s : State) : (get : M State) s = .ok s s := rfl
@[simp] theorem M.set_run (s t : State) : (set t : M PUnit) s = .ok () t := rfl
@[simp] theorem M.modify_run (f : State → State) (s : State) : (modify f : M PUnit) s = .ok () (f s) := rfl
@[simp] theorem M.getMe_run (s : State) : getMe s = .ok s.me s := rfl
@[simp] theorem M.setMe_run (x : Ctx) (s : State) : setMe x s = .ok () (s.setMe x) := rfl
@[simp] theorem M.modMe_run (f : Ctx → Ctx) (s : State) : modMe f s = .ok () (s.withMe f) := rfl
@[simp] theorem M.trapM_run {α : Type} (c : Nat) (a : Word) (s : State) : (trapM c a : M α) s = .error (.trap c a) s := rfl
@[simp] theorem M.blockM_run {α : Type} (w : Block) (s : State) : (blockM w : M α) s = .error (.block w) s := rfl
@[simp] theorem M.writeX_run (n : Nat) (w : Word) (b : Bool) (s : State) : writeX n w b s = .ok () (s.putX n w b) := rfl
@[simp] theorem M.jumpTo_run (t : Word) (s : State) : jumpTo t s = .ok () (s.goto t) := rfl
@[simp] theorem M.readRow_run (n : Nat) (s : State) : readRow n s = .ok (s.rowOf n) s := rfl
@[simp] theorem M.writeRow_run (n : Nat) (v : Row) (s : State) : writeRow n v s = .ok () (s.putRow n v) := rfl
@[simp] theorem M.guardM_run (b : Bool) (c : Nat) (a : Word) (s : State) :
    guardM b c a s = if b then .error (.trap c a) s else .ok () s := by
  cases b <;> rfl

/-! The outcomes of an effect. -/

theorem finish_ok {m : M Unit} {s t : State} (h : m s.begin = .ok () t) : finish m s = .next t.done := by
  simp [finish, h, State.done]

theorem finish_trap {m : M Unit} {s t : State} {c : Nat} {a : Word} (h : m s.begin = .error (.trap c a) t) :
    finish m s = .next (t.trapped c a) := by
  simp [finish, h, State.trapped]

theorem finish_block {m : M Unit} {s t : State} {w : Block} (h : m s.begin = .error (.block w) t) :
    finish m s = .next (t.stall w) := by
  simp [finish, h]

/-- An instruction that waits for its ports takes no slot (R120). -/
theorem finish_port {m : M Unit} {s t : State} {w : Block} (h : m s.begin = .error (.block w) t) (p : w.beforeIssue = true) :
    finish m s = .next (t.blockMe w) := by
  simp [finish, h, State.stall, p]

theorem finish_ended {m : M Unit} {s t : State} (h : m s.begin = .error .ended t) : finish m s = .next t.rotate := by
  simp [finish, h]

/-- Whatever an effect does, the instruction answers a next state. -/
theorem finish_next (m : M Unit) (s : State) : ∃ t, finish m s = .next t := by
  unfold finish
  cases m s.begin with
  | ok a t => exact ⟨_, rfl⟩
  | error e t => cases e <;> exact ⟨_, rfl⟩

/-! The operand stage. -/

theorem checkFields_ok {fields : List Opnd} {s : State} (h : operandCheck s.me fields = none) :
    checkFields fields s = .ok () s := by
  simp [checkFields, h]

/-- The first check that fails is the trap that is taken (R109). -/
theorem checkFields_trap {fields : List Opnd} {s : State} {c : Nat} (h : operandCheck s.me fields = some c) :
    checkFields fields s = .error (.trap c 0#64) s := by
  simp [checkFields, h]

@[simp] theorem M.noteMatrix_run (w : List Word) (s : State) : noteMatrix w s = .ok () (s.noted w) := by
  unfold noteMatrix State.noted
  split <;> rfl

/-- The popping of the operand stage answers its values and leaves its state. -/
theorem popVals_run (s : State) (d a b : Opnd) : popVals d a b s.begin = .ok (s.vals d a b) (s.opened d a b) := by
  have e : (if (([a, b, d].filterMap Opnd.popsFrom).drop s.me.latch.length) = [] then s.me
      else { s.me.popAll (([a, b, d].filterMap Opnd.popsFrom).drop s.me.latch.length) with acqStamp := s.begin.clock })
      = s.taken d a b := rfl
  simp only [popVals, M.bind_run, M.getMe_run, State.begin_me, M.get_run, M.pure_run, M.setMe_run, M.noteMatrix_run, e]
  rfl

/-- A result that is no seventh staged word passes (R149). -/
theorem needStage_ok {fields : List Opnd} {s : State} (h : s.me.overstaged fields = false) : needStage fields s = .ok () s := by
  simp [needStage, h]

/-- The checks and the waiting of the operand stage pass where it is ready. -/
theorem ready_checks {s : State} {d a b : Opnd} {extra : List (Nat × Nat)} (h : s.ready d a b extra = true) :
    checkFields [d, a, b] s.begin = .ok () s.begin ∧ awaitPorts d a b extra s.begin = .ok () s.begin
      ∧ (s.taken d a b).overstaged [d, a, b] = false := by
  simp only [State.ready, Bool.and_eq_true, Option.isNone_iff_eq_none, Bool.not_eq_true'] at h
  obtain ⟨⟨⟨h1, h2⟩, h3⟩, h4⟩ := h
  have h5 : ((([d, a, b].filterMap Opnd.pushesTo).map (fun q => (q, 1)) ++ extra).find?
      fun (p : Nat × Nat) => decide (s.me.room p.1 < p.2)) = none := by
    rw [List.find?_eq_none]
    intro p hp
    have := List.all_eq_true.mp h3 p hp
    simpa using this
  have c1 : checkFields [d, a, b] s.begin = .ok () s.begin := checkFields_ok h1
  have c2 : awaitPorts d a b extra s.begin = .ok () s.begin := by
    have h2' : shortPop s.me [] (([a, b, d].filterMap Opnd.popsFrom).drop s.me.latch.length) = none := h2
    simp only [awaitPorts, M.bind_run, M.getMe_run, State.begin_me, h2', h5, M.pure_run]
  exact ⟨c1, c2, h4⟩

/-- Flags that no enable covers are raised (R181). -/
theorem raiseFlags_quiet {lanes : List (Nat × FlagBits)} {s : State}
    (h : allFlags (s.cur.flags ++ lanes) &&& s.me.fpEnables = 0#5) : raiseFlags lanes s = .ok () (s.raised lanes) := by
  simp only [raiseFlags, M.bind_run, M.get_run, h, if_true, M.set_run]
  rfl

/-- An enabled flag traps FPE after FPFLAGS has received all of them (R181). -/
theorem raiseFlags_trap {lanes : List (Nat × FlagBits)} {s : State}
    (h : allFlags (s.cur.flags ++ lanes) &&& s.me.fpEnables ≠ 0#5) :
    raiseFlags lanes s = .error (.trap tFpe (fpeAddr s.me.fpEnables (s.cur.flags ++ lanes)))
      (s.noteFlags s.cur.core s.cur.ctx (allFlags (s.cur.flags ++ lanes))) := by
  simp only [raiseFlags, M.bind_run, M.get_run, h, if_false, M.set_run, M.trapM_run]

theorem State.noted_me (s : State) (w : List Word) : (s.noted w).me = s.me := by
  unfold State.noted
  split
  · rfl
  · simp [State.me, State.modMyCore, State.modCore, State.ctx, Core.ctx]

theorem State.noted_cur (s : State) (w : List Word) : (s.noted w).cur = s.cur := by
  unfold State.noted
  split <;> rfl

/-- The context at issue after the operand stage is the one whose words have been taken. -/
@[simp] theorem State.opened_me (s : State) (d a b : Opnd) : (s.opened d a b).me = s.taken d a b := by
  simp [State.opened, State.noted_me]

@[simp] theorem State.opened_cur (s : State) (d a b : Opnd) : (s.opened d a b).cur = s.begin.cur := by
  simp [State.opened, State.noted_cur]

theorem Ctx.popPort_fpctl (x : Ctx) (q : Nat) {w : PWord} {y : Ctx} (h : x.popPort q = some (w, y)) : y.fpctl = x.fpctl := by
  unfold Ctx.popPort at h
  split at h
  · split at h <;> simp_all
    rw [← h.2]
  · split at h <;> simp_all
    rw [← h.2]
  · split at h <;> simp_all
    rw [← h.2]
  · split at h
    · simp only [Option.map_eq_some_iff, Prod.mk.injEq] at h
      obtain ⟨_, _, _, rfl⟩ := h
      rfl
    · simp_all
  · simp_all

theorem Ctx.popAll_fpctl (x : Ctx) (l : List Nat) : (x.popAll l).fpctl = x.fpctl := by
  induction l generalizing x with
  | nil => rfl
  | cons q t ih =>
    unfold Ctx.popAll
    split
    · rename_i w y h
      rw [ih]
      change y.fpctl = x.fpctl
      exact Ctx.popPort_fpctl x q h
    · exact ih x

@[simp] theorem State.taken_fpEnables (s : State) (d a b : Opnd) : (s.taken d a b).fpEnables = s.me.fpEnables := by
  unfold State.taken Ctx.fpEnables
  split
  · rfl
  · simp [Ctx.popAll_fpctl]

@[simp] theorem State.raised_me (s : State) (f : List (Nat × FlagBits)) : (s.raised f).me = s.me := rfl

@[simp] theorem State.started_me (s : State) (d a b : Opnd) : (s.started d a b).me = s.taken d a b := by
  simp [State.started]

/-- The operand stage without the flags of popped words: where it passes, its values and its state. -/
theorem operandsRaw_ready {s : State} {d a b : Opnd} {extra : List (Nat × Nat)} (h : s.ready d a b extra = true) {bad : Option Nat}
    (hb : bad = none) : operandsRaw d a b extra bad s.begin = .ok (s.vals d a b) (s.opened d a b) := by
  subst hb
  obtain ⟨c1, c2, c3⟩ := ready_checks h
  have c4 : needStage [d, a, b] (s.opened d a b) = .ok () (s.opened d a b) := needStage_ok (by simpa using c3)
  simp only [operandsRaw, takeVals, M.bind_run, c1, c2, popVals_run, c4, M.pure_run]

/-- The operand stage that leaves the staged words to a later check. -/
theorem operandsLate_ready {s : State} {d a b : Opnd} (h : s.ready d a b = true) :
    operandsLate d a b s.begin = .ok (s.vals d a b) (s.opened d a b) := by
  obtain ⟨c1, c2, _⟩ := ready_checks h
  simp only [operandsLate, M.bind_run, c1, c2, popVals_run]

/-- The operand stage: where it passes and no popped word brings an enabled flag, its values and its state. -/
theorem operands_ready {s : State} {d a b : Opnd} {extra : List (Nat × Nat)} (h : s.ready d a b extra = true)
    (q : s.quiet d a b = true) {bad : Option Nat} (hb : bad = none) :
    operands d a b extra bad s.begin = .ok (s.vals d a b) (s.started d a b) := by
  have r : raiseFlags (latchFlags (s.taken d a b).latch ++ []) (s.opened d a b) = .ok () (s.started d a b) := by
    rw [raiseFlags_quiet]
    · simp [State.started, State.popped]
    · simpa [State.quiet, State.popped, decide_eq_true_eq] using of_decide_eq_true q
  simp only [operands, M.bind_run, operandsRaw_ready h hb, raiseWith, M.getMe_run, State.opened_me, r, M.pure_run]

end Sys2Proof.Machine
end

