-- ==== Sys2Proof/Tests/Slice0.lean ====
section
/-! SUPPORT. The model's own tests: ill-formed terms, words of the opcode table with their fields filled in, one step of some
instructions with results worked out from the rules, and states that meet the hypotheses of every statement. -/

namespace Sys2Proof.Tests

-- One test is elaborated after another: each evaluates on the whole machine, and many at once need too many threads.
set_option Elab.async false

open Sys2Proof Sys2Proof.Machine

/-- The words of the opcode table, each row's match with its fields at values of our own, and the instruction they stand for. -/
abbrev Row' := Nat × Nat × Instr

/-- Every listed word decodes to its instruction. -/
def decodesAll (l : List Row') : Bool := l.all fun r => decodeTableWord r.1 r.2.1 == some r.2.2

/-! ## Ill-formed terms -/

theorem test_wf_register_range : (Instr.add 32 0 0).wf = false ∧ (Instr.add 0 32 0).wf = false ∧ (Instr.add 0 0 32).wf = false
    ∧ (Instr.add 31 31 31).wf = true := by decide
theorem test_wf_mask_register : (Instr.kand 8 0 0).wf = false ∧ (Instr.kand 7 7 7).wf = true := by decide
theorem test_wf_governing_mask : (Instr.vadd 1 0 0 0 8).wf = false ∧ (Instr.vadd 1 0 0 0 7).wf = true := by decide
theorem test_wf_type : (Instr.vadd 0x12 0 0 0 0).wf = false ∧ (Instr.vadd 0x11 0 0 0 0).wf = false
    ∧ (Instr.vadd 4 0 0 0 0).wf = true ∧ (Instr.vsel 0x11 0 0 0 0).wf = true ∧ (Instr.vshl 2 0 0 0 0).wf = false := by decide
theorem test_wf_immediate : (Instr.addi 1 1 (2 ^ 31)).wf = false ∧ (Instr.addi 1 1 (2 ^ 31 - 1)).wf = true
    ∧ (Instr.addi 1 1 (-(2 ^ 31) - 1)).wf = false := by decide
theorem test_wf_unsigned_immediate : (Instr.lih 1 (2 ^ 35)).wf = false ∧ (Instr.lih 1 (2 ^ 35 - 1)).wf = true := by decide
theorem test_wf_prefix_count : (Instr.ld 0 3 9 1 (2 ^ 20) none).wf = true ∧ (Instr.ld 0 3 9 1 (2 ^ 20) (some ⟨0, 3, 0⟩)).wf = false := by decide
theorem test_wf_order : (Instr.ld 0 3 1 1 0 (some ⟨2, 3, 0⟩)).wf = false ∧ (Instr.ld 0 3 1 1 0 (some ⟨0, 6, 0⟩)).wf = false := by decide
theorem test_wf_load_size : (Instr.ld 1 3 1 1 0 none).wf = false ∧ (Instr.ld 1 2 1 1 0 none).wf = true
    ∧ (Instr.ld 2 0 1 1 0 none).wf = false := by decide
theorem test_wf_atomic_size : (Instr.amoadd 0 1 1 1 1 none).wf = false ∧ (Instr.amoadd 1 3 1 1 1 none).wf = false := by decide
theorem test_wf_exact_type : (Instr.xread 0b10001 1 none).wf = false ∧ (Instr.xadd 0b10001 1 1 none).wf = true := by decide
theorem test_wf_status_number : (Instr.mstat 2 1).wf = false ∧ (Instr.mstat 24 1).wf = false ∧ (Instr.mstat 23 1).wf = true := by decide
theorem test_wf_quiet : (Instr.mma 2 1).wf = false := by decide
theorem test_wf_sfu : (Instr.sexp2 1 3 0 0 0).wf = false ∧ (Instr.sexp2 0 1 1 0 0).wf = false := by decide
theorem test_wf_settype : (Instr.vsettype 1 1).wf = false ∧ (Instr.vsettype 0 31).wf = true := by decide
theorem test_wf_low_field : (Instr.vpack 1 0 0 8).wf = false ∧ (Instr.vgath 4 0 0 0 0 none).wf = false := by decide

/-! ## Words (R99 to R116 and the rows of the opcode table) -/

theorem test_words_page0_1 : decodesAll
    [(16, 0x2AC, .add 2 5 3), (16, 0x3D1, .sub 3 6 4), (16, 0x196, .and 1 4 5), (16, 0x2BB, .or 2 5 6), (16, 0xBC0, .xor 3 6 0),
      (16, 0x985, .shl 1 4 1), (16, 0xAAA, .shr 2 5 2), (16, 0xBCF, .sra 3 6 3), (16, 0x1190, .mul 1 4 4), (16, 0x12B5, .mulh 2 5 5),
      (16, 0x13DA, .mulhu 3 6 6), (16, 0x1183, .rol 1 4 0), (16, 0x1AA4, .div 2 5 1), (16, 0x1BC9, .divu 3 6 2),
      (16, 0x198E, .rem 1 4 3), (16, 0x1AB3, .remu 2 5 4), (16, 0x23D4, .min 3 6 5), (16, 0x2199, .max 1 4 6), (16, 0x22A2, .minu 2 5 0)] = true := by decide

theorem test_words_page0_2 : decodesAll
    [(16, 0x23C7, .maxu 3 6 1), (16, 0x2988, .seq 1 4 2), (16, 0x2AAD, .sne 2 5 3), (16, 0x2BD2, .slt 3 6 4), (16, 0x2997, .sltu 1 4 5),
      (16, 0x32B8, .sle 2 5 6), (16, 0x33C1, .sleu 3 6 0), (16, 0x3186, .sel 1 4 1), (16, 0x32AB, .addw 2 5 2),
      (16, 0x3BDC, .addi 3 6 (-4)), (16, 0x419D, .andi 1 4 (-3)), (16, 0x4ABC, .ori 2 5 (-4)), (16, 0x53DD, .xori 3 6 (-3)),
      (16, 0x599C, .shli 1 4 28), (16, 0x62BD, .shri 2 5 29), (16, 0x6BDC, .srai 3 6 28), (16, 0x71FD, .li 1 (-3)),
      (16, 0x7AFC, .lih 2 252), (16, 0x83C0, .mov 3 6)] = true := by decide

theorem test_words_page0_3 : decodesAll
    [(16, 0x8181, .neg 1 4), (16, 0x82A2, .not 2 5), (16, 0x83C3, .clz 3 6), (16, 0x8184, .ctz 1 4), (16, 0x82A5, .popc 2 5),
      (16, 0x83C6, .bswap 3 6), (16, 0x8187, .sextb 1 4), (16, 0x82A8, .sexth 2 5), (16, 0x83C9, .sextw 3 6), (16, 0x818A, .zextb 1 4),
      (16, 0x82AB, .zexth 2 5), (16, 0x83CC, .zextw 3 6), (16, 0x818D, .qcnt 1 4), (16, 0x8ABD, .bfx 2 5 29), (16, 0x93DC, .bfi 3 6 28),
      (16, 0x9CFD, .bez 4 (-3)), (16, 0xA5FC, .bnz 5 (-4)), (16, 0xAE41, .beq 6 2 (1)), (16, 0xAC64, .bne 4 3 (0))] = true := by decide

theorem test_words_page0_4 : decodesAll
    [(16, 0xAD89, .blt 5 4 (1)), (16, 0xAEAC, .bge 6 5 (0)), (16, 0xACD1, .bltu 4 6 (1)), (16, 0xAD14, .bgeu 5 0 (0)),
      (16, 0xB7FD, .b (-3)), (16, 0xBFFC, .call (-4)), (16, 0xC2FD, .loop 2 (-3)), (32, 0xFC02C3FC, .loopStep 2 3 (-4)),
      (16, 0xC99D, .movx 1 4 29), (16, 0xD2BC, .movxw 2 5 28), (16, 0xD8C0, .jr 6), (16, 0xD881, .callr 4), (16, 0xD802, .ret),
      (16, 0xD803, .exit), (16, 0xE090, .send 4 4 none), (16, 0xE2B5, .sendl 2 5 5 none), (16, 0xE0C2, .reply 6 none),
      (16, 0xE183, .sends 1 4 0 none), (16, 0xEA1D, .srd 2 29)] = true := by decide

theorem test_words_page1_1 : decodesAll
    [(32, 0xFC2203C8, .vadd 2 3 6 2 0), (32, 0xFC23018D, .vsub 3 1 4 3 0), (32, 0xFC2402B2, .vmul 4 2 5 4 0),
      (32, 0xFC2103D7, .vdiv 1 3 6 5 0), (32, 0xFC220998, .vfma 2 1 4 6 0), (32, 0xFC230AA1, .vfms 3 2 5 0 0),
      (32, 0xFC240BC6, .vfnma 4 3 6 1 0), (32, 0xFC21098B, .vfnms 1 1 4 2 0), (32, 0xFC2212AC, .vmin 2 2 5 3 0),
      (32, 0xFC2313D1, .vmax 3 3 6 4 0), (32, 0xFC241196, .vabsd 4 1 4 5 0), (32, 0xFC2112BB, .vcsgn 1 2 5 6 0),
      (32, 0xFC221BC0, .vand 2 3 6 0 0), (32, 0xFC231985, .vor 3 1 4 1 0), (32, 0xFC241AAA, .vxor 4 2 5 2 0),
      (32, 0xFC211BCF, .vandn 1 3 6 3 0), (32, 0xFC242190, .vshl 4 1 4 4 0), (32, 0xFC2522B5, .vshr 5 2 5 5 0),
      (32, 0xFC2423DA, .vsra 4 3 6 6 0)] = true := by decide

theorem test_words_page1_2 : decodesAll
    [(32, 0xFC242183, .vmulh 4 1 4 0 0), (32, 0xFC222AA4, .vcmpeq 2 2 5 1 0), (32, 0xFC232BC9, .vcmplt 3 3 6 2 0),
      (32, 0xFC24298E, .vcmple 4 1 4 3 0), (32, 0xFC212AB3, .vcmpun 1 2 5 4 0), (32, 0xFC2233D4, .vsel 2 3 6 5 0),
      (32, 0xFC233199, .vperm 3 1 4 6 0), (32, 0xFC2432A2, .vzip 4 2 5 0), (32, 0xFC2133C7, .vunzip 1 3 6 1),
      (32, 0xFC223980, .vmov 2 1 4 0), (32, 0xFC233AA1, .vneg 3 2 5 0), (32, 0xFC243BC2, .vabs 4 3 6 0), (32, 0xFC213983, .vnot 1 1 4 0),
      (32, 0xFC223AA4, .vrint 2 2 5 0), (32, 0xFC233BC5, .vclass 3 3 6 0), (32, 0xFC213986, .vsqrt 1 1 4 0),
      (32, 0xFC2142A8, .vcvt 1 2 5 2 0), (32, 0xFC2243CD, .vwidenl 2 3 6 3 0), (32, 0xFC234192, .vwidenh 3 1 4 4 0)] = true := by decide

theorem test_words_page1_3 : decodesAll
    [(32, 0xFC2C42AF, .vpack 0xC 2 5 3), (32, 0xFC2A4BD8, .vquant 0xA 3 6 6 0), (32, 0xFC2A4981, .vdeq 0xA 1 4 0 0),
      (32, 0xFC234AA6, .vlut4 3 2 5 1 0), (32, 0xFC214BCB, .vscale 1 3 6 2 0), (32, 0xFC215180, .vredsum 1 1 4 0),
      (32, 0xFC2252A1, .vredmax 2 2 5 0), (32, 0xFC2353C2, .vredmin 3 3 6 0), (32, 0xFC245183, .vredor 4 1 4 0),
      (32, 0xFC215AA0, .vbcast 1 2 5 0), (32, 0xFC225BC5, .vext 2 3 6 1), (32, 0xFC23598A, .vins 3 1 4 2),
      (32, 0xFC245AA3, .viota 4 2 5 0), (32, 0xFC2163DD, .vslidedn 1 3 6 29 0), (32, 0xFC22699C, .vslideup 2 1 4 28 0),
      (32, 0xFC2072B8, .kand 2 5 6), (32, 0xFC2073C1, .kor 3 6 0), (32, 0xFC207186, .kxor 1 4 1), (32, 0xFC2072AB, .kandn 2 5 2)] = true := by decide

theorem test_words_page1_4 : decodesAll
    [(32, 0xFC207BC0, .knot 3 6), (32, 0xFC247981, .kpop 4 1 4), (32, 0xFC207AA6, .kfrom 2 5 1), (32, 0xFC207BCB, .kto 3 6 2),
      (32, 0xFC238180, .vrot 3 1 4 0 0), (32, 0xFC248001, .vsettype 4 0), (32, 0xFC2080C2, .vsetbase 6), (32, 0xFC208103, .vgetbase 1),
      (32, 0xFC208AAF, .vchain 2 5 15)] = true := by decide

theorem test_words_page2_1 : decodesAll
    [(32, 0xFC4403DC, .ld 1 0 3 6 (-4) none), (32, 0xFC41099D, .st 1 1 4 (-3) none), (32, 0xFC4612BC, .ldc 1 2 2 5 (-4) none),
      (32, 0xFC401BDD, .vld 3 6 (-3) 0 none), (32, 0xFC40219C, .vst 1 4 (-4) 0 none), (32, 0xFC402AAC, .vlds 2 5 3 0 none),
      (32, 0xFC402BD1, .vsts 3 6 4 0 none), (32, 0xFC582996, .vgath 3 1 4 5 0 none), (32, 0xFC402ABB, .vscat 0 2 5 6 0 none),
      (32, 0xFC4233C0, .amoadd 0 2 3 6 0 none), (32, 0xFC463185, .amoand 1 2 1 4 1 none), (32, 0xFC4232AA, .amoor 0 2 2 5 2 none),
      (32, 0xFC4633CF, .amoxor 1 2 3 6 3 none), (32, 0xFC423990, .amomin 0 2 1 4 4 none), (32, 0xFC463AB5, .amomax 1 2 2 5 5 none),
      (32, 0xFC423BDA, .amoswap 0 2 3 6 6 none), (32, 0xFC463983, .amocas 1 2 1 4 0 none), (32, 0xFC4042A4, .ship 2 5 1 none),
      (32, 0xFC4043C9, .shipn 3 6 2 none)] = true := by decide

theorem test_words_page2_2 : decodesAll
    [(32, 0xFC49408E, .xadd 9 4 3 none), (32, 0xFC4940A3, .xread 9 5 none), (32, 0xFC404BD4, .cpy 3 6 5 none),
      (32, 0xFC404999, .cpyl 1 4 6 none), (32, 0xFC404AA2, .cpyr 2 5 0 none), (32, 0xFC404BC7, .cpyg 3 6 1 none),
      (32, 0xFC405088, .sigadd 4 2 none), (32, 0xFC4052AD, .sigwait 2 5 3 none), (32, 0xFC4050C2, .sigabort 6 none),
      (32, 0xFC405183, .sigread 1 4 none), (32, 0xFC405800, .fence none), (32, 0xFC4058C1, .pref 6), (32, 0xFC405886, .invl 4 1),
      (32, 0xFC4058AB, .wbcl 5 2)] = true := by decide

theorem test_words_page3_1 : decodesAll
    [(32, 0xFC60001D, .mctx 0 29), (32, 0xFC610880, .mlut 1 4), (32, 0xFC6010B4, .mring 5 5), (32, 0xFC6018D8, .madv 6 6),
      (32, 0xFC602080, .mma 0 4), (32, 0xFC6128A4, .mmac 1 5 1), (32, 0xFC6030C0, .mtrn 0 6), (32, 0xFC61308D, .mperm 1 4 3),
      (32, 0xFC6030A2, .mred 0 5), (32, 0xFC6130C3, .mzero 1 6), (32, 0xFC753900, .mstat 21 1), (32, 0xFC6542A0, .sexp2 1 1 2 5 0),
      (32, 0xFC6240C1, .slog2 0 2 0 6 0), (32, 0xFC644182, .srcp 1 0 1 4 0), (32, 0xFC6140A3, .srsq 0 1 0 5 0),
      (32, 0xFC664BC0, .ssin 1 2 3 6 0), (32, 0xFC604881, .scos 0 0 0 4 0), (32, 0xFC654AA2, .stanh 1 1 2 5 0),
      (32, 0xFC6248C3, .ssig 0 2 0 6 0)] = true := by decide

theorem test_words_page3_2 : decodesAll
    [(32, 0xFC605080, .lsrun 4), (32, 0xFC605001, .lsstop), (32, 0xFC605302, .lsstat 3)] = true := by decide

theorem test_words_page4_1 : decodesAll
    [(32, 0xFC800090, .enq 4 4), (32, 0xFC8000A1, .deq 5), (32, 0xFC8000C2, .deqw 6), (32, 0xFC800083, .wqstat 4),
      (32, 0xFC800AA4, .stbind 2 5 1), (32, 0xFC800BC1, .stfree 3 6), (32, 0xFC80118C, .putc 1 4 3), (32, 0xFC8012B1, .getr 2 5 4),
      (32, 0xFC8018C0, .beam 6), (32, 0xFC802198, .rodget 1 4 6), (32, 0xFC8022A1, .rodwait 2 5 0), (32, 0xFC8020C2, .rodfree 6),
      (32, 0xFC80218B, .rodstat 1 4 2), (32, 0xFC802AAC, .flowopen 2 5 3), (32, 0xFC8028C1, .flowclose 6), (32, 0xFC803194, .grun 1 4 5),
      (32, 0xFC8032A1, .gcancel 2 5), (32, 0xFC8038C0, .xall 6), (32, 0xFC804184, .cancel 1 4 1)] = true := by decide

theorem test_words_page5_1 : decodesAll
    [(32, 0xFCA000A0, .trap 5), (32, 0xFCA000C1, .syscall 6), (32, 0xFCA00002, .bkpt), (32, 0xFCA002B7, .sret 2 5 5),
      (32, 0xFCA008DC, .swr 6 28), (32, 0xFCA01080, .ckpt 4), (32, 0xFCA01800, .maskw), (32, 0xFCA01801, .unmaskw),
      (32, 0xFCA0208C, .tlbi 4 3), (32, 0xFCA022B1, .keyld 2 5 4), (32, 0xFCA023D6, .waitev 3 6 5), (32, 0xFCA02183, .haltc 1 4)] = true := by decide

/-! ## States that meet the hypotheses of the statements -/

/-- A user task runs in context 0 of core 0 with 24 registers and 128 rows, its PC at a word of zeros. -/
def base : State := State.reset.withFetchWord 16 0

/-- The same with the context at issue changed. -/
def at_ (f : Ctx → Ctx) : State := base.withMe f

/-- The same with registers x1, x2 and x3 set. -/
def regs3 (x y z : Nat) : State := at_ fun c => { c with regs := [(1, wd x), (2, wd y), (3, wd z)] }

/-- With no flag enabled in FPCTL no lane raises one that traps. -/
theorem silent_base (d a b : Opnd) (l : List (Nat × FlagBits)) : base.silent d a b l := by
  have h : base.me.fpEnables = 0#5 := by decide
  simp [State.silent, h]

@[inherit_doc silent_base]
theorem silent_at (f : Ctx → Ctx) (h : (at_ f).me.fpEnables = 0#5) (d a b : Opnd) (l : List (Nat × FlagBits)) : (at_ f).silent d a b l := by
  simp [State.silent, h]

/-- A context with words in x29's and x31's ports, and room in every push port. -/
def ports : State := at_ fun c => { c with q5 := [5#64, 6#64], q7 := [{ fn := .exp2, done := some ⟨7#64, []⟩ }] }

theorem witness_ScalarArithmetic : base.ready3 1 2 3 = true ∧ base.ready3 0 23 23 = true ∧ ports.ready3 28 29 29 = true
    ∧ ports.ready3 31 31 29 = true := by decide
theorem witness_ScalarDivisionAndExtremes : (regs3 0 7 0).ready3 1 2 3 = true ∧ (regs3 0 7 1).ready3 1 2 3 = true := by decide
theorem witness_ScalarComparesAndSelect : base.ready3 1 2 3 = true ∧ base.ready (.both 1) (.src 2) (.src 3) = true
    ∧ base.quiet (.both 1) (.src 2) (.src 3) = true := by decide
theorem witness_ScalarImmediates : base.ready2 1 2 = true ∧ 63 < 64 ∧ base.readyD 1 = true ∧ base.readyD 28 = true ∧ 2 ^ 32 - 1 < 2 ^ 32
    ∧ base.ready (.both 1) .none .none = true ∧ base.quiet (.both 1) .none .none = true := by decide
theorem witness_ScalarUnary : base.ready2 1 2 = true ∧ base.ready (.dst 1) (.port 24) .none = true ∧ base.ready (.dst 1) (.port 31) .none = true
    ∧ base.quiet (.dst 1) (.port 24) .none = true ∧ base.quiet (.dst 1) (.port 31) .none = true := by decide
theorem witness_ScalarBitFields : 0 < 2 ^ 12 ∧ bfPos 0 + bfWidth 0 ≤ 64 ∧ 4095 < 2 ^ 13 ∧ base.ready2 1 2 = true
    ∧ bfPos 63 + bfWidth 63 ≤ 64 ∧ base.ready (.both 1) (.src 2) .none = true ∧ base.quiet (.both 1) (.src 2) .none = true := by decide
theorem witness_BranchesAndCalls : base.readyA 1 = true ∧ base.readyA 29 = false ∧ ports.readyA 29 = true ∧ base.readyAB 1 2 = true
    ∧ (base.vals .none (.src 1) .none).a.getLsbD 0 = false ∧ (base.me.reg 7).getLsbD 0 = false := by decide
theorem witness_BranchesAndCalls_odd : (regs3 0x11 0 0).readyA 1 = true ∧ ((regs3 0x11 0 0).vals .none (.src 1) .none).a.getLsbD 0 = true
    ∧ ((at_ fun c => { c with regs := [(7, 0x11#64)] }).me.reg 7).getLsbD 0 = true := by decide
theorem witness_LoopsAndRelativeRegisters : base.ready (.ctr 1) .none .none = true ∧ base.quiet (.ctr 1) .none .none = true
    ∧ base.me.rows ≠ 0 ∧ base.ready2 1 2 = true ∧ (1 : Int) + sg (base.vals (.dst 1) (.src 2) .none).a = 1
    ∧ (23 : Int) + sg (base.vals (.dst 1) (.src 2) .none).a < (base.taken (.dst 1) (.src 2) .none).alloc
    ∧ base.ready (.src 1) (.src 2) .none = true ∧ base.quiet (.src 1) (.src 2) .none = true
    ∧ (23 : Int) + sg (base.vals (.src 1) (.src 2) .none).a < (base.taken (.src 1) (.src 2) .none).alloc := by decide

/-- Every operation of two rows accepts FP32 or INT32, of one row too. -/
theorem witness_VectorTwoRows : base.ready (.row 1) (.row 127) (.row 0) = true ∧ base.quiet (.row 1) (.row 127) (.row 0) = true
    ∧ (∀ o, VOp2.accepts o (base.me.elemType 1) = true ∨ VOp2.accepts o (base.me.elemType 4) = true)
    ∧ ∀ l, base.silent (.row 1) (.row 127) (.row 0) l :=
  ⟨by decide, by decide, fun o => by cases o <;> decide, silent_base _ _ _⟩
theorem witness_VectorFusedComparesAndWidening : base.ready (.row 1) (.row 2) (.row 3) = true ∧ base.quiet (.row 1) (.row 2) (.row 3) = true
    ∧ base.ready .none (.row 2) (.row 3) = true ∧ base.quiet .none (.row 2) (.row 3) = true ∧ isFPInt (base.me.elemType 1) = true
    ∧ isFPInt (base.me.elemType 9) = true ∧ widenTo (base.me.elemType 2) = some 1 ∧ widenTo (base.me.elemType 9) = some 7 := by decide
theorem witness_VectorFusedComparesAndWidening_silent (d : Opnd) (l : List (Nat × FlagBits)) : base.silent d (.row 2) (.row 3) l :=
  silent_base d _ _ l
theorem witness_VectorOneRowAndReductions : base.ready (.row 1) (.row 2) .none = true ∧ base.quiet (.row 1) (.row 2) .none = true
    ∧ base.ready (.dst 1) (.row 2) .none = true ∧ base.quiet (.dst 1) (.row 2) .none = true ∧ isFP (base.me.elemType 3) = true
    ∧ isInt (base.me.elemType 4) = true := by decide
theorem witness_VectorOneRowAndReductions_types (o : VOp1) (d : Opnd) (l : List (Nat × FlagBits)) :
    (VOp1.accepts o (base.me.elemType 1) = true ∨ VOp1.accepts o (base.me.elemType 4) = true) ∧ base.silent d (.row 2) .none l :=
  ⟨by cases o <;> decide, silent_base d _ _ l⟩
theorem witness_VectorPermutations : base.ready (.row 1) (.row 2) (.row 3) = true ∧ base.quiet (.row 1) (.row 2) (.row 3) = true
    ∧ isAny (base.me.elemType 1) = true ∧ isAny (base.me.elemType 0x11) = true := by decide
theorem witness_VectorMoves : isAny (base.me.elemType 4) = true ∧ isInt (base.me.elemType 4) = true
    ∧ base.ready (.row 1) (.row 2) .none = true ∧ base.quiet (.row 1) (.row 2) .none = true
    ∧ base.ready (.row 1) (.row 2) (.src 3) = true ∧ base.quiet (.row 1) (.row 2) (.src 3) = true
    ∧ base.ready (.row 1) (.src 2) .none = true ∧ base.quiet (.row 1) (.src 2) .none = true
    ∧ base.ready (.row 1) (.src 2) (.src 3) = true ∧ base.quiet (.row 1) (.src 2) (.src 3) = true
    ∧ base.ready (.dst 1) (.row 2) (.src 3) = true ∧ base.quiet (.dst 1) (.row 2) (.src 3) = true := by decide

/-- A context whose VTYPE is FP32. -/
def fp32 : State := at_ fun c => { c with vtype := 1 }

theorem witness_VectorConversions : fp32.ready (.row 1) (.row 2) .none = true ∧ fp32.quiet (.row 1) (.row 2) .none = true
    ∧ cvtTakes 3 = true ∧ cvtTakes fp32.me.vtype = true ∧ 3 / 2 < laneRatio 3 fp32.me.vtype
    ∧ packWidth (fp32.me.elemType 0xC) = some 6 ∧ packWidth (fp32.me.elemType 0xE) = some 4 ∧ (3 : Nat) < 4
    ∧ fp32.ready (.row 1) (.row 2) (.dst 3) = true ∧ fp32.quiet (.row 1) (.row 2) (.dst 3) = true ∧ isFP fp32.me.vtype = true
    ∧ quantEmax (fp32.me.elemType 0xA) = some 8 ∧ fp32.ready (.row 1) (.row 2) (.src 3) = true
    ∧ deqTakes (fp32.me.elemType 0x11) = true := by decide
theorem witness_VectorConversions_silent (b : Opnd) (l : List (Nat × FlagBits)) : fp32.silent (.row 1) (.row 2) b l :=
  silent_at _ (by decide) _ _ b l
theorem witness_MasksAndVectorState : base.readyD 1 = true ∧ isAny (base.me.elemType 1) = true ∧ base.readyA 1 = true
    ∧ base.me.rows ≠ 0 ∧ isAny ((((regs3 0x31 0 0).vals .none (.src 1) .none).a).toNat % 32) = true ∧ isAny 0x11 = true := by decide

/-- A page of the global window at address 0x100000000, mapped to device address 0 with every permission, and its first line in the
cluster cache. -/
def page0 : TlbEnt := { part := 0, job := 0, va := 0x100000000, bits := 16, pa := 0, rd := true, wr := true, ex := true, nc := false }

@[inherit_doc page0]
def glob (f : Ctx → Ctx) : State := (at_ f).modCluster 0 fun c =>
  { c with tlb := [page0], cache := [(0, { have_ := BitVec.allOnes 64, data := 5#512 })] }

/-- x1, x2 and x3 set, of a state with the page. -/
def globRegs (x y z : Nat) : State := glob fun c => { c with regs := [(1, wd x), (2, wd y), (3, wd z)] }

theorem witness_ScalarLoadsAndStores : (regs3 0 4088 0).ready2 1 2 = true ∧ 4088 % 2 ^ 3 = 0
    ∧ ((regs3 0 4088 0).started (.dst 1) (.src 2) .none).localWin 4088 8 = some .scratch
    ∧ (regs3 0 4088 0).localWin 0x1000000 8 = some .stack ∧ (regs3 0 4088 0).localWin (0x1000000 + 248) 8 = some .stack
    ∧ (regs3 0 4088 0).localWin 4089 8 = none
    ∧ (regs3 0 4088 0).ready (.src 1) (.src 2) .none = true ∧ (regs3 0 4088 0).quiet (.src 1) (.src 2) .none = true
    ∧ ((regs3 0 4088 0).started (.src 1) (.src 2) .none).letsGo none = true
    ∧ ((regs3 0 4088 0).started (.src 1) (.src 2) .none).letsGo (some ⟨2, 5, 0⟩) = true := by decide
theorem witness_ScalarLoadsAndStores_global :
    let s := globRegs 0 0x100000038 0
    let u := s.started (.dst 1) (.src 2) .none
    s.ready2 1 2 = true ∧ u.globalOk 0x100000038 8 8 = true ∧ u.hitFor 0x100000038 0 = some page0 ∧ paKind (page0.phys 0x100000038) = .sealed
    ∧ u.cached u.cur.core page0 = true ∧ u.poc = []
    ∧ (u.cluster (clusterOf u.cur.core)).cache.find (lineOf (page0.phys 0x100000038)) = some { have_ := BitVec.allOnes 64, data := 5#512 }
    ∧ ({ have_ := BitVec.allOnes 64, data := 5#512 } : CLine).serves u.clock (u.me.stampFor (s.me.tainted 2)) (page0.phys 0x100000038 % 64) 8
      = true ∧ (u.lineHit (u.me.stampFor (s.me.tainted 2)) 0x100000038 8).isSome = true := by decide +kernel

/-- The page without the cluster cache. -/
def globNc (x y z : Nat) : State := (globRegs x y z).modCluster 0 fun c => { c with tlb := [{ page0 with nc := true }] }

/-- A load of that page, and a store to the page with the cache. -/
theorem witness_ScalarLoadsAndStores_uncached :
    let s := globNc 0 0x100000038 0
    let u := s.started (.dst 1) (.src 2) .none
    let t := u.pushLine 0 (lineOf (page0.phys 0x100000038)) true
    let w := globRegs 7 0x100000038 0
    let v := w.started (.src 1) (.src 2) .none
    s.ready2 1 2 = true ∧ u.globalOk 0x100000038 8 8 = true ∧ u.hitFor 0x100000038 0 = some { page0 with nc := true }
    ∧ u.cached u.cur.core { page0 with nc := true } = false ∧ t.ownPending t.cur.core t.cur.ctx 0 0 = false
    ∧ (t.readPoc (page0.phys 0x100000038) 8).isSome = true
    ∧ w.ready (.src 1) (.src 2) .none = true ∧ w.quiet (.src 1) (.src 2) .none = true ∧ v.letsGo none = true ∧ v.globalOk 0x100000038 8 8 = true
    ∧ ((v.releasing none).storeHits (cellsAt 0x100000038 (leBytes 8 7))).isSome = true := by decide +kernel

/-- The page mapped to host memory or to peer 0, device 7, whose answer to a load of eight bytes has arrived. -/
def globPa (pa : Nat) : State :=
  let s := glob fun c => { c with regs := [(2, wd 0x100000000)], pend := [⟨1, 0x100000000, some (.bytes (List.replicate 8 3#8))⟩] }
  { s.modCluster 0 fun c => { c with tlb := [{ page0 with pa := pa, nc := true }], cache := [] } with
      peers := [(0, { ep := 7, valid := true, feotte := true })] }
/-- Loads from host memory and from a peer. -/
theorem witness_ScalarLoadsAndStores_ranges : ∀ p ∈ [(0x1000000000000, PaKind.host, 0#8), (0x80000000000000, .peer 0, 3#8)],
    let s := globPa p.1
    let u := s.started (.dst 1) (.src 2) .none
    s.ready2 1 2 = true ∧ u.globalOk 0x100000000 8 8 = true ∧ (u.hitFor 0x100000000 0).map (fun e => paKind (e.phys 0x100000000)) = some p.2.1
    ∧ (u.hitFor 0x100000000 0).any (u.cached u.cur.core) = false ∧ u.poc = []
    ∧ u.lineHit (u.me.stampFor (s.me.tainted 2)) 0x100000000 8 = some (List.replicate 8 p.2.2) := by decide +kernel

theorem witness_RowLoadsAndStores :
    let u := fp32.started (.row 1) (.src 2) .none
    let v := fp32.started (.row 1) (.src 2) (.src 3)
    fp32.ready (.row 1) (.src 2) .none = true ∧ fp32.quiet (.row 1) (.src 2) .none = true ∧ u.localWin 0 256 = some .scratch
    ∧ u.localWin 3840 256 = some .scratch ∧ u.letsGo none = true ∧ isAny fp32.me.vtype = true
    ∧ u.inScratch 4 1 (maskedLanes fp32.me 1 3840) = true
    ∧ fp32.ready (.row 1) (.src 2) (.src 3) = true ∧ fp32.quiet (.row 1) (.src 2) (.src 3) = true
    ∧ v.inScratch 4 4 (stridedLanes fp32.me 1 0#64 4#64) = true ∧ v.inScratch 4 4 (stridedLanes fp32.me 0 252#64 (w64 (-4))) = true := by decide +kernel
/-- Indices within the bound, and an index at the bound with GTRAP clear. -/
theorem witness_RowLoadsAndStores_indexed :
    let s := at_ fun c => { c with vtype := 1, gbound := 1#64 }
    let t := s.modMyCore fun k => k.setRow 3 1#2048
    let u := s.started (.row 1) (.src 2) (.row 3)
    let v := t.started (.row 1) (.src 2) (.row 3)
    let all := indexedLanes v.me 0 0 (v.rowOf 3)
    s.ready (.row 1) (.src 2) (.row 3) = true ∧ s.quiet (.row 1) (.src 2) (.row 3) = true ∧ 0 < laneCount s.me.vtype / 64
    ∧ ((indexedLanes u.me 0 0 (u.rowOf 3)).filter fun q => outOfBound u.me q.2) = []
    ∧ (all.filter fun q => outOfBound v.me q.2).map (·.1) = [0] ∧ wbit t.me.gbound 63 = false
    ∧ v.inScratch 4 4 ((all.filter fun q => !outOfBound v.me q.2).map fun q => (q.1, (0#64 + wd (4 * q.2)).toNat)) = true := by decide +kernel

/-- Four lines of the page in the cache, an address in x2, a stride in x3, and the lanes 0 to 3 active under mask 1. -/
def globRows : State :=
  (((globRegs 0 0x100000000 4).withMe fun x => { x.setMask 1 0xF#256 with vtype := 1 }).modMyCore fun k => k.setRow 3 3#2048).modCluster 0 fun c =>
    { c with cache := (List.range 4).map fun l => (l, { have_ := BitVec.allOnes 64, data := 5#512 }) }

/-- Whole rows, active lanes, strided lanes and lanes by index, loaded from the global window and stored to it. -/
theorem witness_RowLoadsAndStores_global :
    let s := globRows
    let u := s.started (.row 1) (.src 2) .none
    let v := s.started (.row 1) (.src 2) (.src 3)
    let w := s.started (.row 1) (.src 2) (.row 3)
    let x := s.me
    let near := maskedLanes x 1 0x100000000
    let far := stridedLanes x 1 0x100000000#64 4#64
    let at_ := (indexedLanes w.me 0 1 (w.rowOf 3)).map fun q => (q.1, (0x100000000#64 + wd (4 * q.2)).toNat)
    s.ready (.row 1) (.src 2) .none = true ∧ s.quiet (.row 1) (.src 2) .none = true ∧ u.globalOk 0x100000000 256 8 = true
    ∧ (u.loads (u.me.stampFor (x.tainted 2)) .glob 0x100000000 256).isSome = true ∧ u.letsGo none = true
    ∧ ((u.releasing none).storeHits (cellsAt 0x100000000 (leBytes 256 (u.rowOf 1).toNat))).isSome = true
    ∧ near.length = 4 ∧ (u.laneHits (u.me.stampFor (x.tainted 2)) 4 1 near).isSome = true ∧ u.inGlob 4 1 near = true
    ∧ ((u.releasing none).storeHits (lanesCells (u.rowOf 1) 4 near)).isSome = true
    ∧ s.ready (.row 1) (.src 2) (.src 3) = true ∧ s.quiet (.row 1) (.src 2) (.src 3) = true ∧ far.length = 4
    ∧ (v.laneHits (v.me.stampFor (x.tainted 2 || x.tainted 3)) 4 4 far).isSome = true ∧ v.inGlob 4 4 far = true
    ∧ ((v.releasing none).storeHits (lanesCells (v.rowOf 1) 4 far)).isSome = true
    ∧ s.ready (.row 1) (.src 2) (.row 3) = true ∧ s.quiet (.row 1) (.src 2) (.row 3) = true ∧ at_.length = 4
    ∧ ((indexedLanes w.me 0 1 (w.rowOf 3)).filter fun q => outOfBound w.me q.2) = []
    ∧ (w.laneHits (w.me.stampFor (x.tainted 2)) 4 4 at_).isSome = true ∧ w.inGlob 4 4 at_ = true
    ∧ ((w.releasing none).storeHits (lanesCells (w.rowOf 1) 4 at_)).isSome = true := by decide +kernel

theorem witness_LocalAtomics :
    base.ready (.dst 1) (.src 2) (.src 3) = true ∧ base.quiet (.dst 1) (.src 2) (.src 3) = true
    ∧ base.ready (.both 1) (.src 2) (.src 3) = true ∧ base.quiet (.both 1) (.src 2) (.src 3) = true
    ∧ (base.started (.dst 1) (.src 2) (.src 3)).letsGo (some ⟨3, 5, 0⟩) = true
    ∧ (base.started (.dst 1) (.src 2) (.src 3)).localWin 0 8 = some .scratch ∧ base.ready (.dst 0) (.src 2) (.src 3) = true := by decide +kernel

/-- The same page, with the answer to a request about its first byte arrived. -/
def answered : State := glob fun c =>
  { c with regs := [(2, wd 0x100000000)], pend := [⟨1, 0x100000000, some (.word 0#64)⟩] }

/-- An atomic answered, and a posted one. -/
theorem witness_LocalAtomics_global :
    let u := answered.started (.dst 1) (.src 2) (.src 3)
    let s := globRegs 0 0x100000000 0
    let v := s.started (.dst 0) (.src 2) (.src 3)
    answered.ready (.dst 1) (.src 2) (.src 3) = true ∧ answered.quiet (.dst 1) (.src 2) (.src 3) = true ∧ u.letsGo none = true
    ∧ u.globalOk 0x100000000 8 8 = true ∧ (u.me.asked 0x100000000).map (·.ans) = some (some (.word 0#64))
    ∧ s.ready (.dst 0) (.src 2) (.src 3) = true ∧ s.quiet (.dst 0) (.src 2) (.src 3) = true ∧ v.letsGo none = true
    ∧ v.globalOk 0x100000000 8 8 = true ∧ (v.releasing none).hitFor 0x100000000 3 = some page0
    ∧ ((v.releasing none).reachPeer (page0.phys 0x100000000)).isNone = true
    ∧ (LogOp.amo .add 3 false 0#64 0#64).reaches (v.releasing none) (page0.phys 0x100000000) = true := by decide +kernel

/-- A posted atomic that acquires, and the access that it waits for. -/
theorem witness_LocalAtomics_acquire :
    let mo : Option MemOrd := some ⟨4, 1, 0⟩
    let s := globRegs 0 0x100000000 0
    let u := s.started (.dst 0) (.src 2) (.src 3)
    let v := (u.releasing mo).posted 0x100000000 (LogOp.amo .add 3 false 0#64 0#64) page0
    isAcquire mo = true ∧ u.letsGo mo = true ∧ (u.releasing mo).hitFor 0x100000000 3 = some page0 ∧ v.postedLeft 0 0 0x100000000 = true := by
  decide +kernel

theorem witness_ShippedOperations :
    let u := answered.started (.src 1) (.src 2) (.src 3)
    let v := answered.started .none (.src 2) (.src 3)
    let w := answered.started .none (.src 2) .none
    let s := globRegs 0 0x100000000 0
    let t := s.started (.src 1) (.src 2) (.src 3)
    answered.ready (.src 1) (.src 2) (.src 3) (q5Need answered.me 2) = true ∧ answered.quiet (.src 1) (.src 2) (.src 3) = true
    ∧ u.globalOk 0x100000000 1 (u.shipAlign 0) = true ∧ u.letsGo none = true ∧ u.answeredAt 0x100000000 = true
    ∧ answered.ready .none (.src 2) (.src 3) (q5Need answered.me 1) = true ∧ v.globalOk 0x100000000 64 64 = true
    ∧ v.answeredAt 0x100000000 = true ∧ answered.ready .none (.src 2) .none (q5Need answered.me 2) = true
    ∧ w.globalOk 0x100000000 64 64 = true ∧ w.answeredAt 0x100000000 = true
    ∧ s.ready (.src 1) (.src 2) (.src 3) = true ∧ s.quiet (.src 1) (.src 2) (.src 3) = true ∧ t.globalOk 0x100000000 1 (t.shipAlign 0) = true
    ∧ t.letsGo none = true ∧ t.hitFor 0x100000000 3 = some page0
    ∧ (LogOp.ship 0#64 0#64).reaches (t.releasing none) (page0.phys 0x100000000) = true := by decide +kernel

theorem witness_Signals :
    let s := globRegs 0 0x100000008 0
    let u := s.started .none (.src 2) (.src 3)
    let w := s.started .none (.src 2) .none
    let v := s.started (.dst 1) (.src 2) (.src 3)
    let r := s.started (.dst 1) (.src 2) .none
    let t := v.flushFor v.cur.core (page0.phys 0x100000008)
    s.ready .none (.src 2) (.src 3) = true ∧ s.quiet .none (.src 2) (.src 3) = true ∧ s.ready .none (.src 2) .none = true
    ∧ u.globalOk 0x100000008 8 8 = true ∧ u.letsGo none = true ∧ u.hitFor 0x100000008 3 = some page0
    ∧ (LogOp.sig false 1).reaches (u.releasing none) (page0.phys 0x100000008) = true ∧ w.hitFor 0x100000008 3 = some page0
    ∧ s.ready (.dst 1) (.src 2) (.src 3) = true ∧ s.ready (.dst 1) (.src 2) .none = true ∧ v.hitFor 0x100000008 0 = some page0
    ∧ r.hitFor 0x100000008 0 = some page0
    ∧ paKind (page0.phys 0x100000008) = .sealed ∧ t.ownPending t.cur.core t.cur.ctx 0 0 = false
    ∧ t.readPoc (page0.phys 0x100000008) 8 = some (List.replicate 8 0#8) ∧ (0 : Int) ≤ sg 0#64 := by decide +kernel

/-- Two bytes copied within the scratchpad. -/
theorem witness_CopyCommands :
    let s := regs3 0x100 0x200 2
    let u := s.started (.src 1) (.src 2) (.src 3)
    let h := fun (op : Nat) => wd (2 + op * 2 ^ 60)
    s.ready (.src 1) (.src 2) (.src 3) [(4, 3)] = true ∧ s.quiet (.src 1) (.src 2) (.src 3) = true
    ∧ u.copyCheck 0 0 u.me (h 1) 0x200#64 0x100#64 = none ∧ u.copyCheck 0 0 u.me (h 4) 0x200#64 0x100#64 = none
    ∧ u.copyCheck 0 0 u.me (wd (2 + 2 * 2 ^ 60)) 0x200#64 0x100#64 = none := by decide +kernel

/-- A context with a matrix ring of 16 slots of 256 bytes under number 0. -/
def ringState (f : Ctx → Ctx) : State := (at_ f).modMyCore fun k =>
  { k with mx := [(0, { rings := [(0, { base := 0, slotsz := 256, nslot := 16, gps := 1 })] })] }

theorem witness_CopyCommands_ring :
    let s := ringState fun c => { c with regs := [(1, 0#64), (2, 0x200#64), (3, 256#64)] }
    let u := s.started (.src 1) (.src 2) (.src 3)
    s.ready (.src 1) (.src 2) (.src 3) [(4, 3)] = true ∧ u.copyCheck 0 0 u.me (wd (256 + 3 * 2 ^ 60)) 0x200#64 0#64 = none := by decide +kernel

theorem witness_FencesAndCacheMaintenance :
    let s := globRegs 0x100000000 64 0
    let u := s.started .none (.src 1) .none
    s.ready .none .none .none = true ∧ s.quiet .none .none .none = true ∧ (s.started .none .none .none).mayRelease 5 = true
    ∧ s.readyA 1 = true ∧ inGlobal 0x100000000 = true ∧ inGlobal 0 = false
    ∧ (u.cluster (clusterOf u.cur.core)).hit u.me.part u.me.job 0x100000000 0 = some page0 ∧ u.cached u.cur.core page0 = true
    ∧ paKind (page0.phys 0x100000000) = .sealed ∧ s.readyAB 1 2 = true ∧ s.me.relAt = none
    ∧ ((s.cluster 0).cache.select fun _ _ => true) = [0] ∧ (∀ l ∈ [0], ((s.cluster 0).cache.get {} l).dirty = 0#64)
    ∧ (globRegs 0x100000000 0 0).readyAB 1 2 = true := by decide +kernel

/-- A count of one destination, and one of 64 destinations. -/
theorem witness_Sends :
    let s := regs3 0 1 0
    let t := regs3 0 64 0
    let u := t.started (.src 1) (.src 2) (launchField 0)
    s.ready .none (.src 2) (launchField 0) [(0, 1)] = true ∧ s.ready .none (.src 2) (launchField 3) [(0, 1)] = true
    ∧ s.quiet .none (.src 2) (launchField 0) = true
    ∧ (s.started .none (.src 2) (launchField 0)).sendOk (wbit 1#64 30) 1#64 false [destOf 1#64] = true
    ∧ t.ready (.src 1) (.src 2) (launchField 0) [(0, 1)] = true ∧ t.quiet (.src 1) (.src 2) (launchField 0) = true
    ∧ u.localWin 0 512 = some .scratch ∧ u.sendOk false 64#64 true (List.replicate 64 (destOf 0#64)) = true
    ∧ (u.vals (.src 1) (.src 2) (launchField 0)).d.toNat ≤ 48
    ∧ (regs3 48 64 0).ready (.src 1) (.src 2) (launchField 0) [(0, 1)] = true
    ∧ s.ready .none (.src 2) .none [(0, 1)] = true ∧ s.quiet .none (.src 2) .none = true ∧ s.me.ident.kind ≠ 2
    ∧ (s.started .none (.src 2) .none).sendOk false 1#64 false [⟨0, false, 0, 0⟩] = true := by decide +kernel

/-- A message of launch 1 of partition 0 on the mesh toward core 0, of which partition 0 owns the cluster. -/
def arriving (m : Msg) : State :=
  let t := base.modCluster 0 fun c => { c with valid := true }
  let u := t.modMyCore fun k => { k with streams := [(2, { st := .bound, lid := 1 })] }
  { u with mesh := [⟨m, 0, .hw⟩] }

@[inherit_doc arriving]
def taskMsg : Msg := { kind := .task, lid := 1, handler := 0, payload := List.replicate 6 0#64 }
@[inherit_doc arriving]
def streamMsg (k : MsgKind) : Msg := { kind := k, lid := 1, handler := 2, ord := true, dest := 48 * 2 ^ 12, payload := List.replicate 6 0#64 }

theorem witness_Arrivals : (arriving taskMsg).canArrive 0 = some ⟨taskMsg, 0, .hw⟩
    ∧ (arriving (streamMsg .stream)).canArrive 0 = some ⟨streamMsg .stream, 0, .hw⟩
    ∧ (arriving (streamMsg .streamend)).canArrive 0 = some ⟨streamMsg .streamend, 0, .hw⟩
    ∧ (let t := (arriving (streamMsg .stream)).leaveMesh 0 ⟨streamMsg .stream, 0, .hw⟩
      t.stubbed 0 (streamMsg .stream) = false ∧ t.checkMsg 0 (streamMsg .stream) = none)
    ∧ ((arriving (streamMsg .streamend)).leaveMesh 0 ⟨streamMsg .streamend, 0, .hw⟩).fresh.2.stubbed 0 (streamMsg .streamend) = false := by
  refine ⟨by decide +kernel, by decide +kernel, by decide +kernel, ?_, ?_⟩
  · simp only [State.leaveMesh, State.flowDone]
    generalize ((streamMsg .stream).ord && (streamMsg .stream).sdev == selfEp) = b
    cases b <;> decide +kernel
  · simp only [State.leaveMesh, State.flowDone]
    generalize ((streamMsg .streamend).ord && (streamMsg .streamend).sdev == selfEp) = b
    cases b <;> decide +kernel

/-- A send word of the context at issue at the head of q0. -/
def sending : State := at_ fun c =>
  { c with q0 := [.send ⟨.task, false, false, 0, 0, 1, 0, 0, false, [⟨5, false, 0, 0⟩], none⟩] }

@[inherit_doc sending]
def sendWord0 : SendWord := { kind := .task, pri := false, ord := false, flow := 0, handler := 0, lid := 1, lgen := 0, dests := [⟨5, false, 0, 0⟩] }
@[inherit_doc sending]
theorem sending_head : headOf (sending.ctx 0 0).q0 = some ([], sendWord0, []) := by decide +kernel

/-- A context place of launch 1 that is free, with an H message waiting and a ring that holds one. -/
def waiting : State := base.modMyCore fun k =>
  { k with ctxs := [], hq := [⟨{ taskMsg with pri := true }, 0, none⟩] }

@[inherit_doc waiting]
def ringMsg : InMsg := ⟨{ taskMsg with pri := true }, 0, none⟩

theorem witness_MessageSteps : (sending.core 0).niOrder = [0] ∧ (∃ u v, sending.takeHead 0 0 = (some u, v))
    ∧ ({ base with acks := [.ctx 0 0] } : State).acks[0]? = some (.ctx 0 0) ∧ 0 < 2 ^ 40
    ∧ (∃ r, ((base.modMyCore fun k => { k with resvs := k.resvs.map fun r => { r with ringQ := [ringMsg] } }).core 0).resvs = [r]
      ∧ r.stub = false ∧ r.ringQ = [ringMsg]) ∧ ringMsg.msg.pri = true ∧ (base.core 0).hq.length < 16
    ∧ (waiting.core 0).hq = [ringMsg] ∧ (waiting.dispatchable 0 ringMsg).isSome = true := by
  refine ⟨by decide +kernel, ?_, by decide +kernel, by decide, ⟨_, rfl, rfl, rfl⟩, rfl, by decide +kernel, rfl, by decide +kernel⟩
  have h : (0 : Nat) = selfEp ∨ (0 : Nat) ≠ selfEp := Decidable.em _
  rcases h with h | h
  · exact ⟨_, _, by simp [State.takeHead, sending_head, State.route, ← h, State.isFw]; rfl⟩
  · exact ⟨_, _, by simp [State.takeHead, sending_head, sendWord0, State.route, h, State.peerAt]; rfl⟩

/-- Bytes placed in the scratchpad of core 0, where launch 1's window begins. -/
def withSp (s : State) (a : Nat) (b : List Byte) : State := s.modCore 0 fun k => { k with sp := k.sp.store a b }

/-- A computation that ends well has a value and a state. -/
def okRes {α : Type} (r : EStateM.Result Stop State α) : Bool := match r with
  | .ok _ _ => true
  | .error _ _ => false
@[inherit_doc okRes] def resState {α : Type} (r : EStateM.Result Stop State α) : State := match r with
  | .ok _ t => t
  | .error _ t => t
@[inherit_doc okRes] theorem okRes_spec {α : Type} (r : EStateM.Result Stop State α) (h : okRes r = true) : ∃ v, r = .ok v (resState r) := by
  cases r with
  | ok v t => exact ⟨v, rfl⟩
  | error e t => cases h

/-- A chain of no step on FP32 at scratchpad address 0, the context's output going to 256. -/
def chained : State := withSp (regs3 256 0 0) 0 [1#8, 1#8]

/-- A context at supervisor level, and one of a column core. -/
def super1 (f : Ctx → Ctx) : State := at_ fun c => f { c with lid := 0 }
@[inherit_doc super1]
def thoelle : Thoelle :=
  { bank := 0, svn := 1, width := 1, roles := [1#8], capdef := 2700, hbmtrip := 100, wddef := 0#64, fabdef := 0#64, fwdigest := [], signed := [] }
@[inherit_doc super1]
def firm (f : Ctx → Ctx) : State :=
  { at_ f with cores := [(115, (at_ f).core 0)], cur := { core := 115 }, board := { (at_ f).board with table := some thoelle, stage := 5 } }

theorem witness_TaskAndStreamTable :
    let v := chained.started (.both 1) (.src 2) (.row 3)
    let s := withSp (regs3 0 (0x100 * 2 ^ 16 + 8 * 2 ^ 40 + 2) 0) 0 [1#8, 1#8]
    let w := s.started (.dst 1) (.src 2) (.src 3)
    base.readyD 1 = true ∧ specialKnown 0x13 = true ∧ specialKnown 0x120 = true
    ∧ 1 ≤ ((super1 id).levelOf (super1 id).cur.core (super1 id).me).rank ∧ (super1 id).readyD 1 = true
    ∧ chained.ready (.both 1) (.src 2) (.row 3) = true ∧ chained.quiet (.both 1) (.src 2) (.row 3) = true
    ∧ v.localWin 0 40 = some .scratch ∧ ChainDesc.parse (v.here .scratch 0 40) = some ⟨1, 1, 0, false, []⟩
    ∧ (((ChainDesc.run ⟨1, 1, 0, false, []⟩ (leBytes 256 (v.rowOf 3).toNat)).map (·.1)).flatten).length = 256
    ∧ v.localWin 256 256 = some .scratch ∧ (256 : Nat) % (laneBits 1 / 8) = 0
    ∧ s.ready (.dst 1) (.src 2) (.src 3) = true ∧ s.quiet (.dst 1) (.src 2) (.src 3) = true
    ∧ (0x100 : Nat) % 8 = 0 ∧ (8 : Nat) ≠ 0 ∧ 0x100 + 8 ≤ (w.resvOf w.cur.core w.me).spBytes
    ∧ w.localWin 0 40 = some .scratch ∧ ChainDesc.parse (w.here .scratch 0 40) = some ⟨1, 1, 0, false, []⟩ ∧ s.ready2 1 2 = true := by
  decide +kernel

/-- An 8 by 8 MMA of one group from ring 0. -/
def mmaHead : Nat := 2 ^ 32

theorem witness_MatrixInstructions :
    let s := withSp (ringState fun c => { c with regs := [(1, wd mmaHead), (2, 0#64), (3, 1#64)] }) 16
      ([0#8, 1#8, 0#8, 0#8, 64#8, 0#8, 0#8, 0#8, 2#8, 1#8])
    let u := s.started .none (.src 1) .none
    let v := s.started .none (.src 1) (.src 2)
    s.ready .none (.src 1) .none [(2, 1)] = true ∧ s.quiet .none (.src 1) .none = true
    ∧ (∀ op ∈ [1, 3, 5, 6], u.mxCheck 0 0 u.me (wd (mmaHead + op)) 0#64 = none)
    ∧ s.ready .none (.src 1) (.src 2) [(2, 2)] = true ∧ s.quiet .none (.src 1) (.src 2) = true
    ∧ v.mxCheck 0 0 v.me (wd (mmaHead + 4)) 0#64 = none ∧ v.mxCheck 0 0 v.me (wd (mmaHead + 2)) 1#64 = none
    ∧ fmtValid 0xA 0xA 0 = true ∧ fmtValid 8 8 1 = true ∧ s.ready .none .none .none [(2, 1)] = true ∧ s.quiet .none .none .none = true
    ∧ s.ready .none (.src 2) .none [(2, 3)] = true ∧ (s.started .none (.src 2) .none).localWin 0 16 = some .scratch
    ∧ s.readyAB 2 2 = true ∧ s.readyAB 3 3 = true ∧ s.ring 0 0 0 = some { base := 0, slotsz := 256, nslot := 16, gps := 1 }
    ∧ s.ringNamed 0 0 0 = false ∧ s.ring 0 0 1 = none ∧ s.localWin 16 16 = some .scratch ∧ ringBad (s.here .scratch 16 16) = false
    ∧ 256 + 2 * 64 ≤ (s.resvOf 0 s.me).spBytes ∧ s.ringRead 0 0 0 = false ∧ s.ringFilled 0 0 0 = false ∧ s.readyD 1 = true ∧ (16 : Nat) ≤ 16 := by decide +kernel

theorem witness_UnitRequests :
    let s := withSp base 0 (List.replicate 12 0#8 ++ [1#8, 0#8, 1#8])
    let u := s.started .none (.src 1) .none
    s.ready (.row 1) (.row 2) .none [(7, 1)] = true ∧ s.quiet (.row 1) (.row 2) .none = true
    ∧ s.ready .none (.src 1) .none [(7, 1)] = true ∧ s.quiet .none (.src 1) .none = true
    ∧ s.ready .none (.src 1) .none [(6, 1)] = true ∧ u.localWin 0 32 = some .scratch ∧ lsBad (u.here .scratch 0 32) = false
    ∧ u.localWin 32 (lsRecBytes (u.here .scratch 0 32)) = some .scratch ∧ s.ready .none .none .none = true
    ∧ s.quiet .none .none .none = true ∧ s.readyD 1 = true := by decide +kernel

theorem witness_WorkQueueInstructions : base.ready .none (.src 1) (.src 2) [(1, 2)] = true ∧ base.quiet .none (.src 1) (.src 2) = true
    ∧ base.ready .none (.src 1) .none [(1, 1)] = true ∧ base.quiet .none (.src 1) .none = true := by decide +kernel

/-- A page of the memory of peer 0, device 7, after page 0, and a send rod and a receive rod of partition 0. -/
def rodState (f : Ctx → Ctx) (r : Rod) : State :=
  let t := (glob f).modCluster 0 fun c =>
    { c with tlb := c.tlb ++ [{ page0 with va := 0x100010000, pa := 0x80000000000000 }] }
  { t with peers := [(0, { ep := 7, valid := true, feotte := true })], rodblk := [(0, (0, true))], rods := [(0, r)] }

@[inherit_doc rodState] def sendRod : Rod := { st := .open_, send := true, tdev := 7 }

/-- A setup block at scratchpad address 0 for a rod whose flag, or whose replay list, lies at the page's first byte. -/
def rodBlock (send : Bool) : State :=
  withSp (rodState (fun c => { c with regs := [(2, if send then 1#64 else 0#64), (3, 0#64)] }) {}) 0
    (if send then [7#8] ++ List.replicate 7 0#8 ++ leBytes 8 0x100000000 else leBytes 8 0x100000000)

theorem witness_RodInstructions :
    let s := rodBlock false
    let u := s.started (.dst 1) (.src 2) (.src 3)
    let t := rodBlock true
    let v := t.started (.dst 1) (.src 2) (.src 3)
    s.ready3 1 2 3 = true ∧ u.localWin 0 32 = some .scratch ∧ okRes (setupAddr (fieldAt (u.here .scratch 0 32) 0 8) 8 8 1 u) = true
    ∧ t.ready3 1 2 3 = true ∧ okRes (setupAddr (fieldAt (v.here .scratch 0 32) 8 8) 32768 64 3 v) = true
    ∧ v.feottePeer (fieldAt (v.here .scratch 0 32) 0 2) = true ∧ wbit (v.vals (.dst 1) (.src 2) (.src 3)).a 0 = true
    ∧ wbit (u.vals (.dst 1) (.src 2) (.src 3)).a 0 = false
    ∧ u.rodOwned u.me.part 0 = true ∧ u.rodOwned u.me.part 63 = true ∧ u.rodOwned u.me.part 64 = false := by decide +kernel
/-- Each state in which RODWAIT completes, a rod to free, and puts of no byte and of 65,536 bytes. -/
theorem witness_RodInstructions_states :
    let done : Rod := { st := .done, genAt := 0 }
    let s := rodState (fun c => { c with regs := [(1, wd 0x100010000), (2, wd 0x100000000), (3, wd (65536 * 2 ^ 32))] }) sendRod
    let u := s.started (.src 1) (.src 2) (.src 3)
    let p := putSource 0x100000000 65536 u
    let q := putDest 7 0x100010000 65536 (resState p)
    (rodState id done).ready3 1 2 3 = true ∧ (rodState id done).rodOwned 0 0 = true ∧ done.use = .program ∧ done.rearm = false
    ∧ done.genAt + Config.us 16 ≤ Config.us 16 ∧ s.readyA 1 = true ∧ sendRod.st ≠ .free ∧ sendRod.st ≠ .quarantine
    ∧ s.ready (.src 1) (.src 2) (.src 3) = true ∧ s.quiet (.src 1) (.src 2) (.src 3) = true ∧ okRes p = true ∧ okRes q = true
    ∧ (resState q).feottePeer 7 = true ∧ okRes (putSource 0x100000000 0 u) = true ∧ okRes (putDest 7 0x100010000 0 u) = true
    ∧ ((resState q).puts.filter fun p => p.2.core == some 0).length < 16 ∧ (0 : Nat) ≠ 1024 := by decide +kernel

theorem witness_PeerReadsAndFlows :
    let s := rodState (fun c => { c with regs := [(1, 0#64), (2, wd 0x100010000), (3, wd (256 * 2 ^ 32))] }) {}
    let u := s.started (.src 1) (.src 2) (.src 3)
    let p := mapIssue 0x100010000 256 0 peerOnly u
    let t := { base with flows := [(0, [{ handle := 5, cls := .l, dest := ⟨0, false, 0, 7⟩, part := 0, lid := 1, lgen := 0 }])] }
    s.ready (.src 1) (.src 2) (.src 3) [(5, 2)] = true ∧ s.quiet (.src 1) (.src 2) (.src 3) = true ∧ inGlobal 0x100010000 = true
    ∧ inGlobal (0x100010000 + (256 - 1)) = true ∧ okRes p = true ∧ okRes (getDest 0 256 (resState p)) = true
    ∧ ((resState p).reachPeer 0x80000000000000).any (fun q => q.isol) = false
    ∧ (regs3 0 7 5).ready3 1 2 3 = true ∧ wbits 5#64 7 0 ≠ 0
    ∧ t.readyA 1 = true ∧ (t.flowsOf 0).any (fun f => f.cls != .atomic && f.handle == 5 && !f.closing) = true := by decide +kernel

/-- A graph of one NOP-like node and no rods, under handle 0 of job 0 of partition 0. -/
def graph0 : Graph :=
  { key := ⟨0, 0, 0⟩, rank := 0, nranks := 1, defaddr := 0, deflen := 0, failrec := 0, rods := [],
    nodes := [⟨1, false, 0, [], 2 ^ 63 + 0x100000000, 2 ^ 63 + 0x100000100, 64, 0, 0, 0#64, 0#64⟩] }

@[inherit_doc graph0]
def inst0 : GInst := { num := 0, die := 0, owner := .run 0 0, phase := 0, base := List.replicate 8 0, counts := [0], nodes := [.running], begun := [false] }

@[inherit_doc graph0]
def withGraph (s : State) (i : Option GInst) (stopped : Bool := false) : State :=
  { s with graphs := [{ graph0 with inst := i, stopped := stopped }] }

theorem witness_GraphXallAndCancel_grun :
    let u := fun (s : State) => s.started (.dst 1) (.src 2) (.src 3)
    (∀ s ∈ [withGraph base none, withGraph base (some inst0), withGraph base none true],
      s.ready3 1 2 3 = true ∧ (s.me.pend.find? fun p => p.key == 0) = none ∧ ((u s).graph ⟨0, 0, 0⟩).isSome = true
      ∧ (u s).localWin 0 80 = some .scratch ∧ okRes (checkCompsig 0 (u s)) = true ∧ (resState (checkCompsig 0 (u s))).mayRelease 5 = true
      ∧ (u s).spacing [] ≤ (u s).clock)
    ∧ ((u (withGraph base none)).graph ⟨0, 0, 0⟩).map (fun g => (g.stopped, g.inst.isNone)) = some (false, true)
    ∧ ((u (withGraph base (some inst0))).graph ⟨0, 0, 0⟩).map (fun g => (g.stopped, g.inst.isSome)) = some (false, true)
    ∧ ((u (withGraph base none true)).graph ⟨0, 0, 0⟩).map (fun g => g.stopped) = some true := by decide +kernel

/-- CANCEL of level 1 of launch 1, of a level 4 by a user and by a supervisor, of nothing active, and the settled level afterwards. -/
theorem witness_GraphXallAndCancel_cancel :
    let s := regs3 0 (1 + 2 ^ 16) 0
    let l := ({ key := ⟨0, 1, 0⟩, die := 0, job := 0, phase := 0, owner := .packet 0, regs := 24, rows := 8, maxctx := 1, spBytes := 4096,
                stkBytes := 256, fpctl := 0, vtype := 0, handlers := [], tmap := ⟨0, 0, 0, 0, 0, 0, 0, 0, 0, 0, 0, 0⟩, cores := [] } : Launch)
    let t : State := { s with launches := [l] }
    let u := t.started (.dst 1) (.src 2) (.src 3)
    let w := { s with jobs := [{ desc := { job := 0, jgen := 0, qtlen := 1, part := 0 }, addr := 0 }] }
    s.ready3 1 2 3 = true ∧ u.me.asked 1 = none ∧ s.cancelActive 1 0 0 1 0 = false ∧ u.cancelActive 1 0 0 1 0 = true
    ∧ u.mayRelease 5 = true ∧ s.levelOf 0 s.me = .user ∧ (super1 id).levelOf 0 (super1 id).me = .supervisor
    ∧ w.cancelActive 4 0 0 0 0 = true ∧ u.me.within 1 1 = true ∧ u.me.within 1 2 = false ∧ s.cancelSettled 1 0 0 1 0 = true
    ∧ ((at_ fun c => { c with pend := [⟨0, 1, some (.word 0#64)⟩] }).me.asked 1).isSome = true
    ∧ (u.noteRelease.cancelLevel 3 0 0 5 0).cancelSettled 3 0 0 5 0 = true := by decide +kernel

theorem witness_GraphXallAndCancel_gcancel :
    let s := withGraph (regs3 0 (2 ^ 26) 0) (some inst0)
    let t := withGraph (regs3 0 0 0) (some inst0)
    let w := withGraph (regs3 0 (2 ^ 27 + 5 * 2 ^ 10) 0) none
    (s.started (.dst 1) (.src 2) .none).graph ⟨0, 0, 0⟩ = some { graph0 with inst := some inst0 }
    ∧ s.ready2 1 2 = true ∧ t.ready2 1 2 = true ∧ w.ready2 1 2 = true
    ∧ wbit (s.vals (.dst 1) (.src 2) .none).a 26 = true ∧ wbit (s.vals (.dst 1) (.src 2) .none).a 27 = false
    ∧ (inst0.num == wbits (t.vals (.dst 1) (.src 2) .none).a 25 10) = true ∧ (inst0.num == 1) = false
    ∧ wbit (w.vals (.dst 1) (.src 2) .none).a 27 = true := by decide +kernel

/-- The number of this device's endpoint as two bytes. -/
theorem selfEp_bytes : leNat [BitVec.ofNat 8 selfEp, BitVec.ofNat 8 (selfEp / 256)] = selfEp := by
  have h : selfEp < 2 ^ 16 := Config.podEndpoint.isLt
  simp [leNat]; omega

/-- The block of an XALL of two ranks in the scratchpad, its two maps, and its peer table, whose rank 0 is partition 0 of this device and
whose rank 1 is another partition: the cells of address 0 to 207. -/
def xallCells : Memory :=
  [(0, 64#8), (8, 112#8), (32, 192#8), (64, 0#8), (65, 1#8), (66, 2#8), (68, 0#8), (69, 1#8), (70, 2#8), (71, 3#8), (72, 2#8), (76, 1#8), (80, 1#8), (84, 1#8),
   (88, 2#8), (90, 1#8), (92, 1#8), (94, 1#8), (112, 0#8), (113, 1#8), (114, 2#8), (116, 0#8), (117, 1#8), (118, 2#8), (119, 3#8), (120, 2#8), (124, 1#8), (128, 1#8), (132, 1#8),
   (136, 2#8), (138, 1#8), (140, 1#8), (142, 1#8), (192, BitVec.ofNat 8 selfEp), (193, BitVec.ofNat 8 (selfEp / 256)), (202, 1#8)]

@[inherit_doc xallCells]
def xalling : State :=
  { (base.modMyCore fun k => { k with sp := xallCells }) with rodblk := [(0, (0, true))] }

@[inherit_doc xallCells]
def xallTable : List Byte :=
  [BitVec.ofNat 8 selfEp, BitVec.ofNat 8 (selfEp / 256), 0#8, 0#8, 0#8, 0#8, 0#8, 0#8, 0#8, 0#8, 1#8, 0#8, 0#8, 0#8, 0#8, 0#8]

theorem witness_GraphXallAndCancel_xall :
    let u := xalling.started .none (.src 1) .none
    let q := xallReqOf (u.here .scratch 0 64)
    let src := LMap.parse (u.here .scratch 64 48)
    let dst := LMap.parse (u.here .scratch 112 48)
    xalling.readyA 1 = true ∧ u.localWin 0 64 = some .scratch ∧ fieldAt (u.here .scratch 0 64) 48 8 = 0
    ∧ okRes (checkCompsig 0 u) = true ∧ q = ⟨64, 112, 0, 0, 192, 0⟩ ∧ u.localWin 64 48 = some .scratch
    ∧ u.localWin 112 48 = some .scratch ∧ src.bad = false ∧ dst.bad = false ∧ src.agrees dst = true
    ∧ u.localWin 192 (8 * src.nranks) = some .scratch ∧ u.mayRelease 5 = true := by decide +kernel
/-- The table that the block names, and its checks. -/
theorem witness_GraphXallAndCancel_xall_check :
    let u := xalling.started .none (.src 1) .none
    let src := LMap.parse (u.here .scratch 64 48)
    u.here .scratch 192 (8 * src.nranks) = xallTable
    ∧ ∃ x, u.xallCheck 0 0 0 0 (.run 0 0) ⟨64, 112, 0, 0, 192, 0⟩ src (.parse (u.here .scratch 112 48)) xallTable = .ok x := by
  refine ⟨rfl, ?_⟩
  have hp : peersFrom xallTable 2 = [(selfEp, 0), (0, 1)] := by
    have := selfEp_bytes
    simp [peersFrom, List.range, List.range.loop, fieldAt, xallTable, byteAt, leNat] at this ⊢
    exact this
  have hr : rankOf [(selfEp, 0), (0, 1)] 0 = some 0 := by simp [rankOf, List.range, List.range.loop]
  have hn : (LMap.parse ((xalling.started .none (.src 1) .none).here .scratch 64 48)).nranks = 2 := by decide +kernel
  simp only [State.xallCheck, hn, hp, hr]
  exact ⟨_, rfl⟩

theorem witness_TrapInstructions : base.readyA 1 = true := by decide +kernel

theorem witness_SystemInstructions :
    let f := firm fun c => { c with regs := [(3, 0#64)] }
    let s := super1 id
    let u := fun (s : State) => s.started (.dst 1) (.src 2) (.src 3)
    s.ready3 1 2 3 = true ∧ 1 ≤ (s.levelOf 0 s.me).rank ∧ (u s).mayRelease 4 = true
    ∧ f.ready3 1 2 3 = true ∧ 2 ≤ (f.levelOf 115 f.me).rank ∧ (u f).localWin 32 32 = some .scratch ∧ (u f).seals.cmd = none
    ∧ ((u ((firm id).modMyCore fun k => { k with latch := 3#64 })).myCore.latch &&& 1#64) ≠ 0#64
    ∧ ((u (firm fun c => { c with pend := [⟨0, 0, some (.word 0#64)⟩] })).me.pend.any fun p => p.ans.isSome) = true
    ∧ f.ready2 1 2 = true ∧ s.readyAB 1 2 = true ∧ (s.started .none (.src 1) (.src 2)).mayRelease 4 = true := by decide +kernel
/-- SWR of each writable register of R126, of a log word, of TCMD with its answer; CKPT in a save without and with a table; MASKW. -/
theorem witness_SystemInstructions_rest :
    let s := super1 id
    let t := (at_ fun c => { c with regs := [(1, 0x40#64)] }).modMyCore fun k => { k with save := [(0, 0, 0)], sp := [(0x40, 1#8), (0x48, 2#8), (0x4C, 1#8)] }
    let u := t.started .none (.src 1) .none
    s.readyA 1 = true ∧ (∀ sr ∈ [7, 9, 10, 11, 14], specialRO sr = false ∧ (s.me.putSpecial sr 0#64).isOk = true)
    ∧ (s.me.putSpecial 8 1#64).isOk = true ∧ wbit 0#64 28 = false
    ∧ (((super1 fun c => { c with pend := [⟨0, 0x132, some (.word 0#64)⟩] }).me.asked 0x132).bind (·.ans)).isSome = true
    ∧ s.myCore.saving s.me = false ∧ t.readyA 1 = true ∧ u.myCore.saving u.me = true ∧ u.me.masked = none ∧ (u.withMe Ctx.withdrawDeqw).drained 0 0 = true
    ∧ okRes (readLive 0x40#64 false u) = true ∧ base.me.masked = none := by decide +kernel

/-- A live job 0 of partition 0 whose tables map the 512 MiB from 0x100000000 on to device address 0, with a queue table of 8 entries at
0x100020000. -/
def mappedMem : Memory :=
  Memory.store (Memory.store (Memory.store (Memory.store [] 0x40000 (leBytes 8 0x50001)) 0x50040 (leBytes 8 0x1F)) 0x80000 (leBytes 8 0x90001))
    0x90000 (leBytes 8 0x1F)
@[inherit_doc mappedMem]
def theJob : Job := { desc := { job := 0, jgen := 0, qtlen := 8, part := 0, s1root := 0x40000, qtab := 0x100020000 }, addr := 0x30000 }
@[inherit_doc mappedMem]
def mapped : State :=
  { base with mem := mappedMem, jobs := [theJob], parts := [(0, { s2root := wd 0x80000 })], board := { base.board with stage := 5 } }

/-- An address of the mapped page translates. -/
theorem mapped_xlate : mapped.xlate 0 0 0x100020000 3 = .ok ⟨0, 0, 0x100000000, 29, 0, true, true, true, false⟩ := by decide +kernel

/-- A walk of a context in each of its states. -/
def walking (st : WalkSt) : State := { mapped with walks := [⟨3, 0, 0, 0, 0x10000, [⟨.ctx 0 0, 0x100000000, 0, false⟩], st⟩] }

@[inherit_doc walking]
def fetching : State := (glob id).modMyCore fun k => { k with fetch := [] }

theorem witness_FetchAndTranslationSteps :
    let x := fetching.ctx 0 0
    let log := base.modMyCore fun k => { k with discards := [5] }
    let grant : Grant := ⟨9, 0, 0, 0, 0, false, none, some 0⟩
    let stale := { grant with holder := some 7 }
    let far := { mapped with board := { mapped.board with grants := [stale] }, peers := [(0, { ep := 7, valid := true })] }
    let t := { mapped with clock := Config.ms 10, board := { mapped.board with grants := [grant] } }
    x.st = .running ∧ (fetching.core 0).halted = false ∧ (fetching.core 0).slotOf x = none ∧ (fetching.core 0).missing x = 0x100000000
    ∧ (fetching.cluster 0).hit 0 0 0x100000000 2 = some page0 ∧ paKind (page0.phys 0x100000000) = .sealed ∧ fetching.cached 0 page0 = true
    ∧ fetching.lineBusy 0 0 = false ∧ (fetching.cacheLine 0 0 0).isSome = true
    ∧ (∀ st ∈ [WalkSt.running, .stalled 0, .waiting], ((walking st).walk 3).map (·.st) = some st) ∧ 31 < 32
    ∧ (∀ w ∈ (walking .waiting).walks, w.st = .waiting) ∧ (log.core 0).discards.contains 5 = true
    ∧ mapped.board.stage = 5 ∧ (mapped.namedJob 0 0 0).isSome = true
    ∧ (t.board.grants.find? fun g => g.tag == 9 && g.invalidated.isSome) = some grant
    ∧ (stale.holder.bind far.peerAt).map (fun p => (p.1, p.2.isol)) = some (0, false)
    ∧ (t.board.grants.find? fun g => g.tag == 9) = some grant ∧ 0 + Config.ms 10 ≤ t.clock ∧ grant.holder.bind t.peerAt = none
    ∧ ((rodState id {}).peerAt 7).map (·.1) = some 0 := by decide +kernel
/-- The host's request is for the job's page as it stands. -/
theorem witness_FetchAndTranslationSteps_host (b : List Byte) : mapped.peerAsks 0 none b = mapped := rfl
/-- A translation for reading, and one for reading and writing, whose answer is the write's. -/
theorem witness_FetchAndTranslationSteps_translate :
    accOf 1 = 0 ∧ accOf 2 = 1 ∧ accOf 3 = 3 ∧ (∃ e, mapped.xlate 0 0 0x100020000 1 = .ok e ∧ paKind e.pa = .sealed) ∧
    (∃ e, mapped.xlate 0 0 0x100020000 0 = .ok e ∧ paKind e.pa = .sealed) ∧ ∃ e, mapped.xlate 0 0 0x100020000 3 = .ok e ∧ paKind e.pa = .sealed :=
  ⟨by decide, by decide, by decide, ⟨⟨0, 0, 0x100000000, 29, 0, true, true, true, false⟩, by decide +kernel, by decide +kernel⟩,
    ⟨⟨0, 0, 0x100000000, 29, 0, true, true, true, false⟩, by decide +kernel, by decide +kernel⟩, ⟨⟨0, 0, 0x100000000, 29, 0, true, true, true, false⟩, mapped_xlate, by decide +kernel⟩⟩

/-- A request of context 0 at its seal engine. -/
def asking (op : PocOp) : State := { base with poc := [{ id := 1, origin := .ctx 0 0, part := 0, job := 0, pa := 0x1000, va := 0x100001000, op := op, takes := true }] }

theorem witness_PointOfCoherenceSteps :
    (∀ op ∈ [PocOp.write [(0x1000, 7#8)], .full [7#8], .amo .add 3 false 1#64 0#64, .ship 0#64 0#64, .ship 0#64 7#64, .xadd 2 0#64, .sigAdd 1, .sigNeg, .kmax 3, .ctrl 1],
      ((asking op).pocTurn 0 true).map (·.op) = some op ∧ ((asking op).dropPoc 0).tileFails 1 = false)
    ∧ ((asking (.xread 2)).pocTurn 0 false).map (·.op) = some (.xread 2)
    ∧ wbits 7#64 7 0 < 8 ∧ (let s := base.modCluster 0 fun c => { c with fills := [3] }
      s.lineBusy 0 3 = false ∧ (s.cluster 0).fills.contains 3 = true
      ∧ ((s.cluster 0).cache.get {} 3).dirty = 0#64 ∧ s.readPoc (3 * 64) 64 = some (List.replicate 64 0#8))
    ∧ ((glob id).cluster 0).cache.find 0 = some { have_ := BitVec.allOnes 64, data := 5#512 }
    ∧ (let s := at_ fun c => { c with st := .blocked, why := some (.signal 8), waitAt := some 0 }
      (s.ctx 0 0).st = .blocked ∧ (s.ctx 0 0).why = some (.signal 8) ∧ (s.ctx 0 0).waitAt = some 0 ∧ 0 + Config.us 4 ≤ Config.us 4)
    ∧ 16 ≤ 16 ∧ 255 < 256 ∧ 1 ≤ 1 ∧ 64 ≤ 64 := by decide +kernel

theorem witness_SealSteps :
    let s : State := { base with seals := { buf := [(1, { dirty := true })], incs := [⟨1, 5, 1⟩, ⟨2, 6, 1⟩, ⟨3, 7, 1⟩, ⟨4, 8, 1⟩], tiles := [(2, { version := 1, exhausted := some 0 })] } }
    ((s.seals.buf.find 1).any fun b => b.dirty) = true ∧ s.tileFails 1 = false
    ∧ (∀ i ∈ [0, 1, 2, 3], (s.seals.incs[i]?).map (·.level) = some (i + 1)) ∧ (s.tile 2).exhausted = some 0 ∧ 0 + Config.ms 10 ≤ Config.ms 10
    ∧ s.tileSpent 1 = false ∧ s.poc = [] ∧ ((asking (.write [(0x1000, 7#8)])).poc.map fun r => (paKind r.pa, tileOf r.pa)) = [(.sealed, 1)]
    ∧ paKind 0x7DFFFFFFFF = .sealed ∧ s.seals.cmd = none ∧ 63 < 64 ∧ s.tileFails (tileOf 0x7DFFFFFFFF) = false ∧ 7 < 8 ∧ 15 < 16 := by
  decide +kernel

/-- The launch of the base state, ended and released. -/
def launch1 : Launch :=
  { key := ⟨0, 1, 0⟩, die := 0, job := 0, phase := 3, owner := .packet 0, regs := 24, rows := 8, maxctx := 1, spBytes := 4096, stkBytes := 256,
    fpctl := 0, vtype := 0, handlers := [], tmap := ⟨0, 0, 0, 0, 0, 0, 0, 0, 0, 0, 0, 0⟩, cores := [0], marks := [0], ended := true, released := true }

/-- A command queue of the job, its ring at 0x100021000, with a packet published. -/
def queue0 : RQueue :=
  { key := ⟨0, 0, 0⟩, die := 0, work := false, cls := 0, weight := 1, log2 := 4, base := 0x100021000, fencerec := 0x100022000, entry := 0x20000,
    kmax := 1, ridx := 0, st := .running }
@[inherit_doc queue0]
def queued (f : RQueue → RQueue) : State := { mapped with queues := [f queue0] }

theorem witness_QueueSteps :
    let t := { mapped with mem := Memory.store (Memory.store mapped.mem 0x30000 (Machine.JobDesc.bytes theJob.desc)) 0x20000 [1#8, 1#8, 4#8] }
    let u := t.reread 0 0
    ((queued id).openJob 0 0 0).map (·.desc.qtlen) = some 8 ∧ 7 < 8 ∧ (queued id).queue ⟨0, 0, 0⟩ = some queue0 ∧ queue0.work = false
    ∧ (queued id).notices = [] ∧ queue0.reads = true ∧ queue0.pollAt = none ∧ queue0.st ≠ .aborted
    ∧ ((queued fun q => { q with pollAt := some 0 }).queue ⟨0, 0, 0⟩).map (fun q => (q.reads, q.pollAt)) = some (true, some 0)
    ∧ (t.job 0 0).isSome = true ∧ t.queue ⟨0, 0, 0⟩ = none ∧ (u.job 0 0) = some theJob
    ∧ (u.readEntry ⟨0, 0, 0⟩ theJob 0).1 = .ok (0x20000, [1#8, 1#8, 4#8] ++ List.replicate 61 0#8)
    ∧ entryGood ([1#8, 1#8, 4#8] ++ List.replicate 61 0#8) = true ∧ (u.readEntry ⟨0, 0, 0⟩ theJob 0).2.queues = [] := by decide +kernel

/-- The queue with its slot's bytes. -/
def slotOf (b : List Byte) (f : RQueue → RQueue := id) : State := { queued f with mem := Memory.store mappedMem 0x21000 b }
/-- A slot that is unpublished, one of each type, and a poll; a queue whose entry can be written back, one with a waiting DEQW, and an aborted
queue with a packet that was read. -/
theorem witness_QueueSteps_slots :
    let k : QKey := ⟨0, 0, 0⟩
    let e : TlbEnt := ⟨0, 0, 0x100000000, 29, 0, true, true, true, false⟩
    let w := (queued fun q => { q with work := true }).withMe fun x => { x with q1 := [{ word := wd (2 * 2 ^ 12), waiting := some 3 }] }
    let a := queued fun q => { q with st := .aborted, ready := [⟨0, [10#8]⟩] }
    (∀ t ∈ [0, 2, 10], let s := slotOf [BitVec.ofNat 8 t]
      s.queue k = some queue0 ∧ s.unitXlate (queueName k) 0 none 0 0 (queue0.slot 0) 3 = (.ok e, s)
      ∧ s.writeWaits (tileOf (e.phys (queue0.slot 0))) = false ∧ s.writeWaits (tileOf queue0.entry) = false
      ∧ (s.readPoc (e.phys (queue0.slot 0)) 64).map (fun b => byteAt b 0) = some t ∧ s.mem.wf = true)
    ∧ e.phys (queue0.slot 0) = 0x21000 ∧ queue0.entry + 32 ≤ 0x21000
    ∧ ((slotOf [2#8] fun q => { q with pollAt := some 0 }).queue k).map (fun q => (q.reads, q.pollAt)) = some (true, some 0)
    ∧ (queued id).waiters k = [] ∧ (w.waiters k).map (fun p => (p.1, p.2.1)) = [(0, 0)] ∧ (queued id).mem.wf = true ∧ queue0.entry % 64 = 0
    ∧ paKind queue0.entry = .sealed ∧ (queued id).tileFails (tileOf queue0.entry) = false ∧ (queued id).frontStopped 0 = false
    ∧ (queued id).tilesWait [0x21000, 0x20000] = false ∧ (queued id).tilesWait [0x20000, 0x21000] = false
    ∧ (a.queue k).map (fun q => (q.st, q.ready)) = some (.aborted, [⟨0, [10#8]⟩]) ∧ pktSig [10#8] = 0 := by decide +kernel

/-- A packet of the queue that has started. -/
def packet (b : List Byte) (f : RunPkt → RunPkt) : RunPkt := f { id := 1, key := ⟨0, 0, 0⟩, die := 0, idx := 0, bytes := b, part := 0, job := 0 }
@[inherit_doc packet]
def started (b : List Byte) (f : RunPkt → RunPkt := id) : State := { queued id with running := [packet b f] }
/-- A packet's bytes: its type, and words from byte 16 on. -/
def pktOf (type : Nat) (words : List Nat) : List Byte := [BitVec.ofNat 8 type] ++ List.replicate 15 0#8 ++ words.flatMap (leBytes 8)
@[inherit_doc pktOf]
def begun (r : RunPkt) : RunPkt := { r with begun := true }

theorem witness_PacketSteps :
    let nop := queued fun q => { q with ready := [⟨0, [10#8]⟩] }
    let seeds := { started [2#8] begun with seedings := [{ id := 9, key := ⟨0, 1, 0⟩, die := 0, left := [taskMsg], packet := some 1 }] }
    let sent := fun (z : Bool) =>
      { started [2#8] with seedings := [{ id := 9, key := ⟨0, 1, 0⟩, die := 0, left := [], last := z, packet := some 1 }] }
    let copy := pktOf 3 [0x100000000, 0x100000040, 64 + 2 ^ 32, 0, 0]
    (nop.arbitrate 0).map (fun p => p.1.ready) = some [⟨0, [10#8]⟩]
    ∧ ((queued fun q => { q with granted := true }).queue ⟨0, 0, 0⟩).map (fun q => (q.granted, q.st)) = some (true, .running)
    ∧ (started [2#8]).runPkt 1 = some (packet [2#8] id) ∧ (∀ t < 11, pktType [BitVec.ofNat 8 t] = t)
    ∧ (∀ t < 11, (started [BitVec.ofNat 8 t] begun).runPkt 1 = some (packet [BitVec.ofNat 8 t] begun))
    ∧ pktType (pktOf 2 []) = 2 ∧ (∀ z ∈ [true, false], ((sent z).seedings.find? fun z => z.packet == some 1).map (fun z => (z.left, z.last, z.outstanding))
      = some ([], z, 0))
    ∧ ((started [2#8] begun).seedings.find? fun z => z.packet == some 1) = none
    ∧ (seeds.seedings.find? fun z => z.packet == some 1).map (·.left) = some [taskMsg]
    ∧ (started [3#8] begun).asking (.unit (unitName 3 1)) = false
    ∧ ((started copy).copyBlock (.unit (unitName 3 1)) (unitName 3 1) 0 0 0 (fieldAt copy 32 4) (copyRows copy) (.packet 1)).1 = .ok (0, stOk)
    ∧ (copyRows copy).length = 1 := by decide +kernel
/-- SIGNAL and FENCE with their addresses translated, GRAPH with its handle idle, and CANCEL settled. -/
theorem witness_PacketSteps_rest :
    let sig := started (pktOf 5 [0x100000200, 1])
    let e : TlbEnt := ⟨0, 0, 0x100000000, 29, 0, true, true, true, false⟩
    let g := withGraph (started [7#8]) none
    let c := started (pktOf 9 [1 + 2 ^ 16]) begun
    (sig.unitXlate (unitName 3 1) 0 none 0 0 0x100000200 3).1 = .ok e ∧ paKind (e.phys 0x100000200) = .sealed
    ∧ (sig.unitXlate (unitName 3 1) 0 none 0 0 0x100000200 3).2.tileWaits (tileOf (e.phys 0x100000200)) = false
    ∧ sig.takeSigEnd (unitName 3 1) 0x100000200 false = none ∧ sig.poc = [] ∧ sig.sigWaits 0x200 = false ∧ queue0.fencerec % 32 = 0 ∧ inGlobal queue0.fencerec = true
    ∧ (let t := (started [6#8]).unitXlate (unitName 3 1) 0 none 0 0 0x100022000 1
      t.1 = .ok e ∧ paKind (e.phys 0x100022000) = .sealed ∧ t.2.tilesWait [e.phys 0x100022000] = false
      ∧ t.2.tileFails (tileOf (e.phys 0x100022000)) = false)
    ∧ (g.graph ⟨0, 0, 0⟩).map (fun g => (g.inst.isNone, g.stopped)) = some (true, false)
    ∧ ((g.newInst graph0 0 (.packet 1) 0 []).phaseOf 0 0 0).any (·.cancelled) = false
    ∧ byteAt (pktOf 9 [1 + 2 ^ 16]) 16 = 1 ∧ c.cancelSettled 1 0 0 (cancelId 1 (fieldAt (pktOf 9 [1 + 2 ^ 16]) 18 2)) 0 = true := by
  decide +kernel
/-- A seed to the launch's core leaves, of a SEED and of a LAUNCH; a launch that is gone; and a BARRIER's signal above, below and negative. -/
theorem witness_PacketSteps_seeds :
    let map : TileMap := ⟨0, 1, 1, 1, 1, 1, 1, 0, 0, 0, 0, 0⟩
    let l : Launch := { launch1 with ended := false, tmap := map }
    let m : Msg := { taskMsg with taddr := true }
    let s := fun (b : List Byte) (f : RunPkt → RunPkt) (rid : Option Nat) =>
      ({ started b f with launches := [{ l with key := ⟨0, if rid.isSome then 1 else 0, 0⟩ }],
                          seedings := [{ id := 9, key := ⟨0, if rid.isSome then 1 else 0, 0⟩, die := 0, left := [m], packet := rid }] } : State)
    let seed := s [2#8] begun (some 1)
    let launch := s [1#8] id none
    let sent := (launch.modSeeding 9 fun z => { z with left := [], outstanding := z.outstanding + 1 }).toMesh m 0 (.seeding 9)
    let sig := fun (v : Nat) => ({ started (pktOf 4 [0x100000200, 0, 0, 0, 2]) begun with mem := Memory.store mappedMem 0x200 (leBytes 8 v) } : State)
    (seed.seedings.find? fun z => z.packet == some 1).map (·.left) = some [m] ∧ m.dest < 2 ^ 24
    ∧ (seed.tileCore (launchName ⟨0, 1, 0⟩) 0 l 0).1 = .core 0 ∧ (seed.launch ⟨0, 1, 0⟩).any (fun l => l.ended) = false
    ∧ ({ seed with launches := [] } : State).launch ⟨0, 1, 0⟩ = none
    ∧ (launch.queue ⟨0, 0, 0⟩).any (fun q => q.granted) = false
    ∧ (launch.running.find? fun r => r.key == ⟨0, 0, 0⟩ && pktType r.bytes == 1 && !r.begun).isSome = true
    ∧ (LaunchReq.parse [1#8]).key 0 = ⟨0, 0, 0⟩ ∧ (launch.seedings.find? fun y => y.key == ⟨0, 0, 0⟩ && y.packet.isNone).map (·.making) = some false
    ∧ sent.seeded ⟨0, 0, 0⟩ = true
    ∧ (∀ v ∈ [3, 1, 2 ^ 63], ((barrierWaits (pktOf 4 [0x100000200, 0, 0, 0, 2])).map fun w => (w.1, w.2)) = [(0x100000200, 2), (0, 0), (0, 0), (0, 0)]
      ∧ (match ((sig v).unitXlate (unitName 3 1) 0 none 0 0 0x100000200 0).1 with
        | .ok e => e.phys 0x100000200 == 0x200
        | _ => false) = true ∧ (sig v).readPoc 0x200 8 = some (leBytes 8 v) ∧ ((sig v).queue ⟨0, 0, 0⟩).isSome = true)
    ∧ inGlobal 0x100000200 = true ∧ pktSig (pktOf 4 [0x100000200, 0, 0, 0, 2]) = 0 := by decide +kernel

/-- The block of xallCells in device memory, from the address 0xA0000 on. -/
def xallPacket : State :=
  { started (pktOf 8 [0x1000A0040, 0x1000A0070, 0, 0, 0x1000A00C0, 0]) with
      mem := mappedMem ++ xallCells.map fun c => (0xA0000 + c.1, c.2), rodblk := [(0, (0, true))] }

/-- A unit's read of bytes of one page that translates, where nothing waits and the seals hold. -/
theorem unitRead_one (s : State) (name die part job va n : Nat) (e : TlbEnt) (hw : s.walks = []) (hx : s.xlate part job va 0 = .ok e)
    (hn : n ≠ 0) (hp : n ≤ 2 ^ 16 - va % 2 ^ 16) (hk : paKind (e.phys va) = .sealed) (hf : s.rangeFails (e.phys va) n = false) :
    s.unitRead name die none part job va n = (.ok (s.mem.bytes (e.phys va) n), s) := by
  have hf1 : pagesIn n = n / 2 ^ 16 + 1 + 1 := rfl
  have hmin : min n (2 ^ 16 - va % 2 ^ 16) = n := Nat.min_eq_left hp
  have hm : State.unitMap name die none part job 0 (pagesIn n) va n s = (.ok [(va, e.phys va, n)], s) := by
    rw [hf1]
    simp only [State.unitMap, hn, if_false, State.unitXlate, State.walkOf, hw, List.find?_nil, Option.bind_none, hx, hmin, Nat.sub_self, if_true]
    simp [hk]
  have hq : isPeer (e.phys va) = false := by simp [isPeer, hk]
  simp [State.unitRead, hm, anyPeer, hq, State.readPieces, State.readPoc, hk, hf]

@[inherit_doc unitRead_one]
theorem globalRead_one (s : State) (name die part job va n : Nat) (e : TlbEnt) (hw : s.walks = []) (hx : s.xlate part job va 0 = .ok e)
    (hn : n ≠ 0) (hp : n ≤ 2 ^ 16 - va % 2 ^ 16) (hk : paKind (e.phys va) = .sealed) (hf : s.rangeFails (e.phys va) n = false)
    (hg : inGlobal va = true) (hh : inGlobal (va + (n - 1)) = true) :
    s.globalRead name die part job va n = (.ok (s.mem.bytes (e.phys va) n), s) := by
  rw [State.globalRead, hg, hh]
  exact unitRead_one s name die part job va n e hw hx hn hp hk hf

theorem witness_PacketSteps_xall :
    let q : XallReq := ⟨0x1000A0040, 0x1000A0070, 0, 0, 0x1000A00C0, 0⟩
    xallPacket.xalls = [] ∧ xallPacket.phases = [] ∧ (xallPacket.running.all fun r => !r.begun) = true
    ∧ xallReqOf ((pktOf 8 [0x1000A0040, 0x1000A0070, 0, 0, 0x1000A00C0, 0]).drop 16) = q ∧ q.srcMap % 16 = 0 ∧ q.dstMap % 16 = 0
    ∧ ∃ src dst l t x, xallPacket.xallRead (unitName 3 1) 0 0 0 q = (.ok (src, dst, l), t) ∧ t.xallCheck 0 0 0 0 (.packet 1) q src dst l = .ok x := by
  refine ⟨rfl, rfl, rfl, by decide +kernel, by decide +kernel, by decide +kernel, ?_⟩
  let e : TlbEnt := ⟨0, 0, 0x100000000, 29, 0, true, true, true, false⟩
  have hp : peersFrom xallTable 2 = [(selfEp, 0), (0, 1)] := by
    have := selfEp_bytes
    simp [peersFrom, List.range, List.range.loop, fieldAt, xallTable, byteAt, leNat] at this ⊢
    exact this
  have hr : rankOf [(selfEp, 0), (0, 1)] 0 = some 0 := by simp [rankOf, List.range, List.range.loop]
  have ha := globalRead_one xallPacket (unitName 3 1) 0 0 0 0x1000A0040 48 e rfl (by decide +kernel) (by decide) (by decide) (by decide +kernel) (by decide +kernel)
    (by decide) (by decide)
  have hb := globalRead_one xallPacket (unitName 3 1) 0 0 0 0x1000A0070 48 e rfl (by decide +kernel) (by decide) (by decide) (by decide +kernel) (by decide +kernel)
    (by decide) (by decide)
  have hc := globalRead_one xallPacket (unitName 3 1) 0 0 0 0x1000A00C0 16 e rfl (by decide +kernel) (by decide) (by decide) (by decide +kernel) (by decide +kernel)
    (by decide) (by decide)
  generalize ham : xallPacket.mem.bytes (e.phys 0x1000A0040) 48 = A at ha
  generalize hbm : xallPacket.mem.bytes (e.phys 0x1000A0070) 48 = B at hb
  have hg : (LMap.parse A).bad = false ∧ (LMap.parse B).bad = false ∧ (LMap.parse A).agrees (LMap.parse B) = true ∧ (LMap.parse A).nranks = 2 := by
    subst ham hbm; decide +kernel
  obtain ⟨h1, h2, h3, h4⟩ := hg
  have hl : xallPacket.mem.bytes (e.phys 0x1000A00C0) 16 = xallTable := by
    have he : e.phys 0x1000A00C0 = 0xA00C0 := by decide
    have hm : mappedMem = [(0x40000, 1#8), (0x40002, 5#8), (0x50040, 0x1F#8), (0x80000, 1#8), (0x80002, 9#8), (0x90000, 0x1F#8)] := by decide +kernel
    rw [he]; simp [xallPacket, xallCells, Memory.bytes, Memory.byte, hm, Memory.absent, xallTable]
  rw [hl] at hc
  refine ⟨LMap.parse A, LMap.parse B, xallTable, xallPacket, ?_⟩
  simp only [State.xallRead, ha, hb, hc, h1, h2, h3, h4, State.xallCheck, hp, hr]
  exact ⟨_, rfl, rfl⟩

/-- A loop descriptor's header of one iteration and one copy word. -/
def lsHead : List Byte := leBytes 12 1 ++ [1#8, 0#8, 1#8] ++ List.replicate 17 0#8

theorem witness_UnitSteps :
    let q1 := fun (w : Nat) (i : Option Word) => at_ fun c => { c with q1 := [{ word := wd w, item := i }] }
    let sfu := at_ fun c => { c with q7 := [{ fn := .exp2 }] }
    let ls := at_ fun c => { c with q6 := [⟨0#64, some lsHead, 0, 0⟩] }
    let d : LsDesc := { n0 := 2, n1 := 1, n2 := 1, cw := 1, mw := 1, depth := 2, mwait := false, tag := 0, endsig := 0, recs := [⟨0, 0, 0, 0⟩, ⟨1, 0, 0, 0⟩] }
    let r : LsRun := { ctx := 0, part := 0, job := 0, lid := 1, lgen := 0, desc := d, vbase := 0 }
    let run := fun (r : LsRun) => base.modMyCore fun k => { k with runs := [(0, r)] }
    let last : LsRun := { r with c := 2, m := 2, retired := 2 }
    ((q1 0 (some 5#64)).wqHead 0 0 0).isSome = true ∧ (q1 0 (some 5#64)).released 0 0 4 0 = true
    ∧ (∀ op ∈ [1, 2, 3], ((q1 (op * 2 ^ 12) none).wqHead 0 0 op).isSome = true)
    ∧ (((List.range 16).map fun i => 0 * 16 + ((sfu.cluster 0).sfuAt + i) % 16).findSome? fun c => (sfu.core c).nextSfu.map fun p => (c, p))
      = some (0, 0, { fn := .exp2 })
    ∧ (ls.ctx 0 0).q6.length = 1 ∧ ((List.range 4).find? fun n => ((ls.core 0).runs.find n).isNone) = some 0
    ∧ (ls.core 0).runOf 0 = none ∧ ls.released 0 0 4 0 = true
    ∧ (ls.lsLoad 0 0 ⟨0#64, some lsHead, 0, 0⟩).1 = .ok lsHead ∧ lsBad lsHead = false
    ∧ ((run r).core 0).runs.find 0 = some r ∧ r.emits false = true ∧ r.emits true = true
    ∧ ({ r with ended := [(0, true, true)] } : LsRun).ended.find? (fun e => e.1 == 0 && e.2.1 == true) = some (0, true, true)
    ∧ last.retired = last.desc.total ∧ ({ last with retired := 1, stopped := true } : LsRun).stopped = true ∧ (run last).runBusy 0 0 last = false ∧ last.desc.endsig = 0 := by decide +kernel
/-- Commands of a work queue that is no queue, full, with room, empty and with an item; and a row's function behind one that is ready. -/
theorem witness_UnitSteps_effects :
    let s := fun (w : Nat) (i : Option Word) (k r : Nat) =>
      ((queued fun q => { q with work := true, kmax := k, ridx := r }).withMe fun x => { x with q1 := [{ word := wd w, item := i }] })
    let c : WqCmd := { word := 0#64, item := some 77#64 }
    let x := fun (n acc : Nat) => (s 0 (some 77#64) 0 0).unitXlate (wqName 0 0) 0 none 0 0 (queue0.itemVa n) acc
    let q : SfuSlot := { fn := .exp2, vec := true, drow := 1 }
    let sfu := at_ fun y => { y with q7 := [{ fn := .ident, done := some ⟨1#64, []⟩ }, q] }
    (((s 0 (some 77#64) 0 0).ctx 0 0).q1) = [c] ∧ (s 0 (some 77#64) 0 0).released 0 0 4 0 = true ∧ 2 ^ queue0.log2 = 16
    ∧ (s 100 none 0 0).queue ⟨0, 0, 100⟩ = none ∧ ((s 0 none 16 0).queue ⟨0, 0, 0⟩).map (fun q => (q.kmax, q.ridx, q.work)) = some (16, 0, true)
    ∧ ((queued id).queue ⟨0, 0, 0⟩).map (·.work) = some false
    ∧ (∀ p ∈ [(0, 0), (0, 1)], (match (x p.1 p.2).1 with
      | .ok e => e.phys (queue0.itemVa 0) == 0x21000
      | _ => false) = true)
    ∧ (s 0 (some 77#64) 0 0).tilesWait [0x20000, 0x21000] = false ∧ (s 0 (some 77#64) 0 0).tileFails 33 = false
    ∧ (s 0 (some 77#64) 0 0).waiters ⟨0, 0, 0⟩ = [] ∧ (s 0 none 1 0).readPoc 0x21000 8 = some (List.replicate 8 0#8)
    ∧ (s 0 none 0 0).draining 0 0 = false ∧ (s 0 none 0 0).mem.wf = true
    ∧ (((List.range 16).map fun i => ((sfu.cluster 0).sfuAt + i) % 16).filter sfu.served).findSome? (fun c =>
      (sfu.core c).nextSfu.map fun p => (c, p)) = some (0, 0, q) ∧ sfu.served 0 = true := by decide +kernel

/-- Whether a unit's work ends well. -/
def uok {α : Type} : URes α × State → Bool
  | (.ok _, _) => true
  | _ => false
@[inherit_doc uok] theorem uok_spec {α : Type} (r : URes α × State) (h : uok r = true) : ∃ a t, r = (.ok a, t) := by
  obtain ⟨_ | _ | _, t⟩ := r
  · exact ⟨_, _, rfl⟩
  · cases h
  · cases h

/-- A matrix command taken from context 0. -/
def mxTaken : MxCmd :=
  { stream := .ctx 0, part := 0, lid := 1, lgen := 0, ctx := 0, header := wd (mmaHead + 1), extra := [], fmt := {}, vbase := 0 }

theorem witness_EngineSteps :
    let q4 := fun (op : Nat) => at_ fun c => { c with q4 := [(wd (op * 2 ^ 60), 0, 0), (0#64, 0, 0), (256#64, 0, 0)] }
    let q2 := fun (w : Nat) (n : Nat) => at_ fun c => { c with q2 := (wd w, 0, 0) :: List.replicate n (0#64, 0, 0) }
    let c : CopyRun := { id := 4, core := 0, ctx := 0, header := wd (2 ^ 60), src := 0#64, dst := 256#64, part := 0, job := 0, lid := 1, lgen := 0 }
    let fill : CopyRun := { c with ring := some (0, 0), slots := 2 }
    let copies := fun (r : CopyRun) => base.modCluster 0 fun k => { k with copies := [r] }
    let mx := (base.modMyCore fun k => { k with mx := [(0, { rings := [(0, { base := 0, slotsz := 256, nslot := 16, gps := 1, t := 1 })] })] }).modCluster 0
      fun k => { k with mx := [(0, mxTaken)] }
    let coop := { base with clock := Config.ms 1 }.modCluster 0 fun k => { k with coops := [(3, { part := 0, lid := 1, lgen := 0, gid := 0, parts := 3, opened := 0 })] }
    (∀ op ∈ [1, 2, 4], ((q4 op).copyHead 0 (streamOf 0)).map (fun c => (c.whole, copyOp c.header)) = some (true, op))
    ∧ ((q4 4).copyOf 0 (streamOf 0) fun r => r.listing && decide (r.owed = 0) && decide (r.status = 0)) = none
    ∧ (let h : CopyRun := { c with header := wd (4 * 2 ^ 60), listing := true }
      ((copies h).copyOf 0 (streamOf 0) fun r => r.listing && decide (r.owed = 0) && decide (r.status = 0)) = some h
      ∧ uok ((copies h).gatherGo (unitName 2 0) ((copies h).ctx 0 0) h []) = true)
    ∧ (copies fill).filling 0 (streamOf 0) = some fill
    ∧ ((copies c).cluster 0).copies.find? (fun r => r.id == 4) = some c ∧ c.owed = 0 ∧ c.slots ≤ c.filled ∧ c.listing = false
    ∧ (copies c).asking (.copy 0 4) = false ∧ copyOp c.header ≠ 2 ∧ c.ls = none ∧ 1 ≤ ((copies c).ctx 0 0).room 5
    ∧ (∀ op ∈ [1, 2, 3, 4, 5, 6, 7, 8], let s := (q2 op 2).mxDeliver 0 (streamOf 0)
      s.mxCmd 0 (streamOf 0) = none ∧ (s.mxHead 0 (streamOf 0)).map (fun h => (h.whole, mxOp h.header)) = some (true, op))
    ∧ (let s := (q2 9 0).mxDeliver 0 (streamOf 0)
      s.mxCmd 0 (streamOf 0) = none ∧ (s.mxHead 0 (streamOf 0)).map (·.whole) = some false)
    ∧ (((mx.cluster 0).mx.foldl (fun s p => s.mxDeliver p.1 p.2.stream) mx).nextStep 0) = some (0, mxTaken) ∧ mxTaken.coop = none
    ∧ ((coop.cluster 0).coops.find 3).map (·.opened) = some 0 ∧ 3 < 4 ∧ 0 + Config.ms 1 ≤ coop.clock := by decide +kernel

/-- A copy command at the head of q4, of 8 bytes in the scratchpad, and of 64 bytes of the mapped pages. -/
def copying (op len src dst : Nat) (s : State := withSp base 0 [1#8, 2#8, 3#8]) : State :=
  s.withMe fun c => { c with q4 := [(wd (op * 2 ^ 60 + len), 0, 0), (wd src, 0, 0), (wd dst, 0, 0)] }
theorem witness_EngineSteps_copies :
    let n := unitName 2 0
    (∀ op ∈ [1, 2], let s := copying op 8 0 256
      let x := s.ctx 0 0
      (s.copyHead 0 (streamOf 0)).map (fun c => (c.whole, wbits c.header 23 0, c.src, c.dst)) = some (true, 8, 0#64, 256#64)
      ∧ (s.core 0).sp.wf = true ∧ s.copyCheck 0 0 x (wd (op * 2 ^ 60 + 8)) 0#64 256#64 = none
      ∧ s.steer 0 x 0 8 = some .scratch ∧ s.steer 0 x 256 8 = some .scratch)
    ∧ (let s := copying 1 64 0x100000000 0x100008000 mapped
      let x := s.ctx 0 0
      let u := State.unitMap n 0 (some 0) 0 0 0 (pagesIn 64) 0x100000000 64 s.fresh.2
      let v := State.unitMap n 0 (some 0) 0 0 1 (pagesIn 64) 0x100008000 64 u.2
      (s.copyHead 0 (streamOf 0)).map (·.whole) = some true ∧ s.copyCheck 0 0 x (wd (2 ^ 60 + 64)) 0x100000000#64 0x100008000#64 = none
      ∧ s.steer 0 x 0x100000000 64 = some .glob ∧ u.1 = .ok [(0x100000000, 0, 64)] ∧ (u.2.readPoc 0 64).isSome = true
      ∧ u.2.steer 0 x 0x100008000 64 = some .glob ∧ v.1 = .ok [(0x100008000, 0x8000, 64)] ∧ 0x8000 % 4096 + 64 ≤ 4096)
    ∧ (let s := copying 3 512 0 0
      (s.copyHead 0 (streamOf 0)).map (fun c => (c.whole, copyOp c.header)) = some (true, 3) ∧ s.filling 0 (streamOf 0) = none) := by
  decide +kernel
/-- A list of three elements of two bytes at scratchpad address 512. -/
theorem witness_EngineSteps_gather :
    let s := copying 4 3 0 1024 (withSp (withSp base 0 (leBytes 8 512 ++ leBytes 4 3 ++ leBytes 4 0 ++ leBytes 4 3)) 512 [9#8, 8#8, 7#8])
    let x := s.ctx 0 0
    let list := s.localBytes 0 x .scratch 0 20
    (s.copyHead 0 (streamOf 0)).map (fun c => (c.whole, copyOp c.header)) = some (true, 4) ∧ gatherSize (wd (4 * 2 ^ 60 + 3)) = 2
    ∧ s.copyCheck 0 0 x (wd (4 * 2 ^ 60 + 3)) 0#64 1024#64 = none ∧ (s.core 0).sp.wf = true ∧ s.steer 0 x 0 20 = some .scratch
    ∧ winOf (s.resvOf 0 x).spBytes (s.resvOf 0 x).stkBytes (fieldAt list 0 8) = some .scratch
    ∧ (∀ j < 3, s.steer 0 x ((fieldAt list 0 8 + fieldAt list (8 + 4 * j) 4 * 2) % 2 ^ 64) 2 = some .scratch)
    ∧ s.steer 0 x 1024 6 = some .scratch := by decide +kernel
/-- A CPYR that fills the next slot of a ring with room. -/
theorem witness_EngineSteps_fill :
    let g : Ring := { base := 1024, slotsz := 256, nslot := 2, gps := 1 }
    let r : CopyRun := { id := 4, core := 0, ctx := 0, header := wd (3 * 2 ^ 60 + 512), src := 0#64, dst := 0#64, part := 0, job := 0, lid := 1,
                         lgen := 0, ring := some (0, 0), slots := 2 }
    let s := ((withSp base 0 [1#8]).modMyCore fun k => { k with mx := [(0, { rings := [(0, g)] })] }).modCluster 0 fun k => { k with copies := [r] }
    s.filling 0 (streamOf 0) = some r ∧ (s.core 0).sp.wf = true ∧ s.ring 0 0 0 = some g ∧ s.steer 0 (s.ctx 0 0) 0 256 = some .scratch := by
  decide +kernel

/-- A matrix command at the head of q2, with two rings whose slots are ready and formats that it takes. -/
def mxState (w : Nat) (e : List Word) : State :=
  let g : Ring := { base := 0, slotsz := 1024, nslot := 16, gps := 1, t := 2, f := 2 }
  (at_ fun c => { c with q2 := (wd w, 2, 0) :: e.map fun v => (v, 0, 0) }).modMyCore fun k =>
    { k with mx := [(0, { rings := [(0, g), (1, { g with base := 1024 })] })], fmt := { k.fmt with atype := 10, btype := 10, ctype := 0 } }
/-- The head of a state's stream, whether it is checked and whether it is due. -/
def mxReady (s : State) : Option (Nat × Bool × Bool) :=
  (s.mxHead 0 (streamOf 0)).bind fun h => if (s.mxCmd 0 (streamOf 0)).isNone && h.whole && !wbit h.header 7 then
    some (mxOp h.header, s.mxCheck 0 0 (s.ctx 0 0) h.header (h.extra.headD 0#64) == none,
      s.mxLate 0 0 (s.ctx 0 0) (s.core 0).fmt h.header (h.extra.headD 0#64) == none) else none
/-- A header of one group with one row and eight columns, of the rings 0 and 1. -/
def oneGroup : Nat := 2 ^ 32 + 2 ^ 27 + 2 ^ 8
theorem witness_EngineSteps_takes :
    (∀ op ∈ [1, 3, 5], mxReady (mxState (op + oneGroup) []) = some (op, true, true))
    ∧ mxReady (mxState (4 + oneGroup) [0x40#64]) = some (4, true, true)
    ∧ (mxReady (mxState (6 + 3 * 2 ^ 8) [])).map (fun p => (p.1, p.2.1)) = some (6, true)
    ∧ (mxReady (mxState (7 + 10 * 2 ^ 8 + 10 * 2 ^ 13) [])).map (fun p => (p.1, p.2.1)) = some (7, true)
    ∧ (mxReady (mxState 8 [1#64, 2#64])).map (fun p => (p.1, p.2.1)) = some (8, true)
    ∧ ((mxState 9 []).mxHead 0 (streamOf 0)).map (·.whole) = some false ∧ ((mxState 9 []).ctx 0 0).q3.length < 8
    ∧ (mxReady (mxState (2 + oneGroup) [wd (3 + 5 * 2 ^ 24)])).map (fun p => (p.1, p.2.1)) = some (2, true)
    ∧ ((mxState (2 + oneGroup) [wd (3 + 5 * 2 ^ 24)]).coopPlace 0 ((mxState 2 []).ctx 0 0).lkey 5).isSome = true
    ∧ 3 / 2 ^ 1 % 2 = 1 ∧ (0 : Nat) % 16 ≠ 1 := by decide +kernel
/-- The state after MMA of some groups, and of MMAC, was taken. -/
def mxTook (i : State → Host.Outcome State Fault Refusal) (w : Nat) (e : List Word) : State := match i (mxState w e) with
  | .next t => t
  | _ => State.reset
@[inherit_doc mxTook] def mxSteps (n : Nat) : State := mxTook (execMcmdMma 0 0) (1 + oneGroup + (n - 1) * 2 ^ 32) []
theorem witness_EngineSteps_steps : ∀ n ∈ [1, 2],
    ((mxSteps n).cluster 0).mx.all (fun p => p.2.done.isNone) = true
    ∧ ((mxSteps n).nextStep 0).any (fun p => p.1 == 0 && p.2.coop.isNone && p.2.step == 0 && mxKg p.2.header == n
      && (mxSteps n).mxCmd 0 p.2.stream == some p.2 && p.2.ls.isNone && p.2.ctx == 0 && !wbit p.2.header 7) = true
    ∧ ((mxSteps n).ctx 0 0).q3 = [] ∧ mxCrow (wd (1 + oneGroup)) + 1 ≤ ((mxSteps n).ctx 0 0).rows := by decide +kernel
/-- A cooperation of two cores that only one has joined. -/
theorem witness_EngineSteps_timeout :
    let t := { mxTook (execMcmdMmac 0 0) (2 + oneGroup) [wd (3 + 5 * 2 ^ 24)] with clock := Config.ms 2 }
    ((t.cluster 0).coops.find 0).map (fun o => decide (o.opened + Config.ms 1 ≤ t.clock)) = some true
    ∧ (t.coopCmds 0 0).map (fun m => (m.1, t.mxCmd m.1 m.2.1 == some m.2.2, m.2.2.ls.isNone, m.2.2.ctx)) = [(0, true, true, 0)]
    ∧ (t.ctx 0 0).q3 = [] := by decide +kernel

/-- The job's state with peer 0, device 7, valid. -/
def peered : State := { mapped with peers := [(0, { ep := 7, valid := true, feotte := true })] }
@[inherit_doc peered]
def fromPeer (b : PktBody) : Pkt := { sdev := 7, src := 7, body := b }
@[inherit_doc peered]
def flow5 (ddev : Nat) (m : Msg) : Flow :=
  { handle := 5, cls := .l, dest := ⟨0, false, 0, ddev⟩, part := 0, lid := 1, lgen := 0, unacked := [{ ddev := ddev, body := .message m }] }

theorem witness_FabricSteps :
    let m : Msg := { taskMsg with ord := true, flow := 5 }
    let s := { peered with flows := [(0, [flow5 7 m])] }
    let w : PeerWait := { tag := 3, peer := 0, req := .load 0 0 0x100010000 8, deadline := 0 }
    let recv : RecvRec := { die := 0, sdev := 7, score := 0, flow := 5, cls := .l, core := 0, unsent := 1, ackAt := some 0 }
    let half : HeldHalf := { die := 0, src := 7, tag := 0, upper := false, data := [], deadline := 0 }
    let t := { peered with waits := [w], recvs := [recv], halves := [half] }
    (∀ b ∈ [PktBody.message taskMsg, .bead 0 0 0 0 0 [1#8], .beam 0 0 0 0 0, .notice 0 0 false 0, .notice 0 0 true 0, .readreq 1 0 0x100 64,
        .readresp 1 [1#8], .atomicresp 1 0#64, .atomic 1 0 0 0 0x100 .add 3 false 1#64 0#64, .store 0 0x100 [1#8], .flowack 0 5 0 0],
      peered.letIn 0 (fromPeer b) = none)
    ∧ inFabricWindow 0x100 = false
    ∧ ((splitAt (2 ^ 16) 4 0x100 64).mapM fun p => match peered.stage2 0 p.1 with
        | .ok l => if l.rd && !l.mig && paKind (l.out p.1) == .sealed then peered.readPoc (l.out p.1) p.2 else none
        | _ => none) = some [List.replicate 64 0#8]
    ∧ (s.flowsOf 0).any (fun f => f.handle == 5 && f.cls.code == 0 && f.dest.ddev == 7 && !f.broken
        && (ackedTo 0 f.unacked).length != f.unacked.length) = true ∧ s.letIn 0 (fromPeer (.flowack 0 5 0 0)) = none
    ∧ (t.halves[0]?).map (·.deadline) = some 0 ∧ (t.waits.find? fun w => w.tag == 3) = some w ∧ w.deadline ≤ t.clock
    ∧ t.answerHeld 3 = false ∧ (t.recvs[0]?).map (fun r => (r.unsent, r.ackAt)) = some (1, some 0) := by decide +kernel
/-- A flow toward another device whose packets have not been acknowledged for 50 µs. -/
theorem witness_FabricSteps_retransmit :
    let f := flow5 (selfEp + 1) { taskMsg with ord := true }
    let s := { peered with clock := Config.us 50, flows := [(0, [f])] }
    (s.flowsOf 0)[0]? = some f ∧ f.broken = false ∧ f.unacked ≠ [] ∧ f.dest.ddev ≠ selfEp ∧ f.since + Config.us 50 ≤ s.clock ∧ f.rounds < 8 := by
  refine ⟨rfl, rfl, by simp [flow5], ?_, Nat.le_of_eq (by simp [flow5]), by simp [flow5]⟩
  simp [flow5]

/-- A message of no flow, tile-addressed to a launch's core that is none, and one of a flow: in its turn, again, early, the first of its flow, and
the close of the flow. -/
theorem witness_FabricSteps_messages :
    let tile : Msg := { taskMsg with taddr := true, dest := 48 * 2 ^ 12 }
    let l : State := { peered with launches := [launch1] }
    let m := fun (q : Nat) => ({ taskMsg with ord := true, flow := 5, seq := q } : Msg)
    let r : RecvRec := { die := 0, sdev := 7, score := 0, flow := 5, cls := .l, core := 0, next := 3 }
    let s : State := { peered with recvs := [{ r with done := 3 }] }
    (peered.inboundCore 0 taskMsg).1 = .core 0 ∧ (l.inboundCore 0 tile).1 = .none_
    ∧ ((l.inboundCore 0 tile).2.launch ⟨tile.dpart, tile.lid, tile.lgen⟩).isSome = true
    ∧ (∀ q ∈ [0, 2, 3, 5], s.letIn 0 (fromPeer (.message (m q))) = none ∧ (s.inboundCore 0 (m q)).1 = .core 0)
    ∧ (s.dropStale.recvs.find? fun r => r.named 7 0 5 FlowClass.l.code).map (fun r => (r.next, r.done)) = some (3, 3)
    ∧ s.dropStale.reorder = [] ∧ (peered.dropStale.recvs.find? fun r => r.named 7 0 5 FlowClass.l.code) = none
    ∧ s.letIn 0 (fromPeer (.flowclose 0 5 0 3)) = none := by decide +kernel
/-- Beads of three bytes: dropped by each check, refused, held, failing, counted and the last; beams and notices in each state. -/
theorem witness_FabricSteps_rods :
    let armed : Rod := { st := .armed, flagaddr := 0x100022000, flagval := 9#64 }
    let send : Rod := { st := .sent, send := true, tdev := 7, count := 2, list := [⟨some 0, [⟨0x100, [(0, 64)]⟩]⟩] }
    let s := fun (r : Rod) => { peered with rods := [(0, r)] }
    let at_ := (s armed).beadPieces 0 (splitAt (2 ^ 16) 4 0x1100 3)
    let sealed := fun (t : Tile) => { s armed with seals := { (s armed).seals with tiles := [(1, t)] } }
    let flag := (s armed).unitXlate (unitName 6 0) (rodDie 0) none 0 0 0x100022000 1
    (∀ b ∈ [PktBody.bead 0 0 0 5 0x1100 [1#8, 2#8, 3#8], .beam 0 0 0 1 5, .notice 0 1 false 1, .notice 0 1 true 1],
      ∀ r ∈ [armed, { armed with st := .done }, { armed with st := .beamed, expect := some 1 }, { armed with sender := some (7, 6) }, send],
        (s r).letIn 0 (fromPeer b) = none ∧ ((s r).rod 0).use = .program)
    ∧ at_ = some [(0x1100, 3)] ∧ (s armed).beadPieces 0 (splitAt (2 ^ 16) 4 0x200000000 3) = none
    ∧ (s armed).piecesWait [(0x1100, 3)] = false ∧ (s armed).mergeFails [(0x1100, 3)] = false ∧ (s armed).mem.wf = true
    ∧ (s armed).writeWaits 1 = false ∧ (s armed).tileFails 1 = false
    ∧ (sealed { version := 0x0FFFFFFF, exhausted := some 0 }).piecesWait [(0x1100, 3)] = true
    ∧ (sealed { version := 1, poison := true }).piecesWait [(0x1100, 3)] = false ∧ (sealed { version := 1, poison := true }).mergeFails [(0x1100, 3)] = true
    ∧ (match flag.1 with
      | .ok e => e.phys 0x100022000 == 0x22000
      | _ => false) = true ∧ flag.2.forwardOf 0x22000 = none ∧ flag.2.tileWaits 34 = false ∧ flag.2.tileFails 34 = false
    ∧ (send.gen + 256 - 1 % 256) % 256 = 255 ∧ (s send).puts = [] ∧ (peered.peerAt 7).any (fun p => p.2.isol) = false := by decide +kernel
/-- Answers to a load, an atomic, a GETR and a relayed atomic; an atomic and a store of a peer; and packets written into the window. -/
theorem witness_FabricSteps_requests :
    let w := fun (r : PeerReq) => ({ tag := 3, peer := 7, req := r, deadline := 0 } : PeerWait)
    let g : Getr := { id := 4, core := 0, ctx := 0, part := 0, job := 0, tag := 1, dst := 0, dstMap := none, lid := 1, lgen := 0, pieces := 1 }
    let s := fun (r : PeerReq) => { peered with waits := [w r], getrs := [g] }
    let r : RecvRec := { die := 0, sdev := 7, score := 0, flow := 0, cls := .atomic, core := 0, next := 3 }
    let a := { peered with recvs := [r] }
    let bytes := [3#8, 0#8, 0#8, 0#8, 7#8, 0#8, 0#8, 0#8] ++ List.replicate 40 0#8
    let p : Pkt := { Machine.pktOf bytes with src := 7 }
    (∀ q ∈ [PeerReq.load 0 0 0 8, .atomic 0 0 0 3 false, .getr 4 0 8, .relay 0 0 7 11],
      ((s q).waits.find? fun w => w.tag == 3 && w.peer == 7) = some (w q) ∧ (s q).getrs = [g])
    ∧ (peered.waits.find? fun w => w.tag == 3 && w.peer == 7) = none
    ∧ (match peered.stage2 0 0x1000 with
      | .ok l => l.rd && l.wr && !l.mig && (l.out 0x1000 == 0x1000)
      | _ => false) = true
    ∧ paKind 0x1000 = .sealed ∧ 0x1000 % 2 ^ 3 = 0 ∧ peered.forwardOf 0x1000 = none ∧ peered.tileWaits 1 = false ∧ peered.tileFails 1 = false
    ∧ peered.feottePeer 7 = true ∧ ({ peered with peers := [(0, { ep := 7, valid := true })] } : State).feottePeer 7 = false
    ∧ (a.dropStale.recvs.find? fun r => r.named 7 0 0 2) = some r ∧ a.reorder = [] ∧ r.closed = false
    ∧ inFabricWindow 0xF0000000200 = true ∧ 0xF0000000200 % 256 = 0 ∧ 0xF0000000200 / 256 % 2 = 0 ∧ 0xF0000000300 / 256 % 2 = 1
    ∧ p.sdev = 7 ∧ peered.letIn 0 p = none ∧ (match p.body with
      | .beam _ _ _ _ _ => true
      | _ => false) = true
    ∧ ({ Machine.pktOf (List.replicate 48 0#8) with src := 7 } : Pkt).sdev ≠ 7 := by decide +kernel

theorem witness_RodSteps :
    let rod := fun (r : Rod) => { rodState id r with clock := Config.us 16 }
    let bead : Replay := ⟨some 0, [⟨0x100, [(0, 64)]⟩]⟩
    let j : PutJob := { rod := 0, gen := 0, cmd := bead, since := 0, core := some 0 }
    let put := { rodState id sendRod with puts := [(0, j)] }
    (∀ n ∈ [2, 3], let r := (rod { st := .beamed, short := n, sender := some (7, 5) }).rod 0
      r.st = .beamed ∧ r.flagdue = false ∧ r.deadline ≤ Config.us 16 ∧ r.short = n)
    ∧ (let s := rod { sendRod with st := .sent, repeats := [0], deadline := 0 }
      (s.rod 0).st = .sent ∧ (s.rod 0).repeats = 0 :: [] ∧ 0 ≤ s.clock ∧ s.putsOf 0 = false ∧ (s.rod 0).deadline ≤ s.clock)
    ∧ (let s := rod { st := .done, rearm := true }
      (s.rod 0).st = .done ∧ (s.rod 0).rearm = true ∧ (s.rod 0).genAt + Config.us 16 ≤ s.clock)
    ∧ (let s := rod { st := .quarantine }
      (s.rod 0).st = .quarantine ∧ (s.rod 0).quarUntil ≤ s.clock)
    ∧ put.putReady 0 [] put.puts = some j ∧ j.cmd.beads[j.pos]? = some ⟨0x100, [(0, 64)]⟩
    ∧ put.beadSource j.cmd ⟨0x100, [(0, 64)]⟩ = some (List.replicate 64 0#8) := by decide +kernel

/-- A job as mapped with 16 MiB of overflow pool; besides device memory its tables map 512 MiB of peer 0 at 0x120000000. Its
descriptor and a LAUNCH template lie in memory. -/
def pooled : Job := { theJob with desc := { theJob.desc with ovfpool := 0x110000000, ovflen := 2 ^ 24 } }
@[inherit_doc pooled]
def template : List Byte :=
  leBytes 16 1 ++ leBytes 8 0x100000600 ++ leBytes 8 (1 + 2 ^ 24) ++ leBytes 4 0 ++ leBytes 8 2 ++ leBytes 20 1
    ++ leBytes 2 0 ++ (List.replicate 6 1).flatMap (leBytes 2) ++ List.replicate 50 0#8
@[inherit_doc pooled]
def graphMem : Memory :=
  Memory.store (Memory.store (Memory.store (Memory.store mappedMem 0x50048 (leBytes 8 (0x20000000 + 0x1F))) 0x90008 (leBytes 8 (0x80000000000000 + 0x1F)))
    0x30000 (Machine.JobDesc.bytes pooled.desc)) 0x400 template
/-- A graph of one node and one rod, number 0, with an active instance. -/
def nodeState (f : GNode → GNode) (g : GInst → GInst) (r : Rod) : State :=
  let d := f ⟨1, false, 0, [], 2 ^ 63 + 0x100000000, 2 ^ 63 + 0x100000100, 64, 0, 1, 0#64, 0#64⟩
  let t := mapped.modCluster 1 fun c => { c with valid := true }
  { t with mem := graphMem, jobs := [pooled], peers := [(0, { ep := 7, valid := true, feotte := true })], rods := [(0, r)],
           graphs := [{ graph0 with nodes := [d], rods := [⟨0, true, 1, 7, 0, 0⟩], inst := some (g inst0) }] }
@[inherit_doc nodeState]
def node0 (s : State) (type : Nat) : Option Bool := (s.nodeAt ⟨0, 0, 0⟩ 0 type).map (·.2.2.2)

theorem witness_GraphSteps_instances :
    let k : GKey := ⟨0, 0, 0⟩
    let i : GInst := { inst0 with startAt := some 0 }
    let s := nodeState id (fun _ => i) {}
    let fin := nodeState id (fun i => { i with nodes := [.finished] }) {}
    let ab := nodeState id (fun i => { i with aborted := some (0, 6), nodes := [.waiting] }) {}
    let st := { mapped with graphs := [{ graph0 with stopped := true, stopEnd := some (0, 3) }] }
    (s.graph k).bind (·.inst) = some i ∧ i.aborted = none ∧ (s.baseTable k i).1 = .ok (List.replicate 8 0)
    ∧ (fin.graph k).map (fun g => g.rods.all fun r => !(r.send && ((fin.rod r.rod).st == .sent || fin.putsOf r.rod))) = some true
    ∧ (fin.graph k).bind (·.inst) = some { inst0 with nodes := [.finished] } ∧ inst0.owner = .run 0 0 ∧ inst0.startAt = none
    ∧ (ab.graph k).map (fun g => ab.instQuiet g { inst0 with aborted := some (0, 6), nodes := [.waiting] }) = some true ∧ graph0.failrec = 0
    ∧ (st.graph k).map (fun g => (g.inst.isNone, g.stopEnd)) = some (true, some (0, 3))
    ∧ ((nodeState id (fun i => { i with nodes := [.ended] }) {}).graph k).bind (fun g => g.inst.bind fun i => i.nodes[0]?) = some .ended := by
  decide +kernel
/-- A node of each type that can go on: COPY, PUTC, BEAM, RODWAIT and the end of a REDUCE. -/
theorem witness_GraphSteps_nodes :
    let k : GKey := ⟨0, 0, 0⟩
    let go := fun (i : GInst) => { i with begun := [true] }
    let put := nodeState (fun d => { d with ntype := 2, addr1 := 2 ^ 63 + 0x120000000 }) id sendRod
    let src := State.unitMap (nodeName k 0) 0 none 0 0 0 (pagesIn 64) 0x100000000 64 put
    let dst := State.unitMap (nodeName k 0) 0 none 0 0 1 (pagesIn 64) 0x120000000 64 src.2
    let beam := nodeState (fun d => { d with ntype := 3 }) id sendRod
    let wait := nodeState (fun d => { d with ntype := 4 }) id { st := .done }
    let red := nodeState (fun d => { d with ntype := 5 }) (fun i => { go i with tiles := [(0, 0)] }) {}
    let fresh := nodeState id id {}
    node0 (nodeState id (fun i => { i with nodes := [.ready] }) {}) 1 = some false ∧ put.feottePeer 7 = true
    ∧ node0 fresh 1 = some false ∧ (fresh.seals.dropped.contains (nodeName k 0)) = false
    ∧ (((fresh.nodeStart k 0).modSeal fun z => { z with dropped := z.dropped.filter (· != nodeName k 0) }).copyBlock (.unit (nodeName k 0))
      (nodeName k 0) 0 0 0 64 [(0x100000000, 0x100000100)] (.node k 0)).1 = .ok (0, stOk)
    ∧ node0 (nodeState id go {}) 1 = some true ∧ inst0.owed.get 0 0 = 0 ∧ (nodeState id go {}).asking (.unit (nodeName k 0)) = false
    ∧ node0 put 2 = some false ∧ (put.rod 0).send = true ∧ (put.rod 0).st = .open_
    ∧ baseAddr inst0.base (2 ^ 63 + 0x100000000) = 0x100000000 ∧ baseAddr inst0.base (2 ^ 63 + 0x120000000) = 0x120000000
    ∧ inGlobal 0x100000000 = true ∧ inGlobal (0x100000000 + (64 - 1)) = true ∧ inGlobal 0x120000000 = true ∧ inGlobal (0x120000000 + (64 - 1)) = true
    ∧ src.1 = .ok [(0x100000000, 0, 64)] ∧ dst.1 = .ok [(0x120000000, 0x80000000000000, 64)]
    ∧ dst.2.nodeDest 7 [(0x120000000, 0x80000000000000, 64)] = true ∧ (put.rod 0).tdev = 7 ∧ (put.rod 0).nput ≠ 1024
    ∧ (put.rod 0).count + (beadsOf [(0x100000000, 0, 64)] [(0x120000000, 0x80000000000000, 64)] 0x120000000 64).length < 2 ^ 32
    ∧ node0 beam 3 = some false ∧ (beam.rod 0).st = .open_ ∧ beam.putsOf 0 = false
    ∧ node0 wait 4 = some false ∧ (wait.rod 0).st = .done
    ∧ node0 red 5 = some true ∧ 64 % 4 = 0 ∧ ([(0, 0)].filter fun p => p.1 == 0).length = reduceTiles 0x100000100 64 := by decide +kernel
/-- The one tile of a REDUCE of one input, whose contributions and destination are device memory. -/
theorem witness_GraphSteps_tile :
    let k : GKey := ⟨0, 0, 0⟩
    let d : GNode := ⟨5, false, 0, [], 2 ^ 63 + 0x100000000, 2 ^ 63 + 0x100000100, 64, 0, 1, 0x100000200#64, 0#64⟩
    let i : GInst := { inst0 with begun := [true], doneRods := [0] }
    let s := nodeState (fun _ => d) (fun _ => i) { st := .done }
    let l := State.reduceReads (nodeName k 0) 0 0 0 64 [0x100000000, 0x100000200] s
    let m := State.unitMap (nodeName k 0) 0 none 0 0 1 2 0x100000100 64 l.2
    node0 s 5 = some true ∧ (s.graph k).map (fun g => (s.inputsDone g d, reduceOrder g i d)) = some (true, [none, some 0])
    ∧ i.tiles.contains (0, 0) = false ∧ 0 < reduceTiles 0x100000100 64 ∧ tileRange 0x100000100 64 0 = (0x100000100, 64)
    ∧ l.1 = .ok [List.replicate 64 0#8, List.replicate 64 0#8] ∧ inGlobal 0x100000100 = true ∧ m.1 = .ok [(0x100000100, 0x100, 64)]
    ∧ (match m.2.writeBead 0 [(0x100, 64)] (List.replicate 64 0#8) with
      | .written _ => true
      | _ => false) = true
    ∧ ((List.range 16).flatMap fun e => leBytes 4 (reduceElem d ([List.replicate 64 0#8, List.replicate 64 0#8].map fun b => fieldAt b (4 * e) 4)))
      = List.replicate 64 0#8 := by decide +kernel
/-- A SEND node toward core 16 of this device. -/
def sendNode : GNode := ⟨6, false, 0, [], 2 ^ 63 + 0x100000000, 0, 48, 0, 0, wd (selfEp * 2 ^ 32 + 16), 1#64⟩
theorem witness_GraphSteps_send :
    node0 (nodeState (fun _ => sendNode) id {}) 6 = some false
    ∧ uok ((nodeState (fun _ => sendNode) id {}).globalRead (nodeName ⟨0, 0, 0⟩ 0) 0 0 0 0x100000000 48) = true := by decide +kernel
/-- The word of a destination at core 16 of a device. -/
theorem sendWord (e : Nat) (h : e < 2 ^ 16) : wbit (wd (e * 2 ^ 32 + 16)) 30 = false ∧ wbit (wd (e * 2 ^ 32 + 16)) 31 = false
    ∧ destOf (wd (e * 2 ^ 32 + 16)) = ⟨16, false, 0, e⟩ := by
  generalize hw : wd (e * 2 ^ 32 + 16) = w
  have hn : w.toNat = e * 2 ^ 32 + 16 := by rw [← hw, wd, BitVec.toNat_ofNat]; omega
  have hb : ∀ i, wbit w i = decide ((e * 2 ^ 32 + 16) / 2 ^ i % 2 = 1) := by
    intro i
    rw [wbit, ← BitVec.testBit_toNat, hn, Nat.testBit_eq_decide_div_mod_eq]
  refine ⟨?_, ?_, ?_⟩
  · rw [hb, decide_eq_false_iff_not]; omega
  · rw [hb, decide_eq_false_iff_not]; omega
  · have h0 : wbits w 23 0 = 16 := by rw [wbits, hn]; omega
    have h1 : wbit w 24 = false := by rw [hb, decide_eq_false_iff_not]; omega
    have h2 : wbits w 29 25 = 0 := by rw [wbits, hn]; omega
    have h3 : wbits w 47 32 = e := by rw [wbits, hn]; omega
    rw [destOf, h0, h1, h2, h3]
@[inherit_doc sendWord] theorem nodeMsg_to (d : GNode) (b : List Byte) (z e : Nat) (h : destOf d.arg0 = ⟨16, false, z, e⟩) :
    (nodeMsg 0 d b).taddr = false ∧ (nodeMsg 0 d b).ddev = e ∧ (nodeMsg 0 d b).dest = 16 := by
  simp [nodeMsg, h, Dest.norm]
theorem witness_GraphSteps_sendDest (b : List Byte) (t : State) (ht : (t.core 16).pressed = false) :
    wbit sendNode.arg0 30 = false ∧ wbit sendNode.arg0 31 = false ∧ (nodeMsg 0 sendNode b).ddev = selfEp
    ∧ t.inboundCore 0 (nodeMsg 0 sendNode b) = (.core 16, t) ∧ (t.core 16).pressed = false := by
  obtain ⟨h30, h31, hm⟩ := sendWord selfEp Config.podEndpoint.isLt
  have hf := nodeMsg_to sendNode b 0 selfEp hm
  refine ⟨h30, h31, hf.2.1, ?_, ht⟩
  rw [State.inboundCore, hf.1, hf.2.2]; rfl
theorem witness_GraphSteps_launch :
    let k : GKey := ⟨0, 0, 0⟩
    let s := nodeState (fun d => { d with ntype := 7, addr0 := 2 ^ 63 + 0x100000400 }) id {}
    let b := s.globalRead (nodeName k 0) 0 0 0 0x100000400 128
    node0 s 7 = some false ∧ b.1 = .ok template ∧ (b.2.nodeSig (nodeName k 0) 0 0 0 (LaunchReq.parse template).sig).1 = .ok ()
    ∧ pktType template = 1 ∧ (LaunchReq.parse template).gang = 0
    ∧ (b.2.place (nodeName k 0) 0 0 [1] [{ req := LaunchReq.parse template, owner := .node k 0, graph := some 0, phase := 0, die := 0 }]).1 = .placed := by
  decide +kernel
/-- A LAUNCH at the head of a granted queue, whose core, handler table and overflow pool there are. -/
theorem witness_PacketSteps_launch :
    let q : RQueue := { queue0 with granted := true, ready := [⟨0, template⟩] }
    let s : State := { nodeState id id {} with graphs := [], queues := [q] }
    let req := LaunchReq.parse template
    let v := State.reread { s with serial := s.serial + 1 } 0 0
    let w := (State.reserveCores req 0 0 (2 ^ 24) [16] v).getD s
    let t : State := { w with placing := w.placing ++ [⟨queueName ⟨0, 0, 0⟩, 0, 0, none, [(req.key 0, [16])]⟩] }
    s.queue ⟨0, 0, 0⟩ = some q ∧ byteAt template 56 = 0 ∧ s.startCheck q template = (.ok, s)
    ∧ (s.placing.find? fun e => e.name == queueName ⟨0, 0, 0⟩) = none ∧ (v.usable 0 [1]).take req.nslots = [16] ∧ v.job 0 0 = some pooled
    ∧ req.bad = false ∧ v.lidFree (req.key 0) = some true ∧ req.nslots ≤ (v.usable 0 [1]).length
    ∧ req.nslots * req.ovfBytes ≤ pooled.desc.ovflen ∧ (State.reserveCores req 0 0 (2 ^ 24) [16] v).isSome = true
    ∧ t.unitRead (queueName ⟨0, 0, 0⟩) 0 none 0 0 req.htab (8 * req.hcount) = (.ok (t.mem.bytes 0x600 8), t) := by decide +kernel
/-- An XALL of two ranks whose elements are the pair of 2 by 2 bytes. -/
theorem witness_GraphSteps_xall :
    let m : LMap := LMap.parse ((xalling.started .none (.src 1) .none).here .scratch 64 48)
    let x : Xall := { id := 3, part := 0, job := 0, phase := 0, die := 0, owner := .run 0 0, src := m, dst := m, srcBase := 0x100000000,
                      dstBase := 0x100000100, peers := [(7, 0), (8, 0)], me := 0, rodBase := 0 }
    let s := fun (x : Xall) => { nodeState id id {} with xalls := [x] }
    let y : Xall := { x with started := true }
    ((s x).xalls.find? fun x => x.id == 3) = some x ∧ x.failed = false ∧ x.started = false
    ∧ ((s x).xalls.filter fun y => y.die == x.die && y.started && !y.failed).length < 4 ∧ (s x).spacing x.rods ≤ (s x).clock
    ∧ y.sent = false ∧ uok (State.xallPlan y ((List.range (y.src.nranks - 1)).map fun i => (y.me + 1 + i) % y.src.nranks) (s y)) = true
    ∧ ({ y with failed := true } : Xall).failed = true ∧ y.owner = .run 0 0 := by decide +kernel

/-- What a phase, a job and a limit of the launch need. -/
def later (f : Ctx → Ctx) : State := { at_ f with clock := Config.ms 60000 }
@[inherit_doc later]
def preq (op : Nat) : State := base.modDie 0 fun d => { d with preq := { job := 1, op := op, busy := true } }

theorem witness_LifecycleSteps :
    let l := { base with launches := [launch1] }
    let r := { base.modMyCore (fun k => k.modResv ⟨0, 1, 0⟩ fun r => { r with mark := some 0 }) with clock := Config.us 20 }
    let p : Phase := { part := 0, job := 0, phase := 3, marked := true }
    let j : Job := { theJob with desc := { theJob.desc with phsig := 0x100023000 } }
    let s := { mapped with phases := [p], jobs := [j] }
    let c := { mapped with jobs := [{ theJob with closed := true }] }
    (l.launch ⟨0, 1, 0⟩) = some launch1 ∧ launch1.marks.contains 0 = true ∧ launch1.sig = 0
    ∧ ((r.core 0).resv ⟨0, 1, 0⟩).map (·.mark) = some (some 0) ∧ 0 + Config.us 20 ≤ r.clock
    ∧ s.phaseOf 0 0 3 = some p ∧ s.job 0 0 = some j ∧ p.members = 0
    ∧ (s.sigAct (unitName 10 3) 0 0 0 .phase (0x100023000 + 8 * 3) false 1 3).1 = .done
    ∧ (c.job 0 0).map (fun j => (j.closed, j.phases, j.desc.jobsig)) = some (true, 0, 0) ∧ c.cancelling 0 0 = false := by decide +kernel
/-- The limits of the run timer, of PARKED and of a masked window, reached. -/
theorem witness_LifecycleSteps_limits :
    let w := later fun c => { c with runAt := some 0 }
    let k := later fun c => { c with st := .parked }
    let m := later fun c => { c with masked := some ⟨1, 0⟩ }
    (w.ctx 0 0).st = .running ∧ w.runLimit (w.ctx 0 0) ≠ 0 ∧ w.runLimit (w.ctx 0 0) ≤ (w.ctx 0 0).ran w.clock
    ∧ (k.ctx 0 0).st = .parked ∧ k.isFw 0 = false ∧ Config.ms (wbits (k.part 0).wdpol 47 32) ≠ 0
    ∧ (k.ctx 0 0).parkedAt + Config.ms (wbits (k.part 0).wdpol 47 32) ≤ k.clock ∧ k.pfaults = []
    ∧ (m.ctx 0 0).st = .running ∧ (m.ctx 0 0).maskLate m.clock = true
    ∧ ({ base with presetBusy := true } : State).resetCause 0 = some 0x41 := by decide +kernel
/-- PREQ of a die with each operation, a parked context to save, and supervisor commands and firmware waits. -/
theorem witness_LifecycleSteps_rest :
    let f := (at_ fun c => { c with st := .parked }).modMyCore fun k => { k with save := [(0, 0, 0)] }
    let t := fun (cmd : Nat) => super1 fun c => { c with tcmd := BitVec.ofNat 17 cmd, pend := [⟨1, 0x132, none⟩] }
    let e := { firm id with clock := Config.us 100 }
    let p : Pending := ⟨0, 50, none⟩
    let v := { at_ fun c => { c with st := .blocked, why := some (.event 1#64), waitAt := some 0, pend := [p] } with clock := Config.us 50 }
    (∀ op ∈ [1, 2, 3], ((preq op).die 0).preq.busy = true ∧ ((preq op).die 0).preq.op = op)
    ∧ ((preq 3).cores.any fun p => !(preq 3).isFw p.1 && !(p.2.ofJob 0 1).isEmpty) = false
    ∧ (f.core 0).saving (f.ctx 0 0) = true ∧ (f.ctx 0 0).st = .parked ∧ (f.modCtx 0 0 Ctx.withdrawDeqw).drained 0 0 = true
    ∧ ((t 0).ctx 0 0).commandOpen false = some ⟨1, 0x132, none⟩ ∧ ((t (2 ^ 13)).ctx 0 0).commandOpen true = some ⟨1, 0x132, none⟩
    ∧ e.isFw 115 = true ∧ (e.core 115).tickAt + Config.us 100 ≤ e.clock
    ∧ (v.ctx 0 0).st = .blocked ∧ (v.ctx 0 0).why = some (.event 1#64) ∧ (v.ctx 0 0).waitAt = some 0 ∧ (v.ctx 0 0).pend = p :: []
    ∧ p.key ≠ 0 ∧ 0 + Config.us p.key ≤ v.clock := by decide +kernel
/-- A launch that has drained, with its packet; a partition with one queue to rewind, without a record and with one; and the context that a
supervisor command names. -/
theorem witness_LifecycleSteps_effects :
    let l : State := { (at_ fun x => { x with st := .free }) with
      launches := [{ launch1 with released := false }], running := [packet [1#8] (fun r => { r with id := 0 })],
      phases := [{ part := 0, job := 0, phase := 3, members := 2 }] }
    let one : Job := { theJob with desc := { theJob.desc with qtlen := 1 } }
    let p := fun (f : RQueue → RQueue) => ({ queued f with jobs := [one], presetBusy := true } : State)
    let b := p fun q => { q with recorded := true }
    let c := b.purge 0
    let v : State := { c with queues := c.queues.map fun (q : RQueue) => if q.key.part == 0 && !q.work then { q with st := .stopped } else q }
    let t := (super1 fun c => { c with tsel := 4096#24 }).modCtx 0 1 fun _ => { base.me with st := .parked }
    let d := { base with jobs := [theJob] }
    l.launchDrained { launch1 with released := false } = true ∧ l.podReleased 0 [0] = true ∧ l.phaseOf 0 0 3 = some { part := 0, job := 0, phase := 3, members := 2 }
    ∧ (p id).resetCause 0 = some 0x41 ∧ (p id).resets = [] ∧ (p id).rewindKeys 0 = [⟨0, 0, 0⟩] ∧ ((p id).queue ⟨0, 0, 0⟩).map (·.recorded) = some false
    ∧ ((p fun q => { q with fencerec := 0 }).queue ⟨0, 0, 0⟩).map (·.fencerec) = some 0 ∧ (b.queue ⟨0, 0, 0⟩).map (·.recorded) = some true
    ∧ (match (v.unitXlate (queueName ⟨0, 0, 0⟩) 0 none 0 0 0x100022000 0).1 with
      | .ok e => e.phys 0x100022000 == 0x22000
      | _ => false) = true
    ∧ (v.readPoc 0x22000 32).isSome = true ∧ (v.readOwn (queue0.entry + 32) 8).isSome = true
    ∧ targetCtx (wd 4096) = 1 ∧ t.targetStatus 0 (wd 4096) = 0 ∧ t.targetStatus 0 0#64 = 1 ∧ ((t.ctx 0 1).sel 3).isSome = true
    ∧ ((t.ctx 0 1).sel 0x19) = none ∧ 0x17 < (t.ctx 0 1).alloc + 0 ∧ specialRO 3 = true ∧ 0 < (t.ctx 0 1).rows
    ∧ (d.core 0).resvsOf 0 0 ≠ [] ∧ (preq 2).saves = [] := by decide +kernel
/-- Saves of a job: void, and of one core with one context, to a stub that has room. -/
theorem witness_LifecycleSteps_restore :
    let r := ((base.core 0).resvs.headD fwResv)
    let c : SavedCore := { core := 0, resv := r, sp := [], ctxs := [(0, base.me)], log := [] }
    let v := fun (void : Bool) => ({ die := 0, part := 0, job := 1, area := 0, cores := [c], void := void } : SavedJob)
    let s := fun (void : Bool) => ({ ((preq 2).modMyCore fun k => { k with resvs := [{ r with stub := true }], ctxs := [] }) with saves := [v void] } : State)
    (∀ z ∈ [true, false], ((s z).saves.find? fun v => v.part == 0 && v.job == 1 && v.area == 0) = some (v z))
    ∧ ((s false).core 0).resv ⟨r.part, r.lid, r.lgen⟩ = some { r with stub := true } ∧ ((s false).core 0).fits c = true ∧ r.ringQ = [] ∧ r.valid = true
    ∧ ((preq 2).core 0).fits { c with resv := { r with spots := List.range 17 } } = false := by decide +kernel

theorem witness_BoardSteps :
    let g := { base with clock := Config.ms 1, board := { base.board with graceful := some 0 } }
    let n := { g with seals := { g.seals with buf := [(0, { dirty := true })] } }
    let t := { base with board := { base.board with table := some thoelle } }
    mapped.board.booting = false ∧ mapped.board.graceful = none ∧ base.board.safe = false ∧ 1 ≤ 64 ∧ readsReg .presetPart = false
    ∧ base.board.graceful = none ∧ g.board.graceful = some 0 ∧ g.flushed = true ∧ 0 + Config.ms 1 ≤ n.clock ∧ n.flushed = false
    ∧ t.board.table = some thoelle ∧ 1 ≤ thoelle.svn ∧ t.board.svnfuse < 1 ∧ 255 < 256 ∧ (0x50 : Nat) < 256
    ∧ regExists .presetPart = true ∧ regExists (.peertab 1023) = true := by decide +kernel
/-- Both banks of an empty flash fail their check; a trip while boot runs and after it. -/
theorem witness_BoardSteps_boot :
    let g := { mapped with board := { mapped.board with graceful := some 0 } }
    let b := { mapped with board := { mapped.board with stage := 2 } }
    mapped.board.verify 0 = .inl 1 ∧ mapped.board.verify 1 = .inl 1 ∧ g.flushed = true ∧ b.board.booting = true ∧ mapped.board.booting = false
    ∧ 115 < 116 ∧ mapped.hbmTrip + 5 < 116 ∧ mapped.presetBusy = false ∧ mapped.resets = [] ∧ (mapped.die 3).preq.busy = false
    ∧ ((preq 1).die 0).preq.busy = true ∧ mapped.reserved 3 = false ∧ mapped.reserved 0 = true := by decide +kernel

/-- A graph's image of one node at address 0x100000500, and a job to create. -/
def hosted : State :=
  { mapped with mem := Memory.store mappedMem 0x500 ([1#8] ++ List.replicate 7 0#8 ++ [1#8] ++ List.replicate 55 0#8 ++ [1#8]),
                board := { mapped.board with vfs := [(127, { mapped := true })], bar2 := [⟨128, 0, 0x100000, 2, 1⟩] } }
@[inherit_doc hosted]
def newJob : JobDesc := { job := 1, jgen := 0, qtlen := 8, part := 0, s1root := 0x40000, qtab := 0x100020000, phsig := 0x100023000 }

/-- Requests of function 0 and of virtual function 127 that are not answered yet. -/
def asked : State :=
  { hosted with board := { hosted.board with mbox := [(0, { pend := some (1, 0x13, none) }), (128, { pend := some (2, 0x13, none) })] } }

/-- A request that no row serves, and RESETCTL written while no reset runs and while one does. -/
theorem witness_HostSteps_bar0 :
    (romCmds.contains ((hosted.board.mbox.get {} 0).req.num 4 2) || fwCmds.contains ((hosted.board.mbox.get {} 0).req.num 4 2)) = false
    ∧ byteAt [1#8] 0 % 4 = 1 ∧ hosted.board.busy = false ∧ ({ hosted.board with graceful := some 0 } : Board).busy = true := by decide +kernel
theorem witness_HostSteps :
    let s := hosted.doorbell
    let u : State := { s.writePoc 0x30000 0 (jobDescBytes newJob) 2 with jobs := s.jobs ++ [{ desc := newJob, addr := 0x30000 }] }
    let i := s.readImage ⟨0, 0, 5⟩ 0x100000500
    let g := withGraph hosted none
    hosted.board.safe = false ∧ hosted.board.stage = 5 ∧ (hosted.board.mbox.get {} 0).pend = none
    ∧ asked.board.safe = false ∧ (asked.board.mbox.get {} 0).pend = some (1, 0x13, none) ∧ (1, 0x13) ≠ (1 % 2 ^ 32, 0x01)
    ∧ asked.board.stage = 5 ∧ (asked.board.mbox.get {} (127 + 1)).pend = some (2, 0x13, none)
    ∧ hosted.board.vfs.find (128 - 1) = some { mapped := true } ∧ (hosted.notifyRead 0 0 0 0x3FFF8 8).1 = some (List.replicate 8 0#8)
    ∧ jobDescBad newJob = false ∧ s.jobFree newJob = true ∧ paKind 0x30000 = .sealed ∧ paKind (0x30000 + 63) = .sealed
    ∧ u.sealedAt 0 1 newJob.phsig = true ∧ u.sealedAt 0 1 (newJob.phsig + 2040) = true ∧ newJob.jobsig = 0
    ∧ (s.namedJob 0 0 0).isSome = true ∧ 1023 < 1024
    ∧ (match i with
      | (.ok (h, b), t) => !headerBad h && !(graphOf ⟨0, 0, 5⟩ b).badImage h b && !t.graphRefused (graphOf ⟨0, 0, 5⟩ b)
      | _ => false) = true
    ∧ (g.doorbell.graph ⟨0, 0, 0⟩).map (fun g => g.inst.isNone) = some true
    ∧ s.migrateReason 0 true = 0 ∧ 4096 + 512 ≤ 4608 + 2 ^ 26
    ∧ 127 < 128 ∧ (hosted.board.vfs.find 127).isSome = true
    ∧ hosted.board.windowPa 128 0x1FFF8 = some 0x11FFF8 ∧ (0x1FFF8 : Nat) % 2 ^ 16 + 2 ^ 3 ≤ 2 ^ 16 ∧ (hosted.readPoc 0x11FFF8 8).isSome = true := by
  decide +kernel
/-- A virtual function of partition 0 and one that is none; each notify register; a live job's queue; and atomics in the mapped page. -/
theorem witness_HostSteps_functions :
    let w := { hosted with seals := { hosted.seals with tiles := [(287, { version := 0x0FFFFFFF, exhausted := some 0 })] } }
    hosted.board.graceful = none ∧ (∀ fn ∈ [1, 128], (hosted.board.mbox.get {} fn).pend = none) ∧ (hosted.board.vfs.find 127).map (·.part) = some 0
    ∧ hosted.board.vfs.find 0 = none ∧ hosted.doorbell.migrateReason 0 false = 4
    ∧ (hosted.openJob 0 0 0).map (·.desc.qtlen) = some 8 ∧ hosted.openJob 0 0 1 = none
    ∧ ({ hosted with queues := [queue0] } : State).queue ⟨0, 0, 0⟩ = some queue0 ∧ 4095 / 64 * 4096 + 0x400 + 4095 % 64 * 8 < 0x40000
    ∧ hosted.forwardOf 0x11FFF8 = none ∧ hosted.writeWaits (tileOf 0x11FFF8) = false ∧ hosted.tileFails (tileOf 0x11FFF8) = false
    ∧ w.writeWaits (tileOf 0x11FFF8) = true ∧ 0x11FFF8 % 2 ^ 3 = 0 := by decide +kernel

/-- The state after an instruction, where there is one. -/
def ran (i : Instr) (s : State) : State := match exec i s with
  | .next t => t
  | _ => State.reset
@[inherit_doc ran] def goes (o : Host.Outcome State Fault Refusal) : Bool := match o with
  | .next _ => true
  | _ => false
@[inherit_doc ran] theorem goes_spec (o : Host.Outcome State Fault Refusal) (h : goes o = true) : ∃ t, o = .next t := by
  cases o with
  | next t => exact ⟨t, rfl⟩
  | fault f => cases h
  | refused r => cases h

@[inherit_doc ran] theorem all_go (l : List Instr) (s : State) (h : (l.all fun i => goes (exec i s)) = true) :
    ∀ i ∈ l, ∃ t, exec i s = .next t := fun i hi => goes_spec _ (List.all_eq_true.mp h i hi)

theorem witness_StepRunsDecoded :
    let u := fun (s : State) => s.settle.dueFlags.dueArrivals
    let k := { base with agenda := [.issue 0 false] }
    let e := { base with agenda := [.event (.packetStart 0)] }
    base.board.powered = true ∧ (u base).board.safe = false ∧ (u base).agenda = [] ∧ (u base).turn = some (0, 0, false)
    ∧ decode (((u base).core 0).codeWords 0 0 6 ((u base).ctx 0 0).pc.toNat) = .ok (.add 0 0 0) 1
    ∧ ((u base).ctx 0 0).maskLate (u base).clock = false ∧ ((u base).ctx 0 0).maskFull = false
    ∧ (u k).agenda = .issue 0 false :: [] ∧ ((u k).core 0).choose false = some 0
    ∧ (u e).agenda = .event (.packetStart 0) :: [] ∧ isStep (.packetStart 0) = true := by decide +kernel
theorem witness_DecodeOfEncode : (Instr.add 1 31 3).wf = true ∧ (layout (.add 1 31 3)).isSome = true := by decide
theorem witness_MemoryStaysCanonical : base.memWf ∧ ∃ t, step base = .next t := ⟨(by decide : base.mem.wf = true), goes_spec _ (by decide +kernel)⟩

theorem witness_ScalarFrame : (∃ t, exec (.add 1 2 3) base = .next t) ∧ base.popped (.dst 1) (.src 2) (.src 3) = [] :=
  ⟨goes_spec _ (by decide +kernel), by decide⟩
theorem witness_ScalarFrame_sel : (∃ t, exec (.sel 1 2 3) base = .next t) ∧ base.popped (.both 1) (.src 2) (.src 3) = [] :=
  ⟨goes_spec _ (by decide +kernel), by decide⟩
/-- The second state parks, since it has no row 9. -/
theorem witness_VectorFrame :
    let s := at_ fun c => { c with rows := 8 }
    (∃ u, exec (.vadd 1 2 3 4 0) base = .next u) ∧ (∃ u, exec (.vscale 1 2 3 4 0) base = .next u) ∧ (∃ u, exec (.vadd 1 2 3 9 0) s = .next u)
    ∧ ((ran (.vadd 1 2 3 9 0) s).ctx 0 0).st = .parked :=
  ⟨goes_spec _ (by decide +kernel), goes_spec _ (by decide +kernel), goes_spec _ (by decide +kernel), by decide +kernel⟩
/-- The other forms of the statement run too. -/
theorem witness_VectorFrame_forms : ∀ i ∈ [Instr.vfma 1 2 3 4 0, .vfms 1 2 3 4 0, .vfnma 1 2 3 4 0, .vfnms 1 2 3 4 0, .vwidenl 2 2 3 4 0,
    .vwidenh 2 2 3 4 0, .vsel 1 2 3 4 0, .vperm 1 2 3 4 0, .vzip 1 2 3 4, .vunzip 1 2 3 4, .vlut4 1 2 3 4 0, .vmov 1 2 3 0, .vneg 1 2 3 0,
    .vabs 1 2 3 0, .vnot 1 2 3 0, .vrint 1 2 3 0, .vclass 1 2 3 0, .vsqrt 1 2 3 0, .vslidedn 1 2 3 1 0, .vslideup 1 2 3 1 0, .vpack 1 2 3 0,
    .vcvt 4 2 3 0 0, .vbcast 1 2 3 0, .viota 4 2 3 0, .vrot 1 2 3 4 0, .vdeq 1 2 3 4 0, .vins 1 2 3 4, .vquant 1 2 3 4 0, .vext 1 2 3 4,
    .vredsum 1 2 3 0, .vredmax 1 2 3 0, .vredmin 1 2 3 0, .vredor 4 2 3 0, .kpop 1 2 3, .kto 2 3 0, .vgetbase 2, .vcmpeq 1 2 3 4 0,
    .vcmplt 1 2 3 4 0, .vcmple 1 2 3 4 0, .vcmpun 1 2 3 4 0, .kand 1 2 3, .kor 1 2 3, .kxor 1 2 3, .kandn 1 2 3, .knot 1 2, .kfrom 1 2 0,
    .vsettype 1 0, .vsetbase 2], ∃ t, exec i fp32 = .next t := all_go _ _ (by decide +kernel)
/-- Every core's scratchpad is canonical in the base state, which holds one core. -/
theorem base_spWf : base.spWf := by
  intro c
  cases c with
  | zero => decide +kernel
  | succ n => rfl
/-- Every form of the statement runs at scratchpad address 0. -/
theorem witness_AccessFrame :
    base.spWf ∧ (∀ i ∈ [Instr.ld 0 3 1 2 8 none, .ldc 0 3 1 2 8 none, .st 3 1 2 8 none, .sigread 1 2 none, .sigwait 1 2 3 none,
      .amoadd 0 3 1 2 3 none, .amoand 0 3 1 2 3 none, .amoor 0 3 1 2 3 none, .amoxor 0 3 1 2 3 none, .amomin 0 3 1 2 3 none,
      .amomax 0 3 1 2 3 none, .amoswap 0 3 1 2 3 none, .amocas 0 3 1 2 3 none, .ship 1 2 3 none, .shipn 1 2 3 none, .xadd 0 2 3 none,
      .xread 0 2 none, .sigadd 2 3 none, .sigabort 2 none], ∃ t, exec i base = .next t)
    ∧ (base.started (.src 1) (.src 2) .none).localSpan 8 8 = some (8, 8) :=
  ⟨base_spWf, all_go _ _ (by decide +kernel), by decide +kernel⟩
theorem witness_AccessFrame_rows :
    (∀ i ∈ [Instr.vld 1 2 0 0 none, .vst 1 2 0 0 none, .vlds 1 2 3 0 none, .vsts 1 2 3 0 none, .vgath 0 1 2 3 0 none, .vscat 0 1 2 3 0 none],
      ∃ t, exec i fp32 = .next t) ∧ (fp32.started (.row 1) (.src 2) .none).localSpan 0 256 = some (0, 256) :=
  ⟨all_go _ _ (by decide +kernel), by decide +kernel⟩
/-- Accesses of the global window, with the first line of the page dirty in the cluster's cache: a store of its last eight bytes names them and no
other byte. -/
theorem witness_AccessFrame_caches :
    let s := (globRegs 7 0x100000038 0).modCluster 0 fun c => { c with cache := [(0, { have_ := BitVec.allOnes 64, dirty := 1#64, data := 5#512 })] }
    let t := ran (.st 3 1 2 0 none) s
    (∀ i ∈ [Instr.ld 0 3 1 2 0 none, .ldc 0 3 1 2 0 none, .st 3 1 2 0 none, .amoadd 0 3 1 2 3 none, .sigadd 2 3 none], ∃ t, exec i s = .next t)
    ∧ s.stores (cellsAt 0x100000038 (leBytes 8 7)) 0x38 ∧ ((t.cluster 0).cache.find 0).map (fun l => (l.dirty, l.bytes 0 1, l.bytes 56 1)) =
      some (0xFF00000000000001#64, [5#8], [7#8])
    ∧ (ran (.amoadd 0 3 1 2 3 none) s).poc.map (·.op) = [.write [(0, 5#8)], .amo .add 3 false 0#64 0#64] :=
  ⟨all_go _ _ (by decide +kernel), ⟨(0x100000038, 7#8), by decide +kernel, page0, by decide +kernel, by decide +kernel⟩, by decide +kernel, by decide +kernel⟩
theorem witness_ScratchpadsStayCanonical : base.spWf ∧ ∃ t, step base = .next t := ⟨base_spWf, goes_spec _ (by decide +kernel)⟩

theorem witness_TrapEntry : base.levelOf 0 base.me = .user ∧ (base.takeTrap tTrap 0#64).ctx 0 0 = (base.takeTrap tTrap 0#64).ctx base.cur.core base.cur.ctx := by
  decide +kernel
/-- A user, a supervisor and a firmware context, and numbers at the ends of each range, some assigned and some read-only. -/
theorem witness_LevelTraps : (base.levelOf 0 base.me).rank = 0 ∧ ((super1 id).levelOf 0 (super1 id).me).rank = 1
    ∧ ((firm id).levelOf 115 (firm id).me).rank = 2
    ∧ ([0x14, 0xFF, 0x140, 0x1FF, 0x201, 0x3FF].all fun n => !specialKnown n) = true
    ∧ ([0, 0x13].all fun n => specialKnown n && specialRO n) = true ∧ specialKnown 0x120 = true
    ∧ (at_ fun c => { c with masked := some ⟨1, 0⟩ }).me.masked ≠ none := by decide +kernel
theorem witness_OperandTraps :
    let s := (at_ fun c => { c with vtype := 1, fpctl := 0x1F0#9 }).modMyCore fun k => k.setRow 2 0x7F800001#2048
    let u := s.started (.row 1) (.row 2) (.row 3)
    let ty := s.me.elemType 1
    let out := lanesOf (laneCount ty) none fun i =>
      VOp2.add.lane s.me.fpEnv ty (codeAt ty (u.rowOf 2) i) (codeAt ty (u.rowOf 3) i)
    let flags := s.popped (.row 1) (.row 2) (.row 3) ++ flagLanes out
    let f := at_ fun c => { c with alloc := 10, rows := 5, q0 := List.replicate 16 (.data 0#64) }
    (∀ o ∈ [Opnd.dst 1, .src 2, .both 3, .row 4, .none], o.plainField = true)
    ∧ operandCheck f.me [.dst 10, .row 5, .src 24] = some tRegbound ∧ operandCheck f.me [.dst 1, .row 5, .src 24] = some tRowbound
    ∧ operandCheck f.me [.dst 1, .row 4, .src 24] = some tQueue ∧ operandCheck f.me [.dst 29, .src 1, .src 2] = some tQueue
    ∧ operandCheck f.me [.row 5, .row 1, .row 2] = some tRowbound ∧ operandCheck f.me [.row 4, .row 1, .row 2] = none
    ∧ operandCheck f.me [.both 10, .src 1, .src 2] = some tRegbound
    ∧ operandCheck f.me [.dst 24, .src 1, .src 2] = none ∧ (Opnd.dst 24).pushesTo = some 0 ∧ f.me.room 0 = 0
    ∧ shortPop f.me [] (f.need (.dst 24) (.src 1) (.src 2)) = none
    ∧ outside (at_ fun c => { c with alloc := 8 }).me.alloc 8 = true
    ∧ (outside base.me.alloc 1 || outside base.me.alloc 2 || outside base.me.alloc 28 || outside base.me.alloc 29) = false ∧ pushOnly 28 = true ∧ popOnly 29 = true
    ∧ pushOnly 29 = false ∧ popOnly 1 = false ∧ shortPop base.me [] (base.need (.dst 1) (.src 29) (.src 2)) = some (5, 1)
    ∧ (at_ fun c => { c with rows := 8 }).me.rows ≤ 8
    ∧ s.ready (.row 1) (.row 2) (.row 3) = true ∧ s.quiet (.row 1) (.row 2) (.row 3) = true ∧ isFP ty = true
    ∧ allFlags flags &&& s.me.fpEnables ≠ 0#5 := by decide +kernel
theorem witness_RefusedAccessesAndStops :
    let s := regs3 0 0x2000000 0
    let u := s.started (.dst 1) (.src 2) .none
    let v := { base with board := { base.board with safe := true } }
    s.ready2 1 2 = true ∧ (1 : Nat) % 2 ^ 3 ≠ 0 ∧ 0x2000000 % 2 ^ 3 = 0 ∧ u.steer u.cur.core u.me 0x2000000 (2 ^ 3) = none
    ∧ v.settle.dueFlags.dueArrivals.board.safe = true ∧ v.settle.dueFlags.dueArrivals.turn = some (0, 0, false)
    ∧ ({ v with agenda := [.issue 0 false] } : State).settle.dueFlags.dueArrivals.agenda = [.issue 0 false]
    ∧ ({ base with board := { base.board with powered := false } } : State).agenda = []
    ∧ s.ready (.src 1) (.src 2) .none = true ∧ s.quiet (.src 1) (.src 2) .none = true ∧ s.ready (.dst 1) (.src 2) (.src 3) = true
    ∧ s.quiet (.dst 1) (.src 2) (.src 3) = true ∧ s.ready (.both 1) (.src 2) (.src 3) = true ∧ s.quiet (.both 1) (.src 2) (.src 3) = true
    ∧ (∀ o ∈ [Opnd.dst 1, .src 1, .both 1], let w := s.started o (.src 2) (.src 3)
      (s.vals o (.src 2) (.src 3)).a = 0x2000000#64 ∧ w.steer w.cur.core w.me 0x2000000 (2 ^ 3) = none) := by decide +kernel
/-- An item of the agenda that is no cold reset. -/
theorem witness_RefusedAccessesAndStops_other (n : Nat) (v : Word) : Act.issue 0 false ≠ .event (.coldReset n v) := by simp

/-! ## Results worked out from the rules -/

/-- Register n after an instruction in context 0 of core 0. -/
def reg (n : Nat) (i : Instr) (s : State) : Word := ((ran i s).ctx 0 0).reg n

/-- R136: the sum of 2^64 − 1 and 2 is 1. -/
theorem test_add_wraps : reg 3 (.add 3 1 2) (regs3 (2 ^ 64 - 1) 2 0) = 1#64 := by decide +kernel
/-- R136, where the destination is a source: 2 − 5. -/
theorem test_sub_same : reg 1 (.sub 1 1 2) (regs3 2 5 0) = w64 (-3) := by decide +kernel
/-- R136: −7 shifted right by 65 mod 64 is −4. -/
theorem test_sra_amount : reg 3 (.sra 3 1 2) (regs3 (2 ^ 64 - 7) 65 0) = w64 (-4) := by decide +kernel
/-- R136: 1 rotated left by 64 stays. -/
theorem test_rol_full : reg 3 (.rol 3 1 2) (regs3 1 64 0) = 1#64 := by decide +kernel
/-- R136: the high word of −1 × 1 is −1, and of (2^64 − 1) × (2^64 − 1) it is 2^64 − 2. -/
theorem test_mulh : reg 3 (.mulh 3 1 2) (regs3 (2 ^ 64 - 1) 1 0) = w64 (-1) ∧ reg 3 (.mulhu 3 1 2) (regs3 (2 ^ 64 - 1) (2 ^ 64 - 1) 0) = w64 (-2) := by
  decide +kernel
/-- R136, R137: −7 ÷ 2 is −3 with −1 left; by zero the quotient is all ones and the rest x[a]. -/
theorem test_div : reg 3 (.div 3 1 2) (regs3 (2 ^ 64 - 7) 2 0) = w64 (-3) ∧ reg 3 (.rem 3 1 2) (regs3 (2 ^ 64 - 7) 2 0) = w64 (-1)
    ∧ reg 3 (.div 3 1 2) (regs3 5 0 0) = w64 (-1) ∧ reg 3 (.remu 3 1 2) (regs3 5 0 0) = 5#64 := by decide +kernel
/-- R137: −2^63 ÷ −1. -/
theorem test_div_overflow : reg 3 (.div 3 1 2) (regs3 (2 ^ 63) (2 ^ 64 - 1) 0) = wd (2 ^ 63) ∧ reg 3 (.rem 3 1 2) (regs3 (2 ^ 63) (2 ^ 64 - 1) 9) = 0#64 := by
  decide +kernel
/-- R136: −1 is the lesser by sg and the greater by ug. -/
theorem test_min : reg 3 (.min 3 1 2) (regs3 (2 ^ 64 - 1) 1 0) = w64 (-1) ∧ reg 3 (.minu 3 1 2) (regs3 (2 ^ 64 - 1) 1 0) = 1#64
    ∧ reg 3 (.slt 3 1 2) (regs3 (2 ^ 64 - 1) 1 0) = 1#64 ∧ reg 3 (.sltu 3 1 2) (regs3 (2 ^ 64 - 1) 1 0) = 0#64 := by decide +kernel
/-- R136: SEL keeps x[d] where x[a] is 0; ADDW sign-extends bit 31. -/
theorem test_sel_addw : reg 3 (.sel 3 1 2) (regs3 0 7 9) = 9#64 ∧ reg 3 (.sel 3 1 2) (regs3 1 7 9) = 7#64
    ∧ reg 3 (.addw 3 1 2) (regs3 0x7FFFFFFF 1 0) = w64 (-(2 ^ 31)) := by decide +kernel
/-- R138, R139: an immediate above 63 is ILLEGAL; LIH keeps the low half. -/
theorem test_immediates : reg 3 (.shli 3 1 63) (regs3 3 0 0) = wd (2 ^ 63)
    ∧ ((ran (.shli 3 1 64) base).ctx 0 0).trapcause = wd tIllegal ∧ reg 1 (.lih 1 5) (regs3 0xFFFFFFFF00000007 0 0) = 0x500000007#64 := by
  decide +kernel
/-- R140. -/
theorem test_unary : reg 3 (.clz 3 1) (regs3 0 0 0) = 64#64 ∧ reg 3 (.bswap 3 1) (regs3 0x0102 0 0) = wd 0x0201000000000000
    ∧ reg 3 (.sextb 3 1) (regs3 0x1FF 0 0) = w64 (-1) ∧ reg 3 (.zextw 3 1) (regs3 (2 ^ 64 - 1) 0 0) = 0xFFFFFFFF#64 := by decide +kernel
/-- R142: bits 7 to 4 of 0xF5A sign-extended, and 3 placed in them. -/
theorem test_fields : reg 3 (.bfx 3 1 (4 + 3 * 2 ^ 6 + 2 ^ 12)) (regs3 0xF9A 0 0) = w64 (-7)
    ∧ reg 3 (.bfi 3 1 (4 + 3 * 2 ^ 6)) (regs3 0x13 0 0xFF) = 0x3F#64 := by decide +kernel
/-- R144: a target with bit 0 set traps ALIGN with the target, and x7 stays. -/
theorem test_callr_align : let t := (ran (.callr 1) (regs3 0x100000011 0 0)).ctx 0 0
    t.trapcause = wd tAlign ∧ t.trapaddr = 0x100000011#64 ∧ t.reg 7 = 0#64 := by decide +kernel
/-- R143: CALL leaves the address of the following word in x7 and goes on at pc_first + 2 × imm. -/
theorem test_call : reg 7 (.call 8) base = 0x100000002#64 ∧ ((ran (.call 8) base).ctx 0 0).pc = 0x100000010#64 := by decide +kernel
/-- R143: BLT compares by sg, BLTU by ug. -/
theorem test_branch : ((ran (.blt 1 2 4) (regs3 (2 ^ 64 - 1) 0 0)).ctx 0 0).pc = 0x100000008#64
    ∧ ((ran (.bltu 1 2 4) (regs3 (2 ^ 64 - 1) 0 0)).ctx 0 0).pc = 0x100000002#64 := by decide +kernel
/-- R4, R268: a store is little-endian; a byte load of 0x80 sign-extends where SGN is set. -/
theorem test_store_load : ((ran (.st 3 1 2 8 none) (regs3 0x0102030405060708 16 0)).core 0).sp.bytes 24 8 = [8#8, 7#8, 6#8, 5#8, 4#8, 3#8, 2#8, 1#8]
    ∧ reg 3 (.ld 1 0 3 2 0 none) (withSp (regs3 0 16 0) 16 [0x80#8]) = w64 (-128)
    ∧ reg 3 (.ld 0 0 3 2 0 none) (withSp (regs3 0 16 0) 16 [0x80#8]) = 128#64 := by decide +kernel
/-- R169, R200: 1.0 + 2.0 is 3.0 in FP32, and +∞ − ∞ is the default NaN. -/
theorem test_vadd : let rows := fun (a b : Nat) => fp32.modMyCore fun k => (k.setRow 2 (BitVec.ofNat 2048 a)).setRow 3 (BitVec.ofNat 2048 b)
    (((ran (.vadd 1 1 2 3 0) (rows 0x3F800000 0x40000000)).core 0).row 1).toNat = 0x40400000
    ∧ (((ran (.vadd 1 1 2 3 0) (rows 0x7F800000 0xFF800000)).core 0).row 1).toNat = 0x7FC00000 := by decide +kernel
/-- R404: TRAP resumes at the following instruction, ILLEGAL at its own. -/
theorem test_trap : ((ran (.trap 1) base).ctx 0 0).rpc = 0x100000002#64 ∧ ((ran (.undef .illegal) base).ctx 0 0).rpc = 0x100000000#64 := by
  decide +kernel
/-- R117: x0 reads zero after a write. -/
theorem test_x0 : reg 0 (.add 0 1 2) (regs3 1 2 0) = 0#64 := by decide +kernel
end Sys2Proof.Tests
end

section
/-! The three-register scalar instructions (R134 to R137): what their shared form leaves where its operands are ready, and the
remainders, minima and maxima in the words of the rules. -/

namespace Sys2Proof.Machine

/-- The three-register form completes with its result in x[d] where its operands are ready (R120, R135, R136). -/
theorem finish_alu2_ready {f g : Word → Word → Word} {s : State} {d a b : Nat} (h : s.ready3 d a b = true)
    (hf : ∀ x y, f x y = g x y) : finish (alu2 f d a b) s = .next (s.result3 d a b g) := by
  obtain rfl : f = g := funext₂ hf
  obtain ⟨hready, hquiet⟩ := Bool.and_eq_true_iff.mp h
  apply finish_ok
  simp only [alu2, M.bind_run, M.getMe_run, State.begin_me, operands_ready hready hquiet rfl, M.writeX_run]

/-- What the truncated quotient leaves of the dividend is the remainder of truncation (R136). -/
theorem remW_eq_tmod (x y : Word) : remW x y = if y = 0#64 then x else w64 ((sg x).tmod (sg y)) := by
  rw [remW, Int.tmod_def]

/-- Values that read alike are one value, so a tie may go to either side. -/
theorem ite_le_eq_ite_lt {α β : Type} [LinearOrder β] {r : α → β} (hr : Function.Injective r) (x y : α) :
    (if r x ≤ r y then x else y) = if r x < r y then x else y := by
  rcases lt_trichotomy (r x) (r y) with hlt | heq | hgt
  · rw [if_pos hlt.le, if_pos hlt]
  · rw [hr heq, ite_self, ite_self]
  · rw [if_neg hgt.not_ge, if_neg hgt.not_gt]

theorem minW_eq_ite_lt (x y : Word) : minW x y = if sg x < sg y then x else y :=
  ite_le_eq_ite_lt (fun _ _ => BitVec.eq_of_toInt_eq) x y

theorem minuW_eq_ite_lt (x y : Word) : minuW x y = if ug x < ug y then x else y :=
  ite_le_eq_ite_lt BitVec.toNat_injective x y

theorem maxW_eq_ite_lt (x y : Word) : maxW x y = if sg y < sg x then x else y := by
  simp only [maxW, ← not_lt, ite_not]

theorem maxuW_eq_ite_lt (x y : Word) : maxuW x y = if ug y < ug x then x else y := by
  simp only [maxuW, ← not_lt, ite_not]

/-- Settles O2: each instruction is the three-register form of its operation. DIV, DIVU and REMU are written in the model as the rules
have them; REM, the minima and the maxima agree with the rules by the lemmas above. -/
theorem scalarDivisionAndExtremes : Obligations.ScalarDivisionAndExtremes := by
  intro s d a b h
  exact ⟨finish_alu2_ready (f := divW) h fun _ _ => rfl, finish_alu2_ready (f := divuW) h fun _ _ => rfl,
    finish_alu2_ready h remW_eq_tmod, finish_alu2_ready (f := remuW) h fun _ _ => rfl,
    finish_alu2_ready h minW_eq_ite_lt, finish_alu2_ready h maxW_eq_ite_lt,
    finish_alu2_ready h minuW_eq_ite_lt, finish_alu2_ready h maxuW_eq_ite_lt⟩

end Sys2Proof.Machine
end

section
/-! The trap instructions (R410): what their shared form leaves where its operand stage is ready, and the instructions whose only
effect is to trap. -/

namespace Sys2Proof.Machine

/-- Once its operand stage is ready, an instruction that traps as its effect has the flags of what it popped in FPFLAGS and takes its
trap with x[a] as TRAPADDR (R182, R404, R410). -/
theorem finish_trapAfter_ready {s : State} {a : Nat} (cause : Nat) (h : s.readyA a = true) :
    finish (trapAfter cause a) s =
      .next ((s.started .none (.src a) .none).flagged.trapped cause (s.vals .none (.src a) .none).a) := by
  obtain ⟨hready, hquiet⟩ := Bool.and_eq_true_iff.mp h
  apply finish_trap
  simp only [trapAfter, M.bind_run, operands_ready hready hquiet rfl, M.modify_run, M.trapM_run, State.flagged]

/-- An instruction that only traps takes its trap from the state in which it began, with 0 as TRAPADDR. -/
theorem finish_trapM (cause : Nat) (s : State) : finish (trapM cause) s = .next (s.begin.trapped cause) :=
  finish_trap (M.trapM_run cause 0#64 s.begin)

/-- Settles O33: TRAP and SYSCALL trap after their operand stage; BKPT and the two chains that name no instruction trap at once. -/
theorem trapInstructions : Obligations.TrapInstructions := by
  intro s a
  exact ⟨fun h => ⟨finish_trapAfter_ready tTrap h, finish_trapAfter_ready tSyscall h⟩,
    finish_trapM tBkpt s, finish_trapM tIllegal s, finish_trapM tPrefix s⟩

end Sys2Proof.Machine
end
